-- ==== Sys2Proof/Word.lean ====
section
/-! DEFINITION. The word types of the Mioris 9 and the names of its cores and contexts (01_machine.md R21, R23). -/
namespace Sys2Proof

/-- A scalar register or doubleword (R83). -/
abbrev Word := BitVec 64
/-- The smallest addressable unit (R181). -/
abbrev Byte := BitVec 8
/-- A vector register (R252). -/
abbrev VWord := BitVec 512

/-- A core as its partition names it: partition, virtual package, virtual vcore (R23, R421). -/
structure CoreId where
  part : Nat
  pkg : Nat
  vc : Nat
  deriving DecidableEq, Repr, Inhabited

/-- A context slot of a core: 0 the control context, 1-10 the helpers (R21). -/
structure CtxId where
  core : CoreId
  slot : Nat
  deriving DecidableEq, Repr, Inhabited

/-- A virtual cluster of a partition; virtual vcore `v` belongs to virtual cluster `v >> 3` (R423). -/
structure CluId where
  part : Nat
  pkg : Nat
  clu : Nat
  deriving DecidableEq, Repr, Inhabited

end Sys2Proof
end

