-- ==== Sys2Proof/Config.lean ====
section
/-! DEFINITION. What an implementation fixes and the spec leaves open: the free values (no body, so nothing can be
proved of them) and the constants of the package of R10. -/
namespace Sys2Proof

/-- A doubleword the spec leaves open (R5, R230, R359): free for each value of the counter `State.fresh` (log 8). -/
opaque Config.freeWord : Nat → BitVec 64
/-- A byte the spec leaves open (R185, R230): free for each value of the counter `State.fresh` (log 8). -/
opaque Config.freeByte : Nat → BitVec 8
/-- The code a header's OP field gives an operation (R373), for which the spec has no table; by kind of message (log 8). -/
opaque Config.headerOp : Nat → BitVec 8
/-- Whether a signature verifies over a message under a public key (R448, R457): the flag picks ML-DSA-65, else Ed25519. The schemes of
RFC 8032 and FIPS 204 are outside the manual (log 9). Key, message, signature. -/
opaque Config.verifies : Bool → List Byte → List Byte → List Byte → Bool
/-- SHA-384 (R457, R458), outside the manual (log 9). -/
opaque Config.sha384 : List Byte → List Byte
/-- The signature a private key makes over a message (R448, R458), outside the manual (log 9); the flag picks ML-DSA-65. -/
opaque Config.signs : Bool → List Byte → List Byte → List Byte
/-- The public half of a private key (R458), outside the manual (log 9). -/
opaque Config.publicHalf : Bool → List Byte → List Byte

/-- Nanoseconds are counted in quarter ticks of the 4.0 GHz clock (R11). -/
abbrev Config.ccPerNs : Nat := 4

end Sys2Proof
end

