-- ==== Sys2Proof/Syntax.lean ====
section
/-! DEFINITION. The instruction words and the internal steps of the Mioris 9 as one inductive type (02_encoding.md
R26-R49; the steps are those of spec/opcode_table.json). Operands stand destination first (R8). -/
namespace Sys2Proof

/-- A scalar register number s0-s31 (R50). -/
abbrev Reg := Fin 32
/-- A vector register number v0-v63 (R50). -/
abbrev VReg := Fin 64

/-- Access sizes .b .h .w .d (R39, R40). -/
inductive Size where | b | h | w | d
  deriving DecidableEq, Repr, Inhabited
/-- Widths of EXTS, EXTZ, INS (R36). -/
inductive ExtW where | b | h | w
  deriving DecidableEq, Repr, Inhabited
/-- Scopes (R41). -/
inductive Scope where | ctx | core | clu | die | pkg | dom
  deriving DecidableEq, Repr, Inhabited
/-- Signedness .s .z (R42). -/
inductive Sgn where | s | z
  deriving DecidableEq, Repr, Inhabited
/-- Fence kinds (R44). -/
inductive FenceKind where | acq | rel | acqrel | sc
  deriving DecidableEq, Repr, Inhabited
/-- Scalar precisions .h .b .s .d: FP16, BF16, FP32, FP64 (R45). -/
inductive Prec where | h | b | s | d
  deriving DecidableEq, Repr, Inhabited
/-- Rounding codes (R45); `dyn` is code 7, the mode in FRM. -/
inductive Rnd where | rne | rtz | rup | rdn | sr | dyn
  deriving DecidableEq, Repr, Inhabited
/-- FSGN kinds (R45). -/
inductive SgnKind where | copy | neg | xor
  deriving DecidableEq, Repr, Inhabited
/-- FCVT types (R45). -/
inductive FType where | h | b | s | d | ls | lz
  deriving DecidableEq, Repr, Inhabited
/-- Vector types (R46). -/
inductive VType where | f32 | f16 | bf16 | i32 | i16 | i8
  deriving DecidableEq, Repr, Inhabited
/-- VRED kinds (R46). -/
inductive RedKind where | add | min | max
  deriving DecidableEq, Repr, Inhabited
/-- VCMP kinds (R46). -/
inductive CmpKind where | eq | lt | le | ne
  deriving DecidableEq, Repr, Inhabited
/-- Format codes 0-17 (R47). -/
inductive Fmt where
  | f32 | f16 | bf16 | i32 | i16 | i8 | e5m2 | e4m3 | e3m2 | e2m3 | e2m1
  | mxfp8e5m2 | mxfp8e4m3 | mxfp6e3m2 | mxfp6e2m3 | mxfp4 | nx4 | i4
  deriving DecidableEq, Repr, Inhabited
/-- Neighbour directions (R48). -/
inductive Dir where | north | east | south | west
  deriving DecidableEq, Repr, Inhabited
/-- The operations of atomics and reductions (R203, R206). -/
inductive AtOp where | add | and | or | xor | mins | minz | maxs | maxz | swap | cas | fadd
  deriving DecidableEq, Repr, Inhabited
/-- What a Dweulo core asks of the host window (R434, R435): a load, a store, or an atomic of the Felpe base with its operand and comparand. -/
inductive HostOp where | load | store (v : Word) | atomic (op : AtOp) (x c : Word)
  deriving DecidableEq, Repr, Inhabited
/-- BRED operators (R48). -/
inductive BredOp where | add | fadds | faddd | min | max | and | or
  deriving DecidableEq, Repr, Inhabited

/-- A host control command as it stands when its HCCMD write starts it (R436, R437): the package whose aperture is
written, PART, and HCARG0-HCARG2. -/
structure HostCmd where
  pkg : Nat
  part : Nat
  arg0 : Word
  arg1 : Word
  arg2 : Word
  deriving DecidableEq, Repr, Inhabited

/-- Every row of spec/opcode_table.json. The first 188 constructors are instruction words; the others are the device's
own steps, whose operands name the message, context, core, job or package they act on. -/
inductive Instr where
  /-- ADD (R98). -/
  | add (d a b : Reg)
  /-- SUB (R98). -/
  | sub (d a b : Reg)
  /-- AND (R98). -/
  | and (d a b : Reg)
  /-- OR (R98). -/
  | or (d a b : Reg)
  /-- XOR (R98). -/
  | xor (d a b : Reg)
  /-- ANDN (R98). -/
  | andn (d a b : Reg)
  /-- ORN (R98). -/
  | orn (d a b : Reg)
  /-- SLL (R98). -/
  | sll (d a b : Reg)
  /-- SRL (R98). -/
  | srl (d a b : Reg)
  /-- SRA (R98). -/
  | sra (d a b : Reg)
  /-- ROR (R98). -/
  | ror (d a b : Reg)
  /-- MUL (R98). -/
  | mul (d a b : Reg)
  /-- MULHS (R98). -/
  | mulhs (d a b : Reg)
  /-- MULHZ (R98). -/
  | mulhz (d a b : Reg)
  /-- DIVS (R98). -/
  | divs (d a b : Reg)
  /-- DIVZ (R98). -/
  | divz (d a b : Reg)
  /-- REMS (R98). -/
  | rems (d a b : Reg)
  /-- REMZ (R98). -/
  | remz (d a b : Reg)
  /-- MINS (R98). -/
  | mins (d a b : Reg)
  /-- MAXS (R98). -/
  | maxs (d a b : Reg)
  /-- MINZ (R98). -/
  | minz (d a b : Reg)
  /-- MAXZ (R98). -/
  | maxz (d a b : Reg)
  /-- SLTS (R98). -/
  | slts (d a b : Reg)
  /-- SLTZ (R98). -/
  | sltz (d a b : Reg)
  /-- CLZ (R98). -/
  | clz (d a : Reg)
  /-- CTZ (R98). -/
  | ctz (d a : Reg)
  /-- POPC (R98). -/
  | popc (d a : Reg)
  /-- BREV (R98). -/
  | brev (d a : Reg)
  /-- BSWP (R98). -/
  | bswp (d a : Reg)
  /-- EXTS (R98). -/
  | exts (d a : Reg) (wd : ExtW)
  /-- EXTZ (R98). -/
  | extz (d a : Reg) (wd : ExtW)
  /-- INS (R98). -/
  | ins (d a b : Reg) (wd : ExtW)
  /-- IDX (R98). -/
  | idx (d a b : Reg) (n : Fin 4)
  /-- ADDI (R102). -/
  | addi (d a : Reg) (imm : BitVec 16)
  /-- ANDI (R102). -/
  | andi (d a : Reg) (imm : BitVec 16)
  /-- ORI (R102). -/
  | ori (d a : Reg) (imm : BitVec 16)
  /-- XORI (R102). -/
  | xori (d a : Reg) (imm : BitVec 16)
  /-- SLLI (R102). -/
  | slli (d a : Reg) (sh : Fin 64)
  /-- SRLI (R102). -/
  | srli (d a : Reg) (sh : Fin 64)
  /-- SRAI (R102). -/
  | srai (d a : Reg) (sh : Fin 64)
  /-- SLTSI (R102). -/
  | sltsi (d a : Reg) (imm : BitVec 16)
  /-- SLTZI (R102). -/
  | sltzi (d a : Reg) (imm : BitVec 16)
  /-- LIH (R102). -/
  | lih (d : Reg) (k : Fin 4) (imm : BitVec 16)
  /-- PCREL (R102). -/
  | pcrel (d : Reg) (imm : BitVec 16)
  /-- BEQ (R104). -/
  | beq (a b : Reg) (off : BitVec 16)
  /-- BNE (R104). -/
  | bne (a b : Reg) (off : BitVec 16)
  /-- JMPR (R105). -/
  | jmpr (d t : Reg)
  /-- BLT (R104). -/
  | blt (a b : Reg) (off : BitVec 15)
  /-- BGE (R104). -/
  | bge (a b : Reg) (off : BitVec 15)
  /-- BLO (R104). -/
  | blo (a b : Reg) (off : BitVec 15)
  /-- BHS (R104). -/
  | bhs (a b : Reg) (off : BitVec 15)
  /-- CALL (R104). -/
  | call (d : Reg) (off : BitVec 21)
  /-- LD (R200). -/
  | ld (d base : Reg) (sz : Size) (off : BitVec 11) (la : Fin 16)
  /-- LDS (R200). -/
  | lds (d base : Reg) (sz : Size) (off : BitVec 11) (la : Fin 16)
  /-- ST (R200). -/
  | st (data base : Reg) (sz : Size) (off : BitVec 11)
  /-- LDX (R200). -/
  | ldx (d a b : Reg) (sz : Size) (la : Fin 16)
  /-- LDA (R200). -/
  | lda (d a b : Reg) (sz : Size) (sc : Scope) (la : Fin 16)
  /-- STL (R200). -/
  | stl (data a b : Reg) (sz : Size) (sc : Scope)
  /-- STP (R200). -/
  | stp (data a b : Reg) (sz : Size)
  /-- AADD (R203). -/
  | aadd (d a b : Reg) (dbl : Bool) (la : Fin 16)
  /-- AAND (R203). -/
  | aand (d a b : Reg) (dbl : Bool) (la : Fin 16)
  /-- AOR (R203). -/
  | aor (d a b : Reg) (dbl : Bool) (la : Fin 16)
  /-- AXOR (R203). -/
  | axor (d a b : Reg) (dbl : Bool) (la : Fin 16)
  /-- AMIN (R203). -/
  | amin (d a b : Reg) (k : Sgn) (dbl : Bool) (la : Fin 16)
  /-- AMAX (R203). -/
  | amax (d a b : Reg) (k : Sgn) (dbl : Bool) (la : Fin 16)
  /-- ASWP (R203). -/
  | aswp (d a b : Reg) (dbl : Bool) (la : Fin 16)
  /-- ACAS (R203). -/
  | acas (d a b : Reg) (dbl : Bool) (la : Fin 16)
  /-- AFADD (R203). -/
  | afadd (d a b : Reg) (dbl : Bool) (la : Fin 16)
  /-- RADD (R206). -/
  | radd (a b : Reg) (dbl : Bool)
  /-- RMIN (R206). -/
  | rmin (a b : Reg) (k : Sgn) (dbl : Bool)
  /-- RMAX (R206). -/
  | rmax (a b : Reg) (k : Sgn) (dbl : Bool)
  /-- RFADD (R206). -/
  | rfadd (a b : Reg) (dbl : Bool)
  /-- RLOG (R209). -/
  | rlog (a b : Reg) (flt : Bool) (dbl : Bool)
  /-- RMRG (R211). -/
  | rmrg (d : Reg) (la : Fin 16)
  /-- FENCE (R212). -/
  | fence (k : FenceKind) (sc : Scope)
  /-- CPREF (R213). -/
  | cpref (a : Reg)
  /-- CFLUSH (R213). -/
  | cflush (a : Reg)
  /-- CDROP (R213). -/
  | cdrop (a : Reg)
  /-- SBWAIT (R213). -/
  | sbwait
  /-- FADD (R108). -/
  | fadd (d a b : Reg) (p : Prec) (r : Rnd)
  /-- FSUB (R108). -/
  | fsub (d a b : Reg) (p : Prec) (r : Rnd)
  /-- FMUL (R108). -/
  | fmul (d a b : Reg) (p : Prec) (r : Rnd)
  /-- FDIV (R108). -/
  | fdiv (d a b : Reg) (p : Prec) (r : Rnd)
  /-- FSQRT (R108). -/
  | fsqrt (d a : Reg) (p : Prec) (r : Rnd)
  /-- FMIN (R109). -/
  | fmin (d a b : Reg) (p : Prec)
  /-- FMAX (R109). -/
  | fmax (d a b : Reg) (p : Prec)
  /-- FMAD (R108). -/
  | fmad (d a b c : Reg) (p : Prec) (r : Rnd)
  /-- FEQ (R110). -/
  | feq (d a b : Reg) (p : Prec)
  /-- FLT (R110). -/
  | flt (d a b : Reg) (p : Prec)
  /-- FLE (R110). -/
  | fle (d a b : Reg) (p : Prec)
  /-- FCLS (R111). -/
  | fcls (d a : Reg) (p : Prec)
  /-- FSGN (R112). -/
  | fsgn (d a b : Reg) (p : Prec) (k : SgnKind)
  /-- FCVT (R113). -/
  | fcvt (d a : Reg) (dst src : FType) (r : Rnd)
  /-- VGRANT (R258). -/
  | vgrant (d a : Reg)
  /-- VRETN (R258). -/
  | vretn (d a : Reg)
  /-- VIND (R261). -/
  | vind (vd vb : VReg) (a : Reg)
  /-- VMVS (R261). -/
  | vmvs (d : Reg) (va : VReg) (b : Reg) (t : VType)
  /-- VMSV (R261). -/
  | vmsv (vd : VReg) (a b : Reg) (t : VType)
  /-- VBCAST (R261). -/
  | vbcast (vd : VReg) (a : Reg) (t : VType)
  /-- VLD (R259). -/
  | vld (vd : VReg) (a b : Reg) (t : VType)
  /-- VST (R259). -/
  | vst (vd : VReg) (a b : Reg) (t : VType)
  /-- VLDX (R260). -/
  | vldx (vd : VReg) (a : Reg) (vb : VReg) (t : VType)
  /-- VSTX (R260). -/
  | vstx (vd : VReg) (a : Reg) (vb : VReg) (t : VType)
  /-- VADD (R262). -/
  | vadd (vd va vb : VReg) (t : VType)
  /-- VSUB (R262). -/
  | vsub (vd va vb : VReg) (t : VType)
  /-- VMUL (R262). -/
  | vmul (vd va vb : VReg) (t : VType)
  /-- VFMA (R262). -/
  | vfma (vd va vb : VReg) (t : VType)
  /-- VMAX (R262). -/
  | vmax (vd va vb : VReg) (t : VType)
  /-- VMIN (R262). -/
  | vmin (vd va vb : VReg) (t : VType)
  /-- VEXP (R262). -/
  | vexp (vd va : VReg) (t : VType)
  /-- VRCP (R262). -/
  | vrcp (vd va : VReg) (t : VType)
  /-- VRSQ (R262). -/
  | vrsq (vd va : VReg) (t : VType)
  /-- VRED (R263). -/
  | vred (vd va : VReg) (k : RedKind) (t : VType)
  /-- VPERM (R261). -/
  | vperm (vd va vb : VReg) (t : VType)
  /-- VCMP (R263). -/
  | vcmp (vd va vb : VReg) (k : CmpKind) (t : VType)
  /-- VSEL (R261). -/
  | vsel (vd va vb : VReg) (t : VType)
  /-- VCVT (R264). -/
  | vcvt (vd va : VReg) (dst src : Fmt) (r : Rnd)
  /-- QBIND (R280). -/
  | qbind (q : Fin 8) (a : Reg)
  /-- QFIB (R281). -/
  | qfib (q : Fin 8) (a : Reg)
  /-- QISECT (R282). -/
  | qisect (q : Fin 8) (a : Reg)
  /-- QUNION (R282). -/
  | qunion (q : Fin 8) (a : Reg)
  /-- QNBR (R283). -/
  | qnbr (q : Fin 8) (dir : Dir)
  /-- QFREE (R285). -/
  | qfree (q : Fin 8)
  /-- QSKIP (R286). -/
  | qskip (q : Fin 8) (a : Reg)
  /-- QCRD (R287). -/
  | qcrd (d : Reg) (q : Fin 8) (la : Fin 16)
  /-- QEND (R288). -/
  | qend (d : Reg) (q : Fin 8) (la : Fin 16)
  /-- QCTL (R289). -/
  | qctl (d : Reg) (q : Fin 8) (a : Reg) (la : Fin 16)
  /-- QSAVE (R290). -/
  | qsave (q : Fin 8) (a : Reg)
  /-- QLOAD (R290). -/
  | qload (q : Fin 8) (a : Reg)
  /-- FCHK (R304). -/
  | fchk (d a : Reg) (la : Fin 16)
  /-- HSTART (R132). -/
  | hstart (d a b : Reg)
  /-- HWAIT (R134). -/
  | hwait (d a : Reg)
  /-- HKILL (R134). -/
  | hkill (d a : Reg)
  /-- HKILL_SELF (R134). -/
  | hkillSelf (d b : Reg)
  /-- HSTAT (R135). -/
  | hstat (d a : Reg)
  /-- HLEND (R136). -/
  | hlend (d a : Reg)
  /-- HRECL (R136). -/
  | hrecl (d a : Reg)
  /-- SELF (R137). -/
  | self (d : Reg)
  /-- YIELD (R137). -/
  | yield
  /-- MIGR (R138). -/
  | migr (d a : Reg)
  /-- PIN (R137). -/
  | pin (d : Reg)
  /-- UNPIN (R137). -/
  | unpin (d : Reg)
  /-- PARK (R139). -/
  | park (d a : Reg)
  /-- WAKE (R139). -/
  | wake (a : Reg)
  /-- TENQ (R171). -/
  | tenq (d a b : Reg)
  /-- TENQD (R172). -/
  | tenqd (d a : Reg)
  /-- TDONE (R173). -/
  | tdone
  /-- TSETTLE (R174). -/
  | tsettle
  /-- TABORT (R175). -/
  | tabort (a : Reg)
  /-- TSRD (R176). -/
  | tsrd (d a : Reg)
  /-- TGVT (R177). -/
  | tgvt (d : Reg)
  /-- TNEST (R178). -/
  | tnest (d : Reg)
  /-- TLEAVE (R178). -/
  | tleave (d : Reg)
  /-- TDEFER (R179). -/
  | tdefer (a b : Reg)
  /-- MXWAIT (R324). -/
  | mxwait (d : Reg)
  /-- MXSTAT (R324). -/
  | mxstat (d a : Reg)
  /-- MXSPC (R324). -/
  | mxspc (d : Reg)
  /-- CPY (R351). -/
  | cpy (d a : Reg)
  /-- CPYWAIT (R352). -/
  | cpywait (d a : Reg)
  /-- CPYQ (R352). -/
  | cpyq (d a : Reg)
  /-- PUBL (R353). -/
  | publ (d a b : Reg)
  /-- EMBG (R351). -/
  | embg (d a : Reg)
  /-- RMOVE (R351). -/
  | rmove (d a : Reg)
  /-- RACQ (R366). -/
  | racq (d a b : Reg) (la : Fin 16)
  /-- RCOM (R366). -/
  | rcom (d a b : Reg) (la : Fin 16)
  /-- RPEEK (R366). -/
  | rpeek (d a : Reg) (la : Fin 16)
  /-- RPEEK_TAKE (R366). -/
  | rpeekTake (d a : Reg) (la : Fin 16)
  /-- RREL (R366). -/
  | rrel (d a b : Reg) (la : Fin 16)
  /-- RDISP (R366). -/
  | rdisp (d a b : Reg) (la : Fin 16)
  /-- BARR (R395). -/
  | barr (a : Reg)
  /-- BWAIT (R395). -/
  | bwait (d : Reg)
  /-- BSYNC (R395). -/
  | bsync (d a : Reg)
  /-- BRED (R395). -/
  | bred (d a b : Reg) (op : BredOp)
  /-- BSET (R396). -/
  | bset (d a b : Reg)
  /-- TRAP (R415). -/
  | trap (code : BitVec 12)
  /-- ERET (R416). -/
  | eret
  /-- EBRK (R415). -/
  | ebrk (code : BitVec 12)
  /-- JRD (R417). -/
  | jrd (d a : Reg)
  /-- SYSRD (R413). -/
  | sysrd (d : Reg) (n : BitVec 12)
  /-- SYSWR (R413). -/
  | syswr (n : BitVec 12) (a : Reg)
  /-- BSTAT (R418). -/
  | bstat (cond a : Reg) (off : BitVec 15)
  /-- TLBINV (R244). -/
  | tlbinv (a b : Reg) (sc : Scope)
  /-- TLBSYNC (R245). -/
  | tlbsync (sc : Scope)
  /-- CTXSV (R431). -/
  | ctxsv (d a b : Reg) (la : Fin 16)
  /-- CTXLD (R431). -/
  | ctxld (d a b : Reg) (la : Fin 16)
  /-- RMAPW (R431). -/
  | rmapw (d a b : Reg) (la : Fin 16)
  /-- MBRD (R442). -/
  | mbrd (d a : Reg) (la : Fin 16)
  /-- MBWR (R442). -/
  | mbwr (a : Reg)
  /-- LOAD_REQUEST, a step of the device (spec/opcode_table.json, 95_what_each_step_holds.md). -/
  | loadRequest (m : Nat)
  /-- STORE_REQUEST, a step of the device (spec/opcode_table.json, 95_what_each_step_holds.md). -/
  | storeRequest (m : Nat)
  /-- L1_INVALIDATE, a step of the device (spec/opcode_table.json, 95_what_each_step_holds.md). -/
  | l1Invalidate (h : Nat) (c : CoreId)
  /-- HOME_WRITE_PERFORM, a step of the device (spec/opcode_table.json, 95_what_each_step_holds.md). -/
  | homeWritePerform (h : Nat)
  /-- ATOMIC_REQUEST, a step of the device (spec/opcode_table.json, 95_what_each_step_holds.md). -/
  | atomicRequest (m : Nat)
  /-- REDUCTION_REQUEST, a step of the device (spec/opcode_table.json, 95_what_each_step_holds.md). -/
  | reductionRequest (m : Nat)
  /-- RLOG_RECORD, a step of the device (spec/opcode_table.json, 95_what_each_step_holds.md). -/
  | rlogRecord (m : Nat)
  /-- REPLICA_TIMEOUT, a step of the device (spec/opcode_table.json, 95_what_each_step_holds.md). -/
  | replicaTimeout (m : Nat)
  /-- REPLY_LANDS, a step of the device (spec/opcode_table.json, 95_what_each_step_holds.md). -/
  | replyLands (m : Nat)
  /-- ACKNOWLEDGEMENT, a step of the device (spec/opcode_table.json, 95_what_each_step_holds.md). -/
  | acknowledgement (m : Nat)
  /-- NEGATIVE_ACKNOWLEDGEMENT, a step of the device (spec/opcode_table.json, 95_what_each_step_holds.md). -/
  | negativeAcknowledgement (m : Nat)
  /-- L2CFG_WRITE, a step of the device (spec/opcode_table.json, 95_what_each_step_holds.md). -/
  | l2cfgWrite (c : CoreId) (v : Word)
  /-- TASKCFG_WRITE, a step of the device (spec/opcode_table.json, 95_what_each_step_holds.md). -/
  | taskcfgWrite (c : CtxId) (v : Word)
  /-- ATBL_WRITE, a step of the device (spec/opcode_table.json, 95_what_each_step_holds.md). -/
  | atblWrite (p : Nat) (v : Word)
  /-- WINDOW_WRITE, a step of the device (spec/opcode_table.json, 95_what_each_step_holds.md). -/
  | windowWrite (c : CoreId) (n : Fin 4) (v : Word)
  /-- UPLOG_WRITE, a step of the device (spec/opcode_table.json, 95_what_each_step_holds.md). -/
  | uplogWrite (p : Nat) (v : Word)
  /-- PUBLISH_REGION_WRITE, a step of the device (spec/opcode_table.json, 95_what_each_step_holds.md). -/
  | publishRegionWrite (p : Nat) (size : Bool) (v : Word)
  /-- GSMARK_WRITE, a step of the device (spec/opcode_table.json, 95_what_each_step_holds.md). -/
  | gsmarkWrite (p : Nat) (v : Word)
  /-- PWRCAP_WRITE, a step of the device (spec/opcode_table.json, 95_what_each_step_holds.md). -/
  | pwrcapWrite (pkg : Nat) (v : Word)
  /-- REGISTER_WRITE, a step of the device (spec/opcode_table.json, 95_what_each_step_holds.md). -/
  | registerWrite (c : CtxId) (n : BitVec 12) (v : Word)
  /-- RCCMD_LOAD, a step of the device (spec/opcode_table.json, 95_what_each_step_holds.md). -/
  | rccmdLoad (c : CtxId) (addr : Word) (ix : Fin 64)
  /-- RCCMD_STORE, a step of the device (spec/opcode_table.json, 95_what_each_step_holds.md). -/
  | rccmdStore (c : CtxId) (addr : Word) (ix : Fin 64)
  /-- RCCMD_RELEASE, a step of the device (spec/opcode_table.json, 95_what_each_step_holds.md). -/
  | rccmdRelease (c : CtxId) (ix : Fin 64)
  /-- RCRST, a step of the device (spec/opcode_table.json, 95_what_each_step_holds.md). -/
  | rcrst (c : CtxId) (ix : Fin 64)
  /-- DEBUG_HALT, a step of the device (spec/opcode_table.json, 95_what_each_step_holds.md). -/
  | debugHalt (t : CtxId)
  /-- DEBUG_RESUME, a step of the device (spec/opcode_table.json, 95_what_each_step_holds.md). -/
  | debugResume (t : CtxId)
  /-- DEBUG_RESUME_ONE, a step of the device (spec/opcode_table.json, 95_what_each_step_holds.md). -/
  | debugResumeOne (t : CtxId)
  /-- DBGDAT, a step of the device (spec/opcode_table.json, 95_what_each_step_holds.md). -/
  | dbgdat (m : Nat)
  /-- MMA, a step of the device (spec/opcode_table.json, 95_what_each_step_holds.md). -/
  | mma (c : CoreId)
  /-- ACCZ, a step of the device (spec/opcode_table.json, 95_what_each_step_holds.md). -/
  | accz (c : CoreId)
  /-- ACCLD, a step of the device (spec/opcode_table.json, 95_what_each_step_holds.md). -/
  | accld (c : CoreId)
  /-- ACCST, a step of the device (spec/opcode_table.json, 95_what_each_step_holds.md). -/
  | accst (c : CoreId)
  /-- RINGDEF_DEFINE, a step of the device (spec/opcode_table.json, 95_what_each_step_holds.md). -/
  | ringdefDefine (c : CoreId)
  /-- RINGDEF_APPEND, a step of the device (spec/opcode_table.json, 95_what_each_step_holds.md). -/
  | ringdefAppend (c : CoreId)
  /-- QFENCE, a step of the device (spec/opcode_table.json, 95_what_each_step_holds.md). -/
  | qfence (c : CoreId)
  /-- JOB_START, a step of the device (spec/opcode_table.json, 95_what_each_step_holds.md). -/
  | jobStart (j : Nat)
  /-- COPY_JOB, a step of the device (spec/opcode_table.json, 95_what_each_step_holds.md). -/
  | copyJob (j n : Nat)
  /-- GATHER_JOB, a step of the device (spec/opcode_table.json, 95_what_each_step_holds.md). -/
  | gatherJob (j n : Nat)
  /-- COMPRESS_JOB, a step of the device (spec/opcode_table.json, 95_what_each_step_holds.md). -/
  | compressJob (j : Nat)
  /-- DECOMPRESS_JOB, a step of the device (spec/opcode_table.json, 95_what_each_step_holds.md). -/
  | decompressJob (j : Nat)
  /-- EMBG_SUM, a step of the device (spec/opcode_table.json, 95_what_each_step_holds.md). -/
  | embgSum (j : Nat)
  /-- EMBG_MEAN, a step of the device (spec/opcode_table.json, 95_what_each_step_holds.md). -/
  | embgMean (j : Nat)
  /-- EMBG_UPDATE_SUM, a step of the device (spec/opcode_table.json, 95_what_each_step_holds.md). -/
  | embgUpdateSum (j : Nat)
  /-- EMBG_UPDATE_MEAN, a step of the device (spec/opcode_table.json, 95_what_each_step_holds.md). -/
  | embgUpdateMean (j : Nat)
  /-- RMOVE_JOB, a step of the device (spec/opcode_table.json, 95_what_each_step_holds.md). -/
  | rmoveJob (j : Nat)
  /-- JOB_COMPLETION, a step of the device (spec/opcode_table.json, 95_what_each_step_holds.md). -/
  | jobCompletion (j : Nat)
  /-- PUBLISH_SWAP, a step of the device (spec/opcode_table.json, 95_what_each_step_holds.md). -/
  | publishSwap (x : Nat)
  /-- TLB_INVALIDATION, a step of the device (spec/opcode_table.json, 95_what_each_step_holds.md). -/
  | tlbInvalidation (x : Nat) (g : Nat)
  /-- INVALIDATION_ACK, a step of the device (spec/opcode_table.json, 95_what_each_step_holds.md). -/
  | invalidationAck (x : Nat) (g : Nat)
  /-- TABLE_WALK, a step of the device (spec/opcode_table.json, 95_what_each_step_holds.md). -/
  | tableWalk (w : Nat)
  /-- TASK_ARRIVAL, a step of the device (spec/opcode_table.json, 95_what_each_step_holds.md). -/
  | taskArrival (m : Nat)
  /-- TASK_REFILL, a step of the device (spec/opcode_table.json, 95_what_each_step_holds.md). -/
  | taskRefill (u : CluId)
  /-- TASK_DISPATCH, a step of the device (spec/opcode_table.json, 95_what_each_step_holds.md). -/
  | taskDispatch (c : CtxId)
  /-- EQUINOX_ROUND, a step of the device (spec/opcode_table.json, 95_what_each_step_holds.md). -/
  | equinoxRound (p : Nat)
  /-- ROUND_COMPLETE, a step of the device (spec/opcode_table.json, 95_what_each_step_holds.md). -/
  | roundComplete (p : Nat)
  /-- MIGRATION_RESERVE, a step of the device (spec/opcode_table.json, 95_what_each_step_holds.md). -/
  | migrationReserve (m : Nat)
  /-- RESERVATION_REPLY, a step of the device (spec/opcode_table.json, 95_what_each_step_holds.md). -/
  | reservationReply (m : Nat)
  /-- RESERVATION_TIMEOUT, a step of the device (spec/opcode_table.json, 95_what_each_step_holds.md). -/
  | reservationTimeout (c : CtxId)
  /-- RESERVATION_CANCEL, a step of the device (spec/opcode_table.json, 95_what_each_step_holds.md). -/
  | reservationCancel (m : Nat)
  /-- MIGRATION_DEPART, a step of the device (spec/opcode_table.json, 95_what_each_step_holds.md). -/
  | migrationDepart (c : CtxId)
  /-- MIGRATION_ARRIVAL, a step of the device (spec/opcode_table.json, 95_what_each_step_holds.md). -/
  | migrationArrival (m : Nat)
  /-- EXIT_COMPLETE, a step of the device (spec/opcode_table.json, 95_what_each_step_holds.md). -/
  | exitComplete (c : CtxId)
  /-- EXIT_NOTICE, a step of the device (spec/opcode_table.json, 95_what_each_step_holds.md). -/
  | exitNotice (m : Nat)
  /-- KILL_ARRIVAL, a step of the device (spec/opcode_table.json, 95_what_each_step_holds.md). -/
  | killArrival (m : Nat)
  /-- WAKE_ARRIVAL, a step of the device (spec/opcode_table.json, 95_what_each_step_holds.md). -/
  | wakeArrival (m : Nat)
  /-- PARK_TIMEOUT, a step of the device (spec/opcode_table.json, 95_what_each_step_holds.md). -/
  | parkTimeout (c : CtxId)
  /-- NEIGHBOUR_WORD_ARRIVAL, a step of the device (spec/opcode_table.json, 95_what_each_step_holds.md). -/
  | neighbourWordArrival (m : Nat)
  /-- BARRIER_ARRIVAL, a step of the device (spec/opcode_table.json, 95_what_each_step_holds.md). -/
  | barrierArrival (m : Nat)
  /-- BARRIER_RELEASE, a step of the device (spec/opcode_table.json, 95_what_each_step_holds.md). -/
  | barrierRelease (c : CtxId)
  /-- JOURNAL_TRAP, a step of the device (spec/opcode_table.json, 95_what_each_step_holds.md). -/
  | journalTrap (c : CoreId)
  /-- TASK_UNIT_TRAP, a step of the device (spec/opcode_table.json, 95_what_each_step_holds.md). -/
  | taskUnitTrap (u : CluId)
  /-- INBOUND_PARK_TIMEOUT, a step of the device (spec/opcode_table.json, 95_what_each_step_holds.md). -/
  | inboundParkTimeout (m : Nat)
  /-- PACKET_TRIM, a step of the device (spec/opcode_table.json, 95_what_each_step_holds.md). -/
  | packetTrim (m : Nat)
  /-- PACKET_ARRIVAL, a step of the device (spec/opcode_table.json, 95_what_each_step_holds.md). -/
  | packetArrival (m : Nat)
  /-- TRIMMED_HEADER, a step of the device (spec/opcode_table.json, 95_what_each_step_holds.md). -/
  | trimmedHeader (m : Nat)
  /-- RE_REQUEST, a step of the device (spec/opcode_table.json, 95_what_each_step_holds.md). -/
  | reRequest (m : Nat)
  /-- DELIVERY_MARK, a step of the device (spec/opcode_table.json, 95_what_each_step_holds.md). -/
  | deliveryMark (m : Nat)
  /-- BARE_DELIVERY_MARK, a step of the device (spec/opcode_table.json, 95_what_each_step_holds.md). -/
  | bareDeliveryMark (x : Nat)
  /-- END_TO_END_EXPIRY, a step of the device (spec/opcode_table.json, 95_what_each_step_holds.md). -/
  | endToEndExpiry (m : Nat)
  /-- LINK_REPLAY, a step of the device (spec/opcode_table.json, 95_what_each_step_holds.md). -/
  | linkReplay (pkg link : Nat)
  /-- LANE_RETIREMENT, a step of the device (spec/opcode_table.json, 95_what_each_step_holds.md). -/
  | laneRetirement (pkg lane cause : Nat)
  /-- ROUTER_POWER_DOWN, a step of the device (spec/opcode_table.json, 95_what_each_step_holds.md). -/
  | routerPowerDown (pkg r : Nat)
  /-- ROUTER_WAKE, a step of the device (spec/opcode_table.json, 95_what_each_step_holds.md). -/
  | routerWake (pkg r : Nat)
  /-- SOLSTICE_MARK, a step of the device (spec/opcode_table.json, 95_what_each_step_holds.md). -/
  | solsticeMark (p : Nat)
  /-- QUIESCE_REPORT, a step of the device (spec/opcode_table.json, 95_what_each_step_holds.md). -/
  | quiesceReport (p pkg : Nat)
  /-- LAGGARD, a step of the device (spec/opcode_table.json, 95_what_each_step_holds.md). -/
  | laggard (p pkg : Nat)
  /-- HARD_QUIESCE, a step of the device (spec/opcode_table.json, 95_what_each_step_holds.md). -/
  | hardQuiesce (p pkg : Nat)
  /-- RESTORE, a step of the device (spec/opcode_table.json, 95_what_each_step_holds.md). -/
  | restore (p : Nat)
  /-- SLICE_START, a step of the device (spec/opcode_table.json, 95_what_each_step_holds.md). -/
  | sliceStart (p : Nat)
  /-- HOST_SYSWR, a step of the device (spec/opcode_table.json, 95_what_each_step_holds.md). -/
  | hostSyswr (h : HostCmd)
  /-- HOST_SYSRD, a step of the device (spec/opcode_table.json, 95_what_each_step_holds.md). -/
  | hostSysrd (h : HostCmd)
  /-- HOST_RMAPW, a step of the device (spec/opcode_table.json, 95_what_each_step_holds.md). -/
  | hostRmapw (h : HostCmd)
  /-- FORM, a step of the device (spec/opcode_table.json, 95_what_each_step_holds.md). -/
  | form (h : HostCmd)
  /-- START, a step of the device (spec/opcode_table.json, 95_what_each_step_holds.md). -/
  | start (h : HostCmd)
  /-- ROUTE, a step of the device (spec/opcode_table.json, 95_what_each_step_holds.md). -/
  | route (h : HostCmd)
  /-- RESUME, a step of the device (spec/opcode_table.json, 95_what_each_step_holds.md). -/
  | resume (h : HostCmd)
  /-- DISSOLVE, a step of the device (spec/opcode_table.json, 95_what_each_step_holds.md). -/
  | dissolve (h : HostCmd)
  /-- MBPOST, a step of the device (spec/opcode_table.json, 95_what_each_step_holds.md). -/
  | mbpost (pkg p : Nat)
  /-- MBTAKE, a step of the device (spec/opcode_table.json, 95_what_each_step_holds.md). -/
  | mbtake (pkg p : Nat)
  /-- HCEVT_CLEAR, a step of the device (spec/opcode_table.json, 95_what_each_step_holds.md). -/
  | hcevtClear (pkg : Nat) (v : Word)
  /-- HOST_WINDOW_ACCESS, a step of the device (spec/opcode_table.json, 95_what_each_step_holds.md). -/
  | hostWindowAccess (pkg off bytes : Nat) (op : HostOp)
  /-- POWER_GOOD, a step of the device (spec/opcode_table.json, 95_what_each_step_holds.md). -/
  | powerGood (pkg : Nat)
  /-- FIRMWARE_VERIFICATION, a step of the device (spec/opcode_table.json, 95_what_each_step_holds.md). -/
  | firmwareVerification (pkg : Nat)
  /-- SELF_CALIBRATION, a step of the device (spec/opcode_table.json, 95_what_each_step_holds.md). -/
  | selfCalibration (pkg : Nat) (failed : List (BitVec 64))
  /-- NUMBERING, a step of the device (spec/opcode_table.json, 95_what_each_step_holds.md). -/
  | numbering (pkg : Nat)
  /-- MEMORY_INITIALISATION, a step of the device (spec/opcode_table.json, 95_what_each_step_holds.md). -/
  | memoryInitialisation (pkg : Nat)
  /-- THERMAL_EVALUATION, a step of the device (spec/opcode_table.json, 95_what_each_step_holds.md). -/
  | thermalEvaluation (pkg : Nat) (temps : List Nat) (power : Nat)
  /-- LIFETIME_WRITE, a step of the device (spec/opcode_table.json, 95_what_each_step_holds.md). -/
  | lifetimeWrite (pkg : Nat)
  /-- WINTER_REWRITE, a step of the device (spec/opcode_table.json, 95_what_each_step_holds.md). -/
  | winterRewrite (pkg : Nat)
  /-- ATTESTATION_REQUEST, a step of the device (spec/opcode_table.json, 95_what_each_step_holds.md). -/
  | attestationRequest (pkg : Nat) (nonce : List Byte)
  /-- POWER_LOSS, a step of the device (spec/opcode_table.json, 95_what_each_step_holds.md). -/
  | powerLoss (pkg : Nat)
  /-- RING_OPERATION, a step of the device (spec/opcode_table.json, 95_what_each_step_holds.md). -/
  | ringOperation (m : Nat)
  /-- PACING_INTERVAL_EXPIRY, a step of the device (spec/opcode_table.json, 95_what_each_step_holds.md). -/
  | pacingIntervalExpiry (x : Nat)
  deriving DecidableEq, Repr

end Sys2Proof
end

