-- ==== Sys2Proof/Machine/SysNumbers.lean ====
section
/-! DEFINITION. The system registers by name, their numbers and the levels that read and write them (18_traps.md
R412; R424, R440, R452, R453, R461). -/
namespace Sys2Proof.Machine

/-- The system registers the chapters assign. -/
inductive SysReg where
  | tcause | tval | epc | tstat | dbgctl | tsave0 | tsave1 | ctxid | vcore | fflags | frm | srkey | srctr | migcfg
  | tstamp | tdepth | vctl | qhvec | qhpc | qhval | mxs | barc | win (n : Fin 4) | winref | l2cfg | rlseq | vpcfg
  | qscfg | mxown | mxring (n : Fin 4) | lbst | netsel | netcnt | jflt | orphan | dbgsel | dbgdat | rccmd | rcrst
  | tvec | taskcfg | atbl | uplog | spbase | spsize | spfree | pmctl | hgrp (n : Fin 16) | gtime | devstat
  | gsmark | gsarea | gscfg | gsstat | mbstat | cfgsel | cfgdat | ltsel | ltdat | pwrcap | pwrstat
  deriving DecidableEq, Repr

/-- Who may read or write: program, control context at program level, supervisor, firmware (R412). -/
inductive SysLevel where | prog | ctl | sup | fw
  deriving DecidableEq, Repr

/-- What a register is held per (R412). -/
inductive SysHeld where | context | slot | core | cluster | partition | device
  deriving DecidableEq, Repr

/-- The register a number names (R412). -/
def sysOfNat (n : Nat) : Option SysReg :=
  if 0x100 ≤ n ∧ n ≤ 0x103 then some (.win (Fin.ofNat 4 (n - 0x100)))
  else if 0x10A ≤ n ∧ n ≤ 0x10D then some (.mxring (Fin.ofNat 4 (n - 0x10A)))
  else if 0x310 ≤ n ∧ n ≤ 0x31F then some (.hgrp (Fin.ofNat 16 (n - 0x310)))
  else match n with
  | 0x000 => some .tcause | 0x001 => some .tval | 0x002 => some .epc | 0x003 => some .tstat | 0x004 => some .dbgctl
  | 0x005 => some .tsave0 | 0x006 => some .tsave1 | 0x010 => some .ctxid | 0x011 => some .vcore
  | 0x012 => some .fflags | 0x013 => some .frm | 0x014 => some .srkey | 0x015 => some .srctr | 0x016 => some .migcfg
  | 0x017 => some .tstamp | 0x018 => some .tdepth | 0x019 => some .vctl | 0x01A => some .qhvec
  | 0x01B => some .qhpc | 0x01C => some .qhval | 0x01D => some .mxs | 0x01E => some .barc
  | 0x104 => some .winref | 0x105 => some .l2cfg | 0x106 => some .rlseq | 0x107 => some .vpcfg
  | 0x108 => some .qscfg | 0x109 => some .mxown | 0x10E => some .lbst | 0x10F => some .netsel
  | 0x110 => some .netcnt | 0x111 => some .jflt | 0x112 => some .orphan | 0x113 => some .dbgsel
  | 0x114 => some .dbgdat | 0x200 => some .rccmd | 0x201 => some .rcrst | 0x300 => some .tvec
  | 0x301 => some .taskcfg | 0x302 => some .atbl | 0x303 => some .uplog | 0x304 => some .spbase
  | 0x305 => some .spsize | 0x306 => some .spfree | 0x307 => some .pmctl | 0x400 => some .gtime
  | 0x401 => some .devstat | 0xC00 => some .gsmark | 0xC01 => some .gsarea | 0xC02 => some .gscfg
  | 0xC03 => some .gsstat | 0xC10 => some .mbstat | 0xC20 => some .cfgsel | 0xC21 => some .cfgdat
  | 0xC22 => some .ltsel | 0xC23 => some .ltdat | 0xC30 => some .pwrcap | 0xC31 => some .pwrstat
  | _ => none

/-- The level that may read the register (R412). -/
def SysReg.readLevel : SysReg → SysLevel
  | .tcause | .tval | .epc | .tstat | .dbgctl | .tsave0 | .tsave1 | .l2cfg | .netsel | .netcnt | .dbgsel | .dbgdat
  | .rccmd | .tvec | .taskcfg | .atbl | .uplog | .spbase | .spsize | .spfree | .pmctl | .hgrp _ | .gsmark | .gsarea
  | .gscfg | .gsstat | .cfgsel | .cfgdat | .ltsel | .ltdat | .pwrcap => .sup
  | _ => .prog

/-- The level that may write the register; none where the Write column is a dash (R412, R424, R440, R452, R461). -/
def SysReg.writeLevel : SysReg → Option SysLevel
  | .tcause | .tval | .epc | .tstat | .dbgctl | .tsave0 | .tsave1 | .l2cfg | .netsel | .dbgsel | .dbgdat | .rccmd
  | .tvec | .taskcfg | .atbl | .uplog | .spbase | .spsize | .pmctl | .hgrp _ | .cfgsel | .ltsel => some .sup
  | .fflags | .frm | .srkey | .srctr | .migcfg | .vctl | .qhvec | .rcrst => some .prog
  | .win _ | .rlseq | .vpcfg | .qscfg | .mxown => some .ctl
  | .gsmark | .gsarea | .gscfg | .pwrcap => some .fw
  | _ => none

/-- What the register is held per (R412). -/
def SysReg.held : SysReg → SysHeld
  | .tcause | .tval | .epc | .tstat | .tsave0 | .tsave1 | .ctxid | .vcore | .fflags | .frm | .srkey | .srctr
  | .migcfg | .tstamp | .tdepth | .vctl | .qhvec | .qhpc | .qhval | .mxs | .barc => .context
  | .dbgctl => .slot
  | .rccmd | .rcrst => .cluster
  | .tvec | .taskcfg | .atbl | .uplog | .spbase | .spsize | .spfree | .pmctl | .hgrp _ | .gsmark | .gsarea | .gscfg
  | .gsstat | .mbstat => .partition
  | .gtime | .devstat | .cfgsel | .cfgdat | .ltsel | .ltdat | .pwrcap | .pwrstat => .device
  | _ => .core

/-- A SYSRD of the number is a word the map assigns (R413). -/
def sysReadable (n : BitVec 12) : Bool := (sysOfNat n.toNat).isSome

/-- A SYSWR of the number is a word the map assigns (R413). -/
def sysWritable (n : BitVec 12) : Bool := ((sysOfNat n.toNat).bind SysReg.writeLevel).isSome

end Sys2Proof.Machine
end

