-- ==== Sys2Proof/WellFormed.lean ====
section
/-! DEFINITION. Which terms of `Instr` are instruction words the encoding admits (02_encoding.md R26-R49, R30, R38,
R39, R45, R47, R278). -/
namespace Sys2Proof

/-- How many low bits of the scaled offset the size leaves in off12 (R39). -/
def Size.offBits : Size → Nat
  | .d => 11 | .w => 10 | .h => 9 | .b => 8

/-- The offset fits the field its size leaves (R39). -/
def offFits (sz : Size) (off : BitVec 11) : Bool :=
  decide (-(2 ^ (sz.offBits - 1) : Int) ≤ off.toInt) && decide (off.toInt < (2 ^ (sz.offBits - 1) : Int))

/-- A lookahead is admitted only with a destination other than s0 (R30). -/
def laOk (d : Reg) (la : Fin 16) : Bool := la == 0 || d != 0

/-- Formats 0-5 of VCVT, one of which stands on one side at least (R47). -/
def Fmt.plain : Fmt → Bool
  | .f32 | .f16 | .bf16 | .i32 | .i16 | .i8 => true
  | _ => false

/-- FCVT type pairs: unlike, and not both integers (R45). -/
def fcvtOk (dst src : FType) : Bool :=
  dst != src && !((dst == .ls || dst == .lz) && (src == .ls || src == .lz))

/-- VCVT format pairs (R47). -/
def vcvtOk (dst src : Fmt) : Bool := (dst.plain || src.plain) && dst != src

/-- The floating vector types (R46). -/
def VType.isFloat : VType → Bool
  | .f32 | .f16 | .bf16 => true
  | _ => false

/-- The term is a word the map of 02_encoding.md assigns, or a step of the device. -/
def Instr.wellFormed : Instr → Bool
  | .beq a b _ => decide (a < b)
  | .bne a b _ => decide (b < a)
  | .ld d _ sz off la => offFits sz off && laOk d la
  | .lds d _ sz off la => sz != .d && offFits sz off && laOk d la
  | .st _ _ sz off => offFits sz off
  | .ldx d _ _ _ la | .lda d _ _ _ _ la => laOk d la
  | .aadd d _ _ _ la | .aand d _ _ _ la | .aor d _ _ _ la | .axor d _ _ _ la | .aswp d _ _ _ la
  | .acas d _ _ _ la | .afadd d _ _ _ la => laOk d la
  | .amin d _ _ _ _ la | .amax d _ _ _ _ la => laOk d la
  | .rmrg d la | .fchk d _ la | .qcrd d _ la | .qend d _ la | .qctl d _ _ la => laOk d la
  | .racq d _ _ la | .rcom d _ _ la | .rrel d _ _ la | .rdisp d _ _ la | .rpeek d _ la | .rpeekTake d _ la => laOk d la
  | .ctxsv d _ _ la | .ctxld d _ _ la | .rmapw d _ _ la | .mbrd d _ la => laOk d la
  | .fcvt _ _ dst src _ => fcvtOk dst src
  | .vexp _ _ t | .vrcp _ _ t | .vrsq _ _ t => t.isFloat
  | .vcvt _ _ dst src _ => vcvtOk dst src
  | .hkill _ a => a != 0
  | .bstat cond _ _ => decide (cond.val < 24)
  | .sysrd _ n => Machine.sysReadable n
  | .syswr n _ => Machine.sysWritable n
  | _ => true

end Sys2Proof
end

