-- ==== Sys2Proof/Decode.lean ====
section
/-! DEFINITION. Decoding and encoding of the 32-bit instruction words (02_encoding.md R26-R49). The decoder is total:
a word the map does not assign is rejected by name, and the core raises Illegal Instruction on it (R32). -/
namespace Sys2Proof

/-- Why a word is no instruction (R28, R32, R35, R45). -/
inductive DecodeErr where
  | major      -- the major opcode is unassigned
  | operation  -- an unassigned fn or sub-operation
  | code       -- an unassigned size, type, scope, rounding, format or condition code, or a pair R45 and R47 refuse
  | reservedField
  | sysNumber  -- an unassigned system register, or a SYSWR to one no level writes
  deriving DecidableEq, Repr

/-- Bits `lo` up to `lo + n - 1` of a word. -/
def bitsOf (w lo n : Nat) : Nat := w / 2 ^ lo % 2 ^ n

/-- A scalar register field. -/
def regOf (n : Nat) : Reg := Fin.ofNat 32 n
/-- A vector register field. -/
def vregOf (n : Nat) : VReg := Fin.ofNat 64 n
/-- A lookahead field. -/
def laOf (n : Nat) : Fin 16 := Fin.ofNat 16 n

def Size.code : Size → Nat | .b => 0 | .h => 1 | .w => 2 | .d => 3
def Size.ofCode : Nat → Size | 0 => .b | 1 => .h | 2 => .w | _ => .d
def Scope.code : Scope → Nat | .ctx => 0 | .core => 1 | .clu => 2 | .die => 3 | .pkg => 4 | .dom => 5
def Scope.ofCode : Nat → Option Scope
  | 0 => some .ctx | 1 => some .core | 2 => some .clu | 3 => some .die | 4 => some .pkg | 5 => some .dom | _ => none
def Sgn.code : Sgn → Nat | .s => 0 | .z => 1
def Sgn.ofCode : Nat → Sgn | 0 => .s | _ => .z
def FenceKind.code : FenceKind → Nat | .acq => 0 | .rel => 1 | .acqrel => 2 | .sc => 3
def FenceKind.ofCode : Nat → FenceKind | 0 => .acq | 1 => .rel | 2 => .acqrel | _ => .sc
def ExtW.code : ExtW → Nat | .b => 0 | .h => 1 | .w => 2
def ExtW.ofCode : Nat → Option ExtW | 0 => some .b | 1 => some .h | 2 => some .w | _ => none
def Prec.code : Prec → Nat | .h => 0 | .b => 1 | .s => 2 | .d => 3
def Prec.ofCode : Nat → Prec | 0 => .h | 1 => .b | 2 => .s | _ => .d
def Rnd.code : Rnd → Nat | .rne => 0 | .rtz => 1 | .rup => 2 | .rdn => 3 | .sr => 4 | .dyn => 7
def Rnd.ofCode : Nat → Option Rnd
  | 0 => some .rne | 1 => some .rtz | 2 => some .rup | 3 => some .rdn | 4 => some .sr | 7 => some .dyn | _ => none
def SgnKind.code : SgnKind → Nat | .copy => 0 | .neg => 1 | .xor => 2
def SgnKind.ofCode : Nat → Option SgnKind | 0 => some .copy | 1 => some .neg | 2 => some .xor | _ => none
def FType.code : FType → Nat | .h => 0 | .b => 1 | .s => 2 | .d => 3 | .ls => 4 | .lz => 5
def FType.ofCode : Nat → Option FType
  | 0 => some .h | 1 => some .b | 2 => some .s | 3 => some .d | 4 => some .ls | 5 => some .lz | _ => none
def VType.code : VType → Nat | .f32 => 0 | .f16 => 1 | .bf16 => 2 | .i32 => 3 | .i16 => 4 | .i8 => 5
def VType.ofCode : Nat → Option VType
  | 0 => some .f32 | 1 => some .f16 | 2 => some .bf16 | 3 => some .i32 | 4 => some .i16 | 5 => some .i8 | _ => none
def RedKind.code : RedKind → Nat | .add => 0 | .min => 1 | .max => 2
def RedKind.ofCode : Nat → Option RedKind | 0 => some .add | 1 => some .min | 2 => some .max | _ => none
def CmpKind.code : CmpKind → Nat | .eq => 0 | .lt => 1 | .le => 2 | .ne => 3
def CmpKind.ofCode : Nat → CmpKind | 0 => .eq | 1 => .lt | 2 => .le | _ => .ne
def Fmt.code : Fmt → Nat
  | .f32 => 0 | .f16 => 1 | .bf16 => 2 | .i32 => 3 | .i16 => 4 | .i8 => 5 | .e5m2 => 6 | .e4m3 => 7 | .e3m2 => 8
  | .e2m3 => 9 | .e2m1 => 10 | .mxfp8e5m2 => 11 | .mxfp8e4m3 => 12 | .mxfp6e3m2 => 13 | .mxfp6e2m3 => 14
  | .mxfp4 => 15 | .nx4 => 16 | .i4 => 17
def Fmt.ofCode : Nat → Option Fmt
  | 0 => some .f32 | 1 => some .f16 | 2 => some .bf16 | 3 => some .i32 | 4 => some .i16 | 5 => some .i8
  | 6 => some .e5m2 | 7 => some .e4m3 | 8 => some .e3m2 | 9 => some .e2m3 | 10 => some .e2m1
  | 11 => some .mxfp8e5m2 | 12 => some .mxfp8e4m3 | 13 => some .mxfp6e3m2 | 14 => some .mxfp6e2m3
  | 15 => some .mxfp4 | 16 => some .nx4 | 17 => some .i4 | _ => none
def Dir.code : Dir → Nat | .north => 0 | .east => 1 | .south => 2 | .west => 3
def Dir.ofCode : Nat → Option Dir
  | 0 => some .north | 1 => some .east | 2 => some .south | 3 => some .west | _ => none
def BredOp.code : BredOp → Nat
  | .add => 0 | .fadds => 1 | .faddd => 2 | .min => 3 | .max => 4 | .and => 5 | .or => 6
def BredOp.ofCode : Nat → Option BredOp
  | 0 => some .add | 1 => some .fadds | 2 => some .faddd | 3 => some .min | 4 => some .max | 5 => some .and
  | 6 => some .or | _ => none

/-- The answer of a decoder. -/
abbrev Dec := Except DecodeErr Instr

/-- A code that names nothing is a code error (R32). -/
def code? {α : Type} (o : Option α) (k : α → Dec) : Dec :=
  match o with
  | some x => k x
  | none => .error .code

/-- A reserved field (R28). -/
def rsv (ok : Bool) (r : Dec) : Dec := if ok then r else .error .reservedField

/-- A code pair or number the map refuses. -/
def need (ok : Bool) (e : DecodeErr) (r : Dec) : Dec := if ok then r else .error e

/-- Major 0x01 (R36, R100). -/
def decodeInt (d a b : Reg) (op aux : Nat) : Dec :=
  match op with
  | 0x00 => rsv (aux == 0) (.ok (.add d a b)) | 0x01 => rsv (aux == 0) (.ok (.sub d a b))
  | 0x02 => rsv (aux == 0) (.ok (.and d a b)) | 0x03 => rsv (aux == 0) (.ok (.or d a b))
  | 0x04 => rsv (aux == 0) (.ok (.xor d a b)) | 0x05 => rsv (aux == 0) (.ok (.andn d a b))
  | 0x06 => rsv (aux == 0) (.ok (.orn d a b)) | 0x07 => rsv (aux == 0) (.ok (.sll d a b))
  | 0x08 => rsv (aux == 0) (.ok (.srl d a b)) | 0x09 => rsv (aux == 0) (.ok (.sra d a b))
  | 0x0A => rsv (aux == 0) (.ok (.ror d a b)) | 0x0B => rsv (aux == 0) (.ok (.mul d a b))
  | 0x0C => rsv (aux == 0) (.ok (.mulhs d a b)) | 0x0D => rsv (aux == 0) (.ok (.mulhz d a b))
  | 0x0E => rsv (aux == 0) (.ok (.divs d a b)) | 0x0F => rsv (aux == 0) (.ok (.divz d a b))
  | 0x10 => rsv (aux == 0) (.ok (.rems d a b)) | 0x11 => rsv (aux == 0) (.ok (.remz d a b))
  | 0x12 => rsv (aux == 0) (.ok (.mins d a b)) | 0x13 => rsv (aux == 0) (.ok (.maxs d a b))
  | 0x14 => rsv (aux == 0) (.ok (.minz d a b)) | 0x15 => rsv (aux == 0) (.ok (.maxz d a b))
  | 0x16 => rsv (aux == 0) (.ok (.slts d a b)) | 0x17 => rsv (aux == 0) (.ok (.sltz d a b))
  | 0x18 => rsv (aux == 0 && b == 0) (.ok (.clz d a)) | 0x19 => rsv (aux == 0 && b == 0) (.ok (.ctz d a))
  | 0x1A => rsv (aux == 0 && b == 0) (.ok (.popc d a)) | 0x1B => rsv (aux == 0 && b == 0) (.ok (.brev d a))
  | 0x1C => rsv (aux == 0 && b == 0) (.ok (.bswp d a))
  | 0x1D => rsv (b == 0) (code? (ExtW.ofCode aux) fun w => .ok (.exts d a w))
  | 0x1E => rsv (b == 0) (code? (ExtW.ofCode aux) fun w => .ok (.extz d a w))
  | 0x1F => code? (ExtW.ofCode aux) fun w => .ok (.ins d a b w)
  | 0x20 => need (decide (aux < 4)) .code (.ok (.idx d a b (Fin.ofNat 4 aux)))
  | _ => .error .operation

/-- Majors 0x02-0x0C (R37). -/
def decodeImm (op : Nat) (d a : Reg) (imm : Nat) : Dec :=
  let i := BitVec.ofNat 16 imm
  match op with
  | 0x02 => .ok (.addi d a i) | 0x03 => .ok (.andi d a i) | 0x04 => .ok (.ori d a i) | 0x05 => .ok (.xori d a i)
  | 0x06 => rsv (decide (imm < 64)) (.ok (.slli d a (Fin.ofNat 64 imm)))
  | 0x07 => rsv (decide (imm < 64)) (.ok (.srli d a (Fin.ofNat 64 imm)))
  | 0x08 => rsv (decide (imm < 64)) (.ok (.srai d a (Fin.ofNat 64 imm)))
  | 0x09 => .ok (.sltsi d a i) | 0x0A => .ok (.sltzi d a i)
  | 0x0B => rsv (decide (a.val < 4)) (.ok (.lih d (Fin.ofNat 4 a.val) i))
  | 0x0C => rsv (a == 0) (.ok (.pcrel d i))
  | _ => .error .major

/-- The size and the scaled offset of off12 (R39). -/
def off12Of (n : Nat) : Option (Size × BitVec 11) :=
  if n % 2 = 1 then some (.d, BitVec.ofNat 11 (n / 2))
  else if n % 4 = 2 then some (.w, (BitVec.ofNat 10 (n / 4)).signExtend 11)
  else if n % 8 = 4 then some (.h, (BitVec.ofNat 9 (n / 8)).signExtend 11)
  else if n % 16 = 8 then some (.b, (BitVec.ofNat 8 (n / 16)).signExtend 11)
  else none

/-- Majors 0x14-0x16 (R39). -/
def decodeMem (op : Nat) (d base : Reg) (la : Fin 16) (off12 : Nat) : Dec :=
  code? (off12Of off12) fun p =>
    match op with
    | 0x14 => rsv (laOk d la) (.ok (.ld d base p.1 p.2 la))
    | 0x15 => need (p.1 != .d) .code (rsv (laOk d la) (.ok (.lds d base p.1 p.2 la)))
    | 0x16 => rsv (la == 0) (.ok (.st d base p.1 p.2))
    | _ => .error .major

/-- Majors 0x10-0x12 (R38). -/
def decodeBranch (op : Nat) (a b : Reg) (off16 : Nat) : Dec :=
  match op with
  | 0x10 =>
    if a < b then .ok (.beq a b (BitVec.ofNat 16 off16))
    else if b < a then .ok (.bne a b (BitVec.ofNat 16 off16))
    else rsv (decide (off16 < 32)) (.ok (.jmpr (regOf off16) a))
  | 0x11 =>
    if off16 < 32768 then .ok (.blt a b (BitVec.ofNat 15 off16)) else .ok (.bge a b (BitVec.ofNat 15 off16))
  | 0x12 =>
    if off16 < 32768 then .ok (.blo a b (BitVec.ofNat 15 off16)) else .ok (.bhs a b (BitVec.ofNat 15 off16))
  | _ => .error .major

/-- Major 0x17 (R40). -/
def decodeIndexed (d a b : Reg) (la : Fin 16) (fn : Nat) : Dec :=
  let sz := Size.ofCode (fn % 4)
  let sc := fn / 4 % 8
  match fn / 32 with
  | 0 => rsv (sc == 0 && laOk d la) (.ok (.ldx d a b sz la))
  | 1 => code? (Scope.ofCode sc) fun s => rsv (laOk d la) (.ok (.lda d a b sz s la))
  | 2 => code? (Scope.ofCode sc) fun s => rsv (la == 0) (.ok (.stl d a b sz s))
  | _ => rsv (sc == 0 && la == 0) (.ok (.stp d a b sz))

/-- The size bits of atomics and reductions: .w false, .d true (R42). -/
def dblOf (n : Nat) : Option Bool := match n with | 2 => some false | 3 => some true | _ => none

/-- Major 0x18 (R42). -/
def decodeAtomic (d a b : Reg) (la : Fin 16) (fn : Nat) : Dec :=
  code? (dblOf (fn % 4)) fun dbl =>
  let k := fn / 4 % 2
  let ok (i : Instr) : Dec := rsv (k == 0 && laOk d la) (.ok i)
  match fn / 8 with
  | 0 => ok (.aadd d a b dbl la) | 1 => ok (.aand d a b dbl la) | 2 => ok (.aor d a b dbl la)
  | 3 => ok (.axor d a b dbl la)
  | 4 => rsv (laOk d la) (.ok (.amin d a b (Sgn.ofCode k) dbl la))
  | 5 => rsv (laOk d la) (.ok (.amax d a b (Sgn.ofCode k) dbl la))
  | 6 => ok (.aswp d a b dbl la) | 7 => ok (.acas d a b dbl la) | 8 => ok (.afadd d a b dbl la)
  | _ => .error .operation

/-- Major 0x19 (R43). -/
def decodeReduction (d a b : Reg) (la : Fin 16) (fn : Nat) : Dec :=
  let k := fn / 4 % 2
  match fn / 8 with
  | 0 => code? (dblOf (fn % 4)) fun dbl => rsv (k == 0 && d == 0 && la == 0) (.ok (.radd a b dbl))
  | 1 => code? (dblOf (fn % 4)) fun dbl => rsv (d == 0 && la == 0) (.ok (.rmin a b (Sgn.ofCode k) dbl))
  | 2 => code? (dblOf (fn % 4)) fun dbl => rsv (d == 0 && la == 0) (.ok (.rmax a b (Sgn.ofCode k) dbl))
  | 3 => code? (dblOf (fn % 4)) fun dbl => rsv (k == 0 && d == 0 && la == 0) (.ok (.rfadd a b dbl))
  | 4 => code? (dblOf (fn % 4)) fun dbl => rsv (d == 0 && la == 0) (.ok (.rlog a b (k == 1) dbl))
  | 5 => rsv (fn % 8 == 0 && a == 0 && b == 0 && laOk d la) (.ok (.rmrg d la))
  | _ => .error .operation

/-- Major 0x1A (R44). -/
def decodeFence (d a b : Reg) (fn : Nat) : Dec :=
  match fn / 256 with
  | 0 => rsv (d == 0 && a == 0 && b == 0 && fn / 8 % 8 == 0)
      (code? (Scope.ofCode (fn % 8)) fun s => .ok (.fence (FenceKind.ofCode (fn / 64 % 4)) s))
  | 1 => rsv (d == 0 && b == 0 && fn % 256 == 0) (.ok (.cpref a))
  | 2 => rsv (d == 0 && b == 0 && fn % 256 == 0) (.ok (.cflush a))
  | 3 => rsv (d == 0 && b == 0 && fn % 256 == 0) (.ok (.cdrop a))
  | 4 => rsv (d == 0 && a == 0 && b == 0 && fn % 256 == 0) (.ok .sbwait)
  | _ => .error .operation

/-- Majors 0x1C-0x1F (R45). -/
def decodeFp (op : Nat) (d a b : Reg) (fn : Nat) : Dec :=
  let p := Prec.ofCode (fn % 4)
  let r := fn / 8 % 8
  match op with
  | 0x1C => rsv (fn / 4 % 2 == 0) <|
    match fn / 64 with
    | 0 => code? (Rnd.ofCode r) fun r => .ok (.fadd d a b p r)
    | 1 => code? (Rnd.ofCode r) fun r => .ok (.fsub d a b p r)
    | 2 => code? (Rnd.ofCode r) fun r => .ok (.fmul d a b p r)
    | 3 => code? (Rnd.ofCode r) fun r => .ok (.fdiv d a b p r)
    | 4 => rsv (b == 0) (code? (Rnd.ofCode r) fun r => .ok (.fsqrt d a p r))
    | 5 => rsv (r == 0) (.ok (.fmin d a b p))
    | 6 => rsv (r == 0) (.ok (.fmax d a b p))
    | _ => .error .operation
  | 0x1D => rsv (fn / 4 % 2 == 0) (code? (Rnd.ofCode r) fun r => .ok (.fmad d a b (regOf (fn / 64)) p r))
  | 0x1E => rsv (fn / 4 % 2 == 0) <|
    match fn / 64 with
    | 0 => rsv (r == 0) (.ok (.feq d a b p)) | 1 => rsv (r == 0) (.ok (.flt d a b p))
    | 2 => rsv (r == 0) (.ok (.fle d a b p)) | 3 => rsv (r == 0 && b == 0) (.ok (.fcls d a p))
    | 4 => code? (SgnKind.ofCode r) fun k => .ok (.fsgn d a b p k)
    | _ => .error .operation
  | 0x1F => rsv (fn % 4 == 0 && b == 0) <|
    code? (FType.ofCode (fn / 256)) fun dst => code? (FType.ofCode (fn / 32 % 8)) fun src =>
    code? (Rnd.ofCode (fn / 4 % 8)) fun r => need (fcvtOk dst src) .code (.ok (.fcvt d a dst src r))
  | _ => .error .major

/-- Majors 0x20-0x25 (R46, R47, R257). Scalar registers in V fields leave bit 5 reserved (R27). -/
def decodeVec (op : Nat) (vd va vb : Nat) (fn : Nat) : Dec :=
  let D := regOf vd; let A := regOf va; let B := regOf vb
  let VD := vregOf vd; let VA := vregOf va; let VB := vregOf vb
  let t := VType.ofCode (fn % 8)
  let s (n : Nat) : Bool := decide (n < 32)
  match op with
  | 0x20 => rsv (fn / 8 % 2 == 0) <|
    match fn / 16 with
    | 0 => rsv (fn % 8 == 0 && s vd && s va && vb == 0) (.ok (.vgrant D A))
    | 1 => rsv (fn % 8 == 0 && s vd && s va && vb == 0) (.ok (.vretn D A))
    | 2 => rsv (fn % 8 == 0 && s va) (.ok (.vind VD VB A))
    | 3 => code? t fun t => rsv (s vd && s vb) (.ok (.vmvs D VA B t))
    | 4 => code? t fun t => rsv (s va && s vb) (.ok (.vmsv VD A B t))
    | 5 => code? t fun t => rsv (s va && vb == 0) (.ok (.vbcast VD A t))
    | _ => .error .operation
  | 0x21 => rsv (fn / 8 % 2 == 0) <|
    match fn / 16 with
    | 0 => code? t fun t => rsv (s va && s vb) (.ok (.vld VD A B t))
    | 1 => code? t fun t => rsv (s va && s vb) (.ok (.vst VD A B t))
    | 2 => code? t fun t => rsv (s va) (.ok (.vldx VD A VB t))
    | 3 => code? t fun t => rsv (s va) (.ok (.vstx VD A VB t))
    | _ => .error .operation
  | 0x22 => rsv (fn / 8 % 2 == 0) <|
    match fn / 16 with
    | 0 => code? t fun t => .ok (.vadd VD VA VB t) | 1 => code? t fun t => .ok (.vsub VD VA VB t)
    | 2 => code? t fun t => .ok (.vmul VD VA VB t) | 3 => code? t fun t => .ok (.vfma VD VA VB t)
    | 4 => code? t fun t => .ok (.vmax VD VA VB t) | 5 => code? t fun t => .ok (.vmin VD VA VB t)
    | _ => .error .operation
  | 0x23 => rsv (fn / 8 % 2 == 0 && vb == 0) <|
    match fn / 16 with
    | 0 => code? t fun t => need t.isFloat .code (.ok (.vexp VD VA t))
    | 1 => code? t fun t => need t.isFloat .code (.ok (.vrcp VD VA t))
    | 2 => code? t fun t => need t.isFloat .code (.ok (.vrsq VD VA t))
    | _ => .error .operation
  | 0x24 =>
    let k := fn / 8 % 4
    match fn / 32 with
    | 0 => code? (RedKind.ofCode k) fun k => code? t fun t => rsv (vb == 0) (.ok (.vred VD VA k t))
    | 1 => code? t fun t => rsv (k == 0) (.ok (.vperm VD VA VB t))
    | 2 => code? t fun t => .ok (.vcmp VD VA VB (CmpKind.ofCode k) t)
    | 3 => code? t fun t => rsv (k == 0) (.ok (.vsel VD VA VB t))
    | _ => .error .operation
  | 0x25 =>
    code? (Fmt.ofCode (fn / 8)) fun dst => code? (Fmt.ofCode (vb % 32)) fun src =>
    code? (Rnd.ofCode (fn % 8)) fun r => need (vcvtOk dst src) .code (rsv (s vb) (.ok (.vcvt VD VA dst src r)))
  | _ => .error .major

/-- The stream field of R278: b is 24 + n. -/
def streamOf (b : Reg) : Option (Fin 8) := if 24 ≤ b.val then some (Fin.ofNat 8 (b.val - 24)) else none

/-- Majors 0x28, 0x29, 0x2A (R48, R278, R303). -/
def decodeStream (op : Nat) (d a b : Reg) (la : Fin 16) (fn : Nat) : Dec :=
  match op with
  | 0x28 => code? (streamOf b) fun q =>
    match fn / 8 with
    | 0 => rsv (fn % 8 == 0 && d == 0 && la == 0) (.ok (.qbind q a))
    | 1 => rsv (fn % 8 == 0 && d == 0 && la == 0) (.ok (.qfib q a))
    | 2 => rsv (fn % 8 == 0 && d == 0 && la == 0) (.ok (.qisect q a))
    | 3 => rsv (fn % 8 == 0 && d == 0 && la == 0) (.ok (.qunion q a))
    | 4 => code? (Dir.ofCode (fn % 8)) fun r => rsv (d == 0 && a == 0 && la == 0) (.ok (.qnbr q r))
    | 5 => rsv (fn % 8 == 0 && d == 0 && a == 0 && la == 0) (.ok (.qfree q))
    | _ => .error .operation
  | 0x29 => code? (streamOf b) fun q => rsv (fn % 8 == 0) <|
    match fn / 8 with
    | 0 => rsv (d == 0 && la == 0) (.ok (.qskip q a))
    | 1 => rsv (a == 0 && laOk d la) (.ok (.qcrd d q la))
    | 2 => rsv (a == 0 && laOk d la) (.ok (.qend d q la))
    | 3 => rsv (laOk d la) (.ok (.qctl d q a la))
    | 4 => rsv (d == 0 && la == 0) (.ok (.qsave q a))
    | 5 => rsv (d == 0 && la == 0) (.ok (.qload q a))
    | _ => .error .operation
  | 0x2A => rsv (fn == 0 && b == 0 && laOk d la) (.ok (.fchk d a la))
  | _ => .error .major

/-- Majors 0x2C, 0x2D, 0x30, 0x31, 0x34, 0x36 (R48, R130, R169, R242, R323, R350, R394). -/
def decodeSystemA (op : Nat) (d a b : Reg) (fn : Nat) : Dec :=
  match op with
  | 0x2C => rsv (fn % 64 == 0) <|
    match fn / 64 with
    | 0 => .ok (.hstart d a b)
    | 1 => rsv (b == 0) (.ok (.hwait d a))
    | 2 => if a = 0 then .ok (.hkillSelf d b) else rsv (b == 0) (.ok (.hkill d a))
    | 3 => rsv (b == 0) (.ok (.hstat d a)) | 4 => rsv (b == 0) (.ok (.hlend d a)) | 5 => rsv (b == 0) (.ok (.hrecl d a))
    | 6 => rsv (a == 0 && b == 0) (.ok (.self d))
    | 7 => rsv (d == 0 && a == 0 && b == 0) (.ok .yield)
    | 8 => rsv (b == 0) (.ok (.migr d a))
    | 9 => rsv (a == 0 && b == 0) (.ok (.pin d)) | 10 => rsv (a == 0 && b == 0) (.ok (.unpin d))
    | 11 => rsv (b == 0) (.ok (.park d a))
    | 12 => rsv (d == 0 && b == 0) (.ok (.wake a))
    | _ => .error .operation
  | 0x2D => rsv (fn % 64 == 0) <|
    match fn / 64 with
    | 0 => .ok (.tenq d a b)
    | 1 => rsv (b == 0) (.ok (.tenqd d a))
    | 2 => rsv (d == 0 && a == 0 && b == 0) (.ok .tdone)
    | 3 => rsv (d == 0 && a == 0 && b == 0) (.ok .tsettle)
    | 4 => rsv (d == 0 && b == 0) (.ok (.tabort a))
    | 5 => rsv (b == 0) (.ok (.tsrd d a))
    | 6 => rsv (a == 0 && b == 0) (.ok (.tgvt d))
    | 7 => rsv (a == 0 && b == 0) (.ok (.tnest d))
    | 8 => rsv (a == 0 && b == 0) (.ok (.tleave d))
    | 9 => rsv (d == 0) (.ok (.tdefer a b))
    | _ => .error .operation
  | 0x30 => rsv (fn % 64 == 0 && b == 0) <|
    match fn / 64 with
    | 0 => rsv (a == 0) (.ok (.mxwait d))
    | 1 => .ok (.mxstat d a)
    | 2 => rsv (a == 0) (.ok (.mxspc d))
    | _ => .error .operation
  | 0x31 => rsv (fn % 64 == 0) <|
    match fn / 64 with
    | 0 => rsv (b == 0) (.ok (.cpy d a)) | 1 => rsv (b == 0) (.ok (.cpywait d a)) | 2 => rsv (b == 0) (.ok (.cpyq d a))
    | 3 => .ok (.publ d a b)
    | 4 => rsv (b == 0) (.ok (.embg d a)) | 5 => rsv (b == 0) (.ok (.rmove d a))
    | _ => .error .operation
  | 0x34 => rsv (fn % 8 == 0) <|
    match fn / 64 with
    | 0 => rsv (fn / 8 % 8 == 0 && d == 0 && b == 0) (.ok (.barr a))
    | 1 => rsv (fn / 8 % 8 == 0 && a == 0 && b == 0) (.ok (.bwait d))
    | 2 => rsv (fn / 8 % 8 == 0 && b == 0) (.ok (.bsync d a))
    | 3 => code? (BredOp.ofCode (fn / 8 % 8)) fun o => .ok (.bred d a b o)
    | 4 => rsv (fn / 8 % 8 == 0) (.ok (.bset d a b))
    | _ => .error .operation
  | 0x36 => rsv (d == 0 && fn / 8 % 8 == 0) <|
    match fn / 64 with
    | 0 => code? (Scope.ofCode (fn % 8)) fun s => .ok (.tlbinv a b s)
    | 1 => rsv (a == 0 && b == 0) (code? (Scope.ofCode (fn % 8)) fun s => .ok (.tlbsync s))
    | _ => .error .operation
  | _ => .error .major

/-- Majors 0x32 and 0x37 (R365, R430, R441). -/
def decodeSystemQ (op : Nat) (d a b : Reg) (la : Fin 16) (fn : Nat) : Dec :=
  match op with
  | 0x32 =>
    match fn / 4 with
    | 0 => rsv (fn % 4 == 0 && laOk d la) (.ok (.racq d a b la))
    | 2 => rsv (fn % 4 == 0 && laOk d la) (.ok (.rcom d a b la))
    | 4 => rsv (fn % 4 == 0 && b == 0 && laOk d la) (.ok (.rpeek d a la))
    | 5 => rsv (fn % 4 == 0 && b == 0 && laOk d la) (.ok (.rpeekTake d a la))
    | 6 => rsv (fn % 4 == 0 && laOk d la) (.ok (.rrel d a b la))
    | 8 => rsv (fn % 4 == 0 && laOk d la) (.ok (.rdisp d a b la))
    | 1 | 3 | 7 | 9 => .error .reservedField
    | _ => .error .operation
  | 0x37 => rsv (fn % 8 == 0) <|
    match fn / 8 with
    | 0 => rsv (laOk d la) (.ok (.ctxsv d a b la))
    | 1 => rsv (laOk d la) (.ok (.ctxld d a b la))
    | 2 => rsv (laOk d la) (.ok (.rmapw d a b la))
    | 3 => rsv (b == 0 && laOk d la) (.ok (.mbrd d a la))
    | 4 => rsv (d == 0 && b == 0 && la == 0) (.ok (.mbwr a))
    | _ => .error .operation
  | _ => .error .major

/-- Major 0x35 (R49, R413, R418). -/
def decodeTrap (d a : Reg) (sys : Nat) : Dec :=
  let n := BitVec.ofNat 12 (sys % 4096)
  if 32768 ≤ sys then need (decide (d.val < 24)) .code (.ok (.bstat d a (BitVec.ofNat 15 sys)))
  else match sys / 4096 with
  | 0 => rsv (d == 0 && a == 0) (.ok (.trap n))
  | 1 => rsv (d == 0 && a == 0 && sys % 4096 == 0) (.ok .eret)
  | 2 => rsv (d == 0 && a == 0) (.ok (.ebrk n))
  | 3 => rsv (sys % 4096 == 0) (.ok (.jrd d a))
  | 4 => rsv (a == 0) (need (Machine.sysReadable n) .sysNumber (.ok (.sysrd d n)))
  | 5 => rsv (d == 0) (need (Machine.sysWritable n) .sysNumber (.ok (.syswr n a)))
  | _ => .error .operation

/-- The decoder over a word given as a number: the major opcode picks the format (R27, R35). -/
def decodeNat (w : Nat) : Dec :=
  let op := bitsOf w 26 6
  let d := regOf (bitsOf w 21 5); let a := regOf (bitsOf w 16 5); let b := regOf (bitsOf w 11 5)
  let fnA := bitsOf w 0 11; let fnQ := bitsOf w 0 7; let laQ := laOf (bitsOf w 7 4); let imm := bitsOf w 0 16
  match op with
  | 0x01 => decodeInt d a b (fnA / 32) (fnA % 32)
  | 0x02 | 0x03 | 0x04 | 0x05 | 0x06 | 0x07 | 0x08 | 0x09 | 0x0A | 0x0B | 0x0C => decodeImm op d a imm
  | 0x10 | 0x11 | 0x12 => decodeBranch op d a imm
  | 0x13 => .ok (.call d (BitVec.ofNat 21 (bitsOf w 0 21)))
  | 0x14 | 0x15 | 0x16 => decodeMem op d a (laOf (bitsOf w 12 4)) (bitsOf w 0 12)
  | 0x17 => decodeIndexed d a b laQ fnQ
  | 0x18 => decodeAtomic d a b laQ fnQ
  | 0x19 => decodeReduction d a b laQ fnQ
  | 0x1A => decodeFence d a b fnA
  | 0x1C | 0x1D | 0x1E | 0x1F => decodeFp op d a b fnA
  | 0x20 | 0x21 | 0x22 | 0x23 | 0x24 | 0x25 =>
    decodeVec op (bitsOf w 20 6) (bitsOf w 14 6) (bitsOf w 8 6) (bitsOf w 0 8)
  | 0x28 | 0x29 | 0x2A => decodeStream op d a b laQ fnQ
  | 0x2C | 0x2D | 0x30 | 0x31 | 0x34 | 0x36 => decodeSystemA op d a b fnA
  | 0x32 | 0x37 => decodeSystemQ op d a b laQ fnQ
  | 0x35 => decodeTrap d a imm
  | _ => .error .major

/-- The decoder over an instruction word (R26, R32). -/
def decode (w : BitVec 32) : Dec := decodeNat w.toNat

/-- The decoder's answer on a word numbered as the opcode table numbers it; the table gives every instruction one
32-bit word (R26), so no operand word stands above `nbits`. A step of the device has no word. -/
def decodeTableWord (nbits w : Nat) : Option Instr :=
  if nbits = 32 ∧ w < 2 ^ 32 then (decodeNat w).toOption else none

/-- Bytes at an address, lowest first, as a word (R26). -/
def wordOfBytes (b0 b1 b2 b3 : Byte) : BitVec 32 := b3 ++ b2 ++ b1 ++ b0

/-- Format A (R27). -/
def packA (op : Nat) (d a b : Reg) (fn : Nat) : Nat := op * 2 ^ 26 + d.val * 2 ^ 21 + a.val * 2 ^ 16 + b.val * 2 ^ 11 + fn
/-- Formats I, B and Y (R27). -/
def packI (op : Nat) (d a : Reg) (imm : Nat) : Nat := op * 2 ^ 26 + d.val * 2 ^ 21 + a.val * 2 ^ 16 + imm
/-- Format M (R27). -/
def packM (op : Nat) (d a : Reg) (la : Fin 16) (off12 : Nat) : Nat :=
  op * 2 ^ 26 + d.val * 2 ^ 21 + a.val * 2 ^ 16 + la.val * 2 ^ 12 + off12
/-- Format J (R27). -/
def packJ (op : Nat) (d : Reg) (off : Nat) : Nat := op * 2 ^ 26 + d.val * 2 ^ 21 + off
/-- Format Q (R27). -/
def packQ (op : Nat) (d a b : Reg) (la : Fin 16) (fn : Nat) : Nat :=
  op * 2 ^ 26 + d.val * 2 ^ 21 + a.val * 2 ^ 16 + b.val * 2 ^ 11 + la.val * 2 ^ 7 + fn
/-- Format V (R27). -/
def packV (op vd va vb fn : Nat) : Nat := op * 2 ^ 26 + vd * 2 ^ 20 + va * 2 ^ 14 + vb * 2 ^ 8 + fn

/-- off12 of a size and a scaled offset (R39). -/
def off12 (sz : Size) (off : BitVec 11) : Nat :=
  match sz with
  | .d => off.toNat * 2 + 1
  | .w => off.toNat % 2 ^ 10 * 4 + 2
  | .h => off.toNat % 2 ^ 9 * 8 + 4
  | .b => off.toNat % 2 ^ 8 * 16 + 8

/-- The b field of a stream (R278). -/
def streamReg (q : Fin 8) : Reg := regOf (24 + q.val)

/-- The size bits of an atomic (R42). -/
def dblCode (dbl : Bool) : Nat := if dbl then 3 else 2

/-- The word of an instruction, from the encoding tables of 02_encoding.md; a step of the device has none. -/
def encode : Instr → Option Nat
  | .add d a b => some (packA 0x01 d a b (0 * 32))
  | .sub d a b => some (packA 0x01 d a b (1 * 32))
  | .and d a b => some (packA 0x01 d a b (2 * 32))
  | .or d a b => some (packA 0x01 d a b (3 * 32))
  | .xor d a b => some (packA 0x01 d a b (4 * 32))
  | .andn d a b => some (packA 0x01 d a b (5 * 32))
  | .orn d a b => some (packA 0x01 d a b (6 * 32))
  | .sll d a b => some (packA 0x01 d a b (7 * 32))
  | .srl d a b => some (packA 0x01 d a b (8 * 32))
  | .sra d a b => some (packA 0x01 d a b (9 * 32))
  | .ror d a b => some (packA 0x01 d a b (10 * 32))
  | .mul d a b => some (packA 0x01 d a b (11 * 32))
  | .mulhs d a b => some (packA 0x01 d a b (12 * 32))
  | .mulhz d a b => some (packA 0x01 d a b (13 * 32))
  | .divs d a b => some (packA 0x01 d a b (14 * 32))
  | .divz d a b => some (packA 0x01 d a b (15 * 32))
  | .rems d a b => some (packA 0x01 d a b (16 * 32))
  | .remz d a b => some (packA 0x01 d a b (17 * 32))
  | .mins d a b => some (packA 0x01 d a b (18 * 32))
  | .maxs d a b => some (packA 0x01 d a b (19 * 32))
  | .minz d a b => some (packA 0x01 d a b (20 * 32))
  | .maxz d a b => some (packA 0x01 d a b (21 * 32))
  | .slts d a b => some (packA 0x01 d a b (22 * 32))
  | .sltz d a b => some (packA 0x01 d a b (23 * 32))
  | .clz d a => some (packA 0x01 d a 0 (24 * 32))
  | .ctz d a => some (packA 0x01 d a 0 (25 * 32))
  | .popc d a => some (packA 0x01 d a 0 (26 * 32))
  | .brev d a => some (packA 0x01 d a 0 (27 * 32))
  | .bswp d a => some (packA 0x01 d a 0 (28 * 32))
  | .exts d a w => some (packA 0x01 d a 0 (0x1D * 32 + w.code))
  | .extz d a w => some (packA 0x01 d a 0 (0x1E * 32 + w.code))
  | .ins d a b w => some (packA 0x01 d a b (0x1F * 32 + w.code))
  | .idx d a b n => some (packA 0x01 d a b (0x20 * 32 + n.val))
  | .addi d a i => some (packI 2 d a i.toNat)
  | .andi d a i => some (packI 3 d a i.toNat)
  | .ori d a i => some (packI 4 d a i.toNat)
  | .xori d a i => some (packI 5 d a i.toNat)
  | .sltsi d a i => some (packI 9 d a i.toNat)
  | .sltzi d a i => some (packI 10 d a i.toNat)
  | .slli d a sh => some (packI 6 d a sh.val)
  | .srli d a sh => some (packI 7 d a sh.val)
  | .srai d a sh => some (packI 8 d a sh.val)
  | .lih d k i => some (packI 0x0B d (regOf k.val) i.toNat)
  | .pcrel d i => some (packI 0x0C d 0 i.toNat)
  | .beq a b off => some (packI 0x10 a b off.toNat)
  | .bne a b off => some (packI 0x10 a b off.toNat)
  | .jmpr d t => some (packI 0x10 t t d.val)
  | .blt a b off => some (packI 0x11 a b off.toNat)
  | .bge a b off => some (packI 0x11 a b (2 ^ 15 + off.toNat))
  | .blo a b off => some (packI 0x12 a b off.toNat)
  | .bhs a b off => some (packI 0x12 a b (2 ^ 15 + off.toNat))
  | .call d off => some (packJ 0x13 d off.toNat)
  | .ld d a sz off la => some (packM 0x14 d a la (off12 sz off))
  | .lds d a sz off la => some (packM 0x15 d a la (off12 sz off))
  | .st d a sz off => some (packM 0x16 d a 0 (off12 sz off))
  | .ldx d a b sz la => some (packQ 0x17 d a b la sz.code)
  | .lda d a b sz sc la => some (packQ 0x17 d a b la (32 + sc.code * 4 + sz.code))
  | .stl d a b sz sc => some (packQ 0x17 d a b 0 (64 + sc.code * 4 + sz.code))
  | .stp d a b sz => some (packQ 0x17 d a b 0 (96 + sz.code))
  | .aadd d a b dbl la => some (packQ 0x18 d a b la (0 * 8 + dblCode dbl))
  | .aand d a b dbl la => some (packQ 0x18 d a b la (1 * 8 + dblCode dbl))
  | .aor d a b dbl la => some (packQ 0x18 d a b la (2 * 8 + dblCode dbl))
  | .axor d a b dbl la => some (packQ 0x18 d a b la (3 * 8 + dblCode dbl))
  | .aswp d a b dbl la => some (packQ 0x18 d a b la (6 * 8 + dblCode dbl))
  | .acas d a b dbl la => some (packQ 0x18 d a b la (7 * 8 + dblCode dbl))
  | .afadd d a b dbl la => some (packQ 0x18 d a b la (8 * 8 + dblCode dbl))
  | .amin d a b k dbl la => some (packQ 0x18 d a b la (4 * 8 + k.code * 4 + dblCode dbl))
  | .amax d a b k dbl la => some (packQ 0x18 d a b la (5 * 8 + k.code * 4 + dblCode dbl))
  | .radd a b dbl => some (packQ 0x19 0 a b 0 (dblCode dbl))
  | .rmin a b k dbl => some (packQ 0x19 0 a b 0 (8 + k.code * 4 + dblCode dbl))
  | .rmax a b k dbl => some (packQ 0x19 0 a b 0 (16 + k.code * 4 + dblCode dbl))
  | .rfadd a b dbl => some (packQ 0x19 0 a b 0 (24 + dblCode dbl))
  | .rlog a b flt dbl => some (packQ 0x19 0 a b 0 (32 + (if flt then 4 else 0) + dblCode dbl))
  | .rmrg d la => some (packQ 0x19 d 0 0 la 40)
  | .fence k sc => some (packA 0x1A 0 0 0 (k.code * 64 + sc.code))
  | .cpref a => some (packA 0x1A 0 a 0 256)
  | .cflush a => some (packA 0x1A 0 a 0 512)
  | .cdrop a => some (packA 0x1A 0 a 0 768)
  | .sbwait => some (packA 0x1A 0 0 0 1024)
  | .fadd d a b p r => some (packA 0x1C d a b (0 * 64 + r.code * 8 + p.code))
  | .fsub d a b p r => some (packA 0x1C d a b (1 * 64 + r.code * 8 + p.code))
  | .fmul d a b p r => some (packA 0x1C d a b (2 * 64 + r.code * 8 + p.code))
  | .fdiv d a b p r => some (packA 0x1C d a b (3 * 64 + r.code * 8 + p.code))
  | .fsqrt d a p r => some (packA 0x1C d a 0 (4 * 64 + r.code * 8 + p.code))
  | .fmin d a b p => some (packA 0x1C d a b (5 * 64 + p.code))
  | .fmax d a b p => some (packA 0x1C d a b (6 * 64 + p.code))
  | .fmad d a b c p r => some (packA 0x1D d a b (c.val * 64 + r.code * 8 + p.code))
  | .feq d a b p => some (packA 0x1E d a b (0 * 64 + p.code))
  | .flt d a b p => some (packA 0x1E d a b (1 * 64 + p.code))
  | .fle d a b p => some (packA 0x1E d a b (2 * 64 + p.code))
  | .fcls d a p => some (packA 0x1E d a 0 (3 * 64 + p.code))
  | .fsgn d a b p k => some (packA 0x1E d a b (4 * 64 + k.code * 8 + p.code))
  | .fcvt d a dst src r => some (packA 0x1F d a 0 (dst.code * 256 + src.code * 32 + r.code * 4))
  | .vgrant d a => some (packV 0x20 d.val a.val 0 0)
  | .vretn d a => some (packV 0x20 d.val a.val 0 16)
  | .vind vd vb a => some (packV 0x20 vd.val a.val vb.val 32)
  | .vmvs d va b t => some (packV 0x20 d.val va.val b.val (48 + t.code))
  | .vmsv vd a b t => some (packV 0x20 vd.val a.val b.val (64 + t.code))
  | .vbcast vd a t => some (packV 0x20 vd.val a.val 0 (80 + t.code))
  | .vld vd a b t => some (packV 0x21 vd.val a.val b.val t.code)
  | .vst vd a b t => some (packV 0x21 vd.val a.val b.val (16 + t.code))
  | .vldx vd a vb t => some (packV 0x21 vd.val a.val vb.val (32 + t.code))
  | .vstx vd a vb t => some (packV 0x21 vd.val a.val vb.val (48 + t.code))
  | .vadd vd va vb t => some (packV 0x22 vd.val va.val vb.val (0 * 16 + t.code))
  | .vsub vd va vb t => some (packV 0x22 vd.val va.val vb.val (1 * 16 + t.code))
  | .vmul vd va vb t => some (packV 0x22 vd.val va.val vb.val (2 * 16 + t.code))
  | .vfma vd va vb t => some (packV 0x22 vd.val va.val vb.val (3 * 16 + t.code))
  | .vmax vd va vb t => some (packV 0x22 vd.val va.val vb.val (4 * 16 + t.code))
  | .vmin vd va vb t => some (packV 0x22 vd.val va.val vb.val (5 * 16 + t.code))
  | .vexp vd va t => some (packV 0x23 vd.val va.val 0 (0 * 16 + t.code))
  | .vrcp vd va t => some (packV 0x23 vd.val va.val 0 (1 * 16 + t.code))
  | .vrsq vd va t => some (packV 0x23 vd.val va.val 0 (2 * 16 + t.code))
  | .vred vd va k t => some (packV 0x24 vd.val va.val 0 (k.code * 8 + t.code))
  | .vperm vd va vb t => some (packV 0x24 vd.val va.val vb.val (32 + t.code))
  | .vcmp vd va vb k t => some (packV 0x24 vd.val va.val vb.val (64 + k.code * 8 + t.code))
  | .vsel vd va vb t => some (packV 0x24 vd.val va.val vb.val (96 + t.code))
  | .vcvt vd va dst src r => some (packV 0x25 vd.val va.val src.code (dst.code * 8 + r.code))
  | .qbind q a => some (packQ 0x28 0 a (streamReg q) 0 (0 * 8))
  | .qfib q a => some (packQ 0x28 0 a (streamReg q) 0 (1 * 8))
  | .qisect q a => some (packQ 0x28 0 a (streamReg q) 0 (2 * 8))
  | .qunion q a => some (packQ 0x28 0 a (streamReg q) 0 (3 * 8))
  | .qnbr q r => some (packQ 0x28 0 0 (streamReg q) 0 (4 * 8 + r.code))
  | .qfree q => some (packQ 0x28 0 0 (streamReg q) 0 40)
  | .qskip q a => some (packQ 0x29 0 a (streamReg q) 0 0)
  | .qcrd d q la => some (packQ 0x29 d 0 (streamReg q) la 8)
  | .qend d q la => some (packQ 0x29 d 0 (streamReg q) la 16)
  | .qctl d q a la => some (packQ 0x29 d a (streamReg q) la 24)
  | .qsave q a => some (packQ 0x29 0 a (streamReg q) 0 32)
  | .qload q a => some (packQ 0x29 0 a (streamReg q) 0 40)
  | .fchk d a la => some (packQ 0x2A d a 0 la 0)
  | .hstart d a b => some (packA 0x2C d a b 0)
  | .hwait d a => some (packA 0x2C d a 0 64)
  | .hkill d a => some (packA 0x2C d a 0 128)
  | .hkillSelf d b => some (packA 0x2C d 0 b 128)
  | .hstat d a => some (packA 0x2C d a 0 192)
  | .hlend d a => some (packA 0x2C d a 0 256)
  | .hrecl d a => some (packA 0x2C d a 0 320)
  | .self d => some (packA 0x2C d 0 0 384)
  | .yield => some (packA 0x2C 0 0 0 448)
  | .migr d a => some (packA 0x2C d a 0 512)
  | .pin d => some (packA 0x2C d 0 0 576)
  | .unpin d => some (packA 0x2C d 0 0 640)
  | .park d a => some (packA 0x2C d a 0 704)
  | .wake a => some (packA 0x2C 0 a 0 768)
  | .tenq d a b => some (packA 0x2D d a b 0)
  | .tenqd d a => some (packA 0x2D d a 0 64)
  | .tdone => some (packA 0x2D 0 0 0 128)
  | .tsettle => some (packA 0x2D 0 0 0 192)
  | .tabort a => some (packA 0x2D 0 a 0 256)
  | .tsrd d a => some (packA 0x2D d a 0 320)
  | .tgvt d => some (packA 0x2D d 0 0 384)
  | .tnest d => some (packA 0x2D d 0 0 448)
  | .tleave d => some (packA 0x2D d 0 0 512)
  | .tdefer a b => some (packA 0x2D 0 a b 576)
  | .mxwait d => some (packA 0x30 d 0 0 0)
  | .mxstat d a => some (packA 0x30 d a 0 64)
  | .mxspc d => some (packA 0x30 d 0 0 128)
  | .cpy d a => some (packA 0x31 d a 0 0)
  | .cpywait d a => some (packA 0x31 d a 0 64)
  | .cpyq d a => some (packA 0x31 d a 0 128)
  | .publ d a b => some (packA 0x31 d a b 192)
  | .embg d a => some (packA 0x31 d a 0 256)
  | .rmove d a => some (packA 0x31 d a 0 320)
  | .racq d a b la => some (packQ 0x32 d a b la 0)
  | .rcom d a b la => some (packQ 0x32 d a b la 8)
  | .rpeek d a la => some (packQ 0x32 d a 0 la 16)
  | .rpeekTake d a la => some (packQ 0x32 d a 0 la 20)
  | .rrel d a b la => some (packQ 0x32 d a b la 24)
  | .rdisp d a b la => some (packQ 0x32 d a b la 32)
  | .barr a => some (packA 0x34 0 a 0 0)
  | .bwait d => some (packA 0x34 d 0 0 64)
  | .bsync d a => some (packA 0x34 d a 0 128)
  | .bred d a b o => some (packA 0x34 d a b (192 + o.code * 8))
  | .bset d a b => some (packA 0x34 d a b 256)
  | .trap c => some (packI 0x35 0 0 c.toNat)
  | .eret => some (packI 0x35 0 0 0x1000)
  | .ebrk c => some (packI 0x35 0 0 (0x2000 + c.toNat))
  | .jrd d a => some (packI 0x35 d a 0x3000)
  | .sysrd d n => some (packI 0x35 d 0 (0x4000 + n.toNat))
  | .syswr n a => some (packI 0x35 0 a (0x5000 + n.toNat))
  | .bstat c a off => some (packI 0x35 c a (0x8000 + off.toNat))
  | .tlbinv a b sc => some (packA 0x36 0 a b sc.code)
  | .tlbsync sc => some (packA 0x36 0 0 0 (64 + sc.code))
  | .ctxsv d a b la => some (packQ 0x37 d a b la 0)
  | .ctxld d a b la => some (packQ 0x37 d a b la 8)
  | .rmapw d a b la => some (packQ 0x37 d a b la 16)
  | .mbrd d a la => some (packQ 0x37 d a 0 la 24)
  | .mbwr a => some (packQ 0x37 0 a 0 0 32)
  | _ => none

end Sys2Proof
end

