-- ==== Sys2Proof/Machine/Bits.lean ====
section
/-! DEFINITION. Bit fields, byte order, the mixing function, and the sorted lists that hold sparse state. -/
namespace Sys2Proof.Machine

/-- Bits `lo + n - 1 : lo` of a doubleword, as a number. -/
def fld (w : Word) (lo n : Nat) : Nat := w.toNat / 2 ^ lo % 2 ^ n
/-- One bit of a doubleword. -/
def bitAt (w : Word) (i : Nat) : Bool := w.getLsbD i
/-- A doubleword from a number, modulo 2^64. -/
def wd (n : Nat) : Word := BitVec.ofNat 64 n
/-- A flag as a number. -/
def b2n (b : Bool) : Nat := if b then 1 else 0

/-- `Mix` of R70. -/
def mix (z : Word) : Word :=
  let z := (z ^^^ (z >>> 30)) * 0xBF58476D1CE4E5B9
  let z := (z ^^^ (z >>> 27)) * 0x94D049BB133111EB
  z ^^^ (z >>> 31)

/-- `Mix` on a number below 2^64. -/
def mixN (n : Nat) : Nat := (mix (wd n)).toNat

/-- The `n` bytes of a number, lowest first (R57). -/
def toBytes (v : Nat) : Nat → List Byte
  | 0 => []
  | n + 1 => BitVec.ofNat 8 v :: toBytes (v / 256) n

/-- The number a little-endian byte string holds (R57). -/
def ofBytes : List Byte → Nat
  | [] => 0
  | b :: r => b.toNat + 256 * ofBytes r

/-- Doubleword `i` of a byte string. -/
def dword (l : List Byte) (i : Nat) : Nat := ofBytes ((l.drop (8 * i)).take 8)
/-- The 32-bit word `i` of a byte string. -/
def word32 (l : List Byte) (i : Nat) : Nat := ofBytes ((l.drop (4 * i)).take 4)

/-- A value of `bits` bits read as signed. -/
def sext (v bits : Nat) : Int := if v < 2 ^ (bits - 1) then (v : Int) else (v : Int) - 2 ^ bits
/-- An integer as `bits` bits. -/
def wrapN (v : Int) (bits : Nat) : Nat := (v % (2 ^ bits : Int)).toNat
/-- Sign extension of `bits` bits to a doubleword. -/
def sextW (v bits : Nat) : Word := BitVec.ofInt 64 (sext v bits)

/-- Rounded-up division. -/
def ceilDiv (a b : Nat) : Nat := (a + b - 1) / b

/-- The numbers below `n` that satisfy `p`, ascending. -/
def below (n : Nat) (p : Nat → Bool) : List Nat := (List.range n).filter p

/-- A sparse table: keys strictly rising. -/
abbrev AMap (α : Type) := List (Nat × α)

/-- The entry at a key. -/
def amGet? {α : Type} : AMap α → Nat → Option α
  | [], _ => none
  | (k, v) :: r, i => if i = k then some v else if i < k then none else amGet? r i

/-- The entry at a key, or what an unlisted key holds. -/
def amGet {α : Type} (dflt : α) (m : AMap α) (i : Nat) : α := (amGet? m i).getD dflt

/-- Set the entry at a key. -/
def amSet {α : Type} : AMap α → Nat → α → AMap α
  | [], i, x => [(i, x)]
  | (k, v) :: r, i, x =>
    if i < k then (i, x) :: (k, v) :: r else if i = k then (i, x) :: r else (k, v) :: amSet r i x

/-- Remove the entry at a key. -/
def amErase {α : Type} : AMap α → Nat → AMap α
  | [], _ => []
  | (k, v) :: r, i => if i = k then r else if i < k then (k, v) :: r else (k, v) :: amErase r i

/-- Insert into a list kept in ascending order of a lexicographic key. -/
def insertBy {α : Type} (le : α → α → Bool) (x : α) : List α → List α
  | [] => [x]
  | y :: r => if le x y then x :: y :: r else y :: insertBy le x r

/-- Stable insertion sort. -/
def sortBy {α : Type} (le : α → α → Bool) : List α → List α
  | [] => []
  | x :: r => insertBy le x (sortBy le r)

/-- Lexicographic comparison of number lists, a proper prefix first (R142 tests 1 and 2). -/
def lexLt : List Nat → List Nat → Bool
  | [], [] => false
  | [], _ :: _ => true
  | _ :: _, [] => false
  | a :: r, b :: t => if a = b then lexLt r t else decide (a < b)

/-- The distinct elements of a list, in order of first appearance. -/
def dedup {α : Type} [DecidableEq α] : List α → List α
  | [] => []
  | x :: r => x :: (dedup r).filter (· ≠ x)

/-- Replace element `i` of a list. -/
def setAt {α : Type} (l : List α) (i : Nat) (x : α) : List α := l.set i x

end Sys2Proof.Machine

namespace Sys2Proof

/-- The key of a core in sparse tables. -/
def CoreId.key (c : CoreId) : Nat := (c.part * 64 + c.pkg) * 2048 + c.vc
/-- The source key of R205, R210. -/
def CoreId.srcKey (c : CoreId) : Nat := c.pkg * 2048 + c.vc
/-- The core a key names. -/
def coreOfKey (k : Nat) : CoreId := { part := k / 131072, pkg := k / 2048 % 64, vc := k % 2048 }
/-- The virtual cluster of a core (R423). -/
def CoreId.clu (c : CoreId) : CluId := { part := c.part, pkg := c.pkg, clu := c.vc / 8 }
/-- The key of a cluster in sparse tables. -/
def CluId.key (u : CluId) : Nat := (u.part * 64 + u.pkg) * 256 + u.clu
/-- The cluster a key names. -/
def cluOfKey (k : Nat) : CluId := { part := k / 16384, pkg := k / 256 % 64, clu := k % 256 }

end Sys2Proof
end

