-- ==== Sys2Proof/Machine/Float.lean ====
section
/-! DEFINITION. Floating-point formats, exact values, rounding and the operations of 03_numbers.md (R59-R74). Every
operation forms its exact result and rounds it once (R68). -/
namespace Sys2Proof.Machine

/-- How a format encodes infinity and NaN (R59, R62). -/
inductive Specials where | ieee | e4m3 | none | ue5m3
  deriving DecidableEq, Repr

/-- The parameters of a floating format (R59). -/
structure FFmt where
  ebits : Nat
  mbits : Nat
  bias : Nat
  spec : Specials
  deriving DecidableEq, Repr

def fp64 : FFmt := ⟨11, 52, 1023, .ieee⟩
def fp32 : FFmt := ⟨8, 23, 127, .ieee⟩
def fp16 : FFmt := ⟨5, 10, 15, .ieee⟩
def bf16 : FFmt := ⟨8, 7, 127, .ieee⟩
def e5m2 : FFmt := ⟨5, 2, 15, .ieee⟩
def e4m3 : FFmt := ⟨4, 3, 7, .e4m3⟩
def e3m2 : FFmt := ⟨3, 2, 3, .none⟩
def e2m3 : FFmt := ⟨2, 3, 1, .none⟩
def e2m1 : FFmt := ⟨2, 1, 1, .none⟩
def ue5m3 : FFmt := ⟨5, 3, 15, .ue5m3⟩

/-- Width in bits; UE5M3 has no sign bit (R59). -/
def FFmt.width (f : FFmt) : Nat := f.ebits + f.mbits + (if f.spec = .ue5m3 then 0 else 1)

/-- Overflow beyond E5M2 saturates, unlike the formats of 16 bits and more (R73). -/
def FFmt.saturates (f : FFmt) : Bool := f.spec != .ieee || f.width == 8

/-- The code of the largest finite value, without its sign (R59). -/
def FFmt.maxCode (f : FFmt) : Nat :=
  match f.spec with
  | .ieee => (2 ^ f.ebits - 1) * 2 ^ f.mbits - 1
  | .e4m3 => 2 ^ (f.ebits + f.mbits) - 2
  | .none => 2 ^ (f.ebits + f.mbits) - 1
  | .ue5m3 => 2 ^ (f.ebits + f.mbits) - 2

/-- A decoded operand: a NaN, an infinity, or the exact value (-1)^s * m * 2^e (R60-R62). -/
inductive FV where
  | nan (sig : Bool)
  | inf (s : Bool)
  | fin (s : Bool) (m : Nat) (e : Int)
  deriving DecidableEq, Repr

/-- Decoding of a word of the format (R60, R62). -/
def FFmt.dec (f : FFmt) (w : Nat) : FV :=
  let m := w % 2 ^ f.mbits
  let e := w / 2 ^ f.mbits % 2 ^ f.ebits
  let s := if f.spec = .ue5m3 then false else w / 2 ^ (f.mbits + f.ebits) % 2 == 1
  let ones := 2 ^ f.ebits - 1
  if f.spec = .ieee ∧ e = ones then
    if m = 0 then .inf s else .nan (m < 2 ^ (f.mbits - 1))
  else if (f.spec = .e4m3 ∨ f.spec = .ue5m3) ∧ e = ones ∧ m = 2 ^ f.mbits - 1 then .nan false
  else if e = 0 then .fin s m (1 - (f.bias : Int) - f.mbits)
  else .fin s (2 ^ f.mbits + m) ((e : Int) - f.bias - f.mbits)

/-- The canonical NaN (R62); formats without one deliver zero (R74). -/
def FFmt.nanCode (f : FFmt) : Nat :=
  match f.spec with
  | .ieee => (2 ^ f.ebits - 1) * 2 ^ f.mbits + 2 ^ (f.mbits - 1)
  | .e4m3 => 2 ^ (f.ebits + f.mbits) - 1
  | .ue5m3 => 2 ^ (f.ebits + f.mbits) - 1
  | .none => 0

/-- The sign bit of a code. -/
def FFmt.signBit (f : FFmt) (s : Bool) : Nat := if s then 2 ^ (f.ebits + f.mbits) else 0

/-- Flags at the places of the status word: NX UF OF DZ NV NL WR SAT (R82). -/
abbrev Flags := BitVec 8
def fNX : Flags := 1
def fUF : Flags := 2
def fOF : Flags := 4
def fDZ : Flags := 8
def fNV : Flags := 16
def fNL : Flags := 32
def fWR : Flags := 64
def fSAT : Flags := 128

/-- A rounding mode with the counter and key a stochastic rounding draws (R68, R70). -/
structure RMode where
  code : Nat          -- 0 RNE, 1 RTZ, 2 RUP, 3 RDN, 4 SR
  n : Word
  k : Word
  deriving DecidableEq, Repr

def rneMode : RMode := ⟨0, 0, 0⟩

/-- Whether the neighbour away from zero is chosen, for the fraction rem/den above the integer lo (R68, R70). -/
def pickHi (r : RMode) (s : Bool) (lo rem den : Nat) : Bool :=
  match r.code with
  | 1 => false
  | 2 => !s
  | 3 => s
  | 4 => decide (rem * 2 ^ 32 / den > (mix (r.k ^^^ r.n)).toNat / 2 ^ 32)
  | _ => decide (2 * rem > den) || (decide (2 * rem = den) && lo % 2 == 1)

/-- num/den * 2^sh as a fraction. -/
def scaleFrac (num den : Nat) (sh : Int) : Nat × Nat :=
  if 0 ≤ sh then (num * 2 ^ sh.toNat, den) else (num, den * 2 ^ (-sh).toNat)

/-- The exponent E with 2^E <= num/den < 2^(E+1), for num and den positive. -/
def floorLog2 (num den : Nat) : Int :=
  let l := (Nat.log2 num : Int) - Nat.log2 den
  let (a, b) := scaleFrac num den (-l)
  if a < b then l - 1 else l

/-- Rounding of the magnitude num/den * 2^e to multiples of 2^q: the multiple, and whether it is exact. -/
def roundAt (r : RMode) (s : Bool) (num den : Nat) (e q : Int) : Nat × Bool :=
  let (a, b) := scaleFrac num den (e - q)
  let lo := a / b
  let rem := a % b
  if rem = 0 then (lo, true) else (if pickHi r s lo rem b then lo + 1 else lo, false)

/-- m1 * 2^e1 < m2 * 2^e2. -/
def dyLt (m1 : Nat) (e1 : Int) (m2 : Nat) (e2 : Int) : Bool :=
  if e1 ≤ e2 then decide (m1 < m2 * 2 ^ (e2 - e1).toNat) else decide (m1 * 2 ^ (e1 - e2).toNat < m2)

/-- The magnitude code of m * 2^q, which the format holds exactly, m below 2^(mbits+1). -/
def FFmt.encMag (f : FFmt) (m : Nat) (q : Int) : Nat :=
  let qmin : Int := 1 - (f.bias : Int) - f.mbits
  let (m, q) := if m = 2 ^ (f.mbits + 1) then (2 ^ f.mbits, q + 1) else (m, q)
  if m < 2 ^ f.mbits then m else (q - qmin).toNat * 2 ^ f.mbits + m

/-- Rounding of the positive exact value num/den * 2^e with a sign into a format: its code and flags (R68, R69, R73). -/
def FFmt.round (f : FFmt) (r : RMode) (s : Bool) (num den : Nat) (e : Int) : Nat × Flags :=
  if num = 0 then (f.signBit s, 0) else
  let E := floorLog2 num den + e
  let qmin : Int := 1 - (f.bias : Int) - f.mbits
  let qu := E - f.mbits
  let (mu, exu) := roundAt r s num den e qu
  let (maxM, maxE) := match f.dec f.maxCode with | .fin _ m x => (m, x) | _ => (0, 0)
  if dyLt maxM maxE mu qu then
    let toMax := f.saturates || r.code == 1 || (r.code == 2 && s) || (r.code == 3 && !s)
    if toMax then (f.signBit s + f.maxCode, fOF ||| fNX ||| fSAT)
    else (f.signBit s + (2 ^ f.ebits - 1) * 2 ^ f.mbits, fOF ||| fNX)
  else
    let q := if qu < qmin then qmin else qu
    let (m, ex) := if qu < qmin then roundAt r s num den e qmin else (mu, exu)
    let tiny := dyLt mu qu 1 (1 - (f.bias : Int))
    (f.signBit s + f.encMag m q, if ex then 0 else if tiny then fNX ||| fUF else fNX)

/-- An exact result before rounding (R68): a NaN, an infinity, or a signed magnitude num/den * 2^e. -/
inductive Exact where
  | nan
  | inf (s : Bool)
  | val (s : Bool) (num den : Nat) (e : Int)
  deriving DecidableEq, Repr

/-- Delivery of an operation's exact result into a floating format that holds infinities (R63, R68). -/
def FFmt.deliver (f : FFmt) (r : RMode) (x : Exact × Flags) : Nat × Flags :=
  match x.1 with
  | .nan => (f.nanCode, x.2)
  | .inf s => (f.signBit s + (2 ^ f.ebits - 1) * 2 ^ f.mbits, x.2)
  | .val s num den e =>
    let (c, fl) := f.round r s num den e
    (c, fl ||| x.2)

/-- NV for a signalling operand (R63). -/
def FV.sigFlag : FV → Flags
  | .nan true => fNV
  | _ => 0

def FV.isNan : FV → Bool
  | .nan _ => true
  | _ => false

def FV.neg : FV → FV
  | .nan b => .nan b
  | .inf s => .inf (!s)
  | .fin s m e => .fin (!s) m e

/-- An exact sum of two signed dyadics; the sign of a zero of unlike signs follows RDN (R68). -/
def addDy (rdn : Bool) (s1 : Bool) (m1 : Nat) (e1 : Int) (s2 : Bool) (m2 : Nat) (e2 : Int) : Exact :=
  let e := if e1 ≤ e2 then e1 else e2
  let a : Int := (m1 * 2 ^ (e1 - e).toNat : Nat)
  let b : Int := (m2 * 2 ^ (e2 - e).toNat : Nat)
  let t := (if s1 then -a else a) + (if s2 then -b else b)
  if t = 0 then .val (if s1 = s2 then s1 else rdn) 0 1 0 else .val (decide (t < 0)) t.natAbs 1 e

/-- a + b (R63, R68). -/
def exAdd (rdn : Bool) (a b : FV) : Exact × Flags :=
  let fl := a.sigFlag ||| b.sigFlag
  match a, b with
  | .nan _, _ => (.nan, fl)
  | _, .nan _ => (.nan, fl)
  | .inf s, .inf t => if s = t then (.inf s, fl) else (.nan, fl ||| fNV)
  | .inf s, _ => (.inf s, fl)
  | _, .inf t => (.inf t, fl)
  | .fin s m e, .fin t n g => (addDy rdn s m e t n g, fl)

/-- a * b + c, exact before its rounding (R63, R68, R108). -/
def exFma (rdn : Bool) (a b c : FV) : Exact × Flags :=
  let fl := a.sigFlag ||| b.sigFlag ||| c.sigFlag
  let bad := match a, b with
    | .inf _, .fin _ m _ => m == 0
    | .fin _ m _, .inf _ => m == 0
    | _, _ => false
  if bad then (.nan, fl ||| fNV)
  else match a, b, c with
  | .nan _, _, _ => (.nan, fl)
  | _, .nan _, _ => (.nan, fl)
  | _, _, .nan _ => (.nan, fl)
  | .fin s m e, .fin t n g, .fin u k h => (addDy rdn (s != t) (m * n) (e + g) u k h, fl)
  | .fin _ _ _, .fin _ _ _, .inf u => (.inf u, fl)
  | .inf s, .inf t, c | .inf s, .fin t _ _, c | .fin s _ _, .inf t, c =>
    match c with
    | .inf u => if u = (s != t) then (.inf u, fl) else (.nan, fl ||| fNV)
    | _ => (.inf (s != t), fl)

/-- a * b (R63, R68). -/
def exMul (a b : FV) : Exact × Flags :=
  let fl := a.sigFlag ||| b.sigFlag
  match a, b with
  | .nan _, _ => (.nan, fl)
  | _, .nan _ => (.nan, fl)
  | .inf s, .inf t => (.inf (s != t), fl)
  | .inf s, .fin t m _ => if m = 0 then (.nan, fl ||| fNV) else (.inf (s != t), fl)
  | .fin s m _, .inf t => if m = 0 then (.nan, fl ||| fNV) else (.inf (s != t), fl)
  | .fin s m e, .fin t n g => (.val (s != t) (m * n) 1 (e + g), fl)

/-- a / b (R63, R68). -/
def exDiv (a b : FV) : Exact × Flags :=
  let fl := a.sigFlag ||| b.sigFlag
  match a, b with
  | .nan _, _ => (.nan, fl)
  | _, .nan _ => (.nan, fl)
  | .inf _, .inf _ => (.nan, fl ||| fNV)
  | .inf s, .fin t _ _ => (.inf (s != t), fl)
  | .fin s _ _, .inf t => (.val (s != t) 0 1 0, fl)
  | .fin s m e, .fin t n g =>
    if n = 0 then (if m = 0 then (.nan, fl ||| fNV) else (.inf (s != t), fl ||| fDZ))
    else (.val (s != t) m n (e - g), fl)

/-- The integer square root, bit by bit. -/
def isqrtGo (x : Nat) : Nat → Nat → Nat
  | 0, r => r
  | i + 1, r => let t := r + 2 ^ i; isqrtGo x i (if t * t ≤ x then t else r)

/-- The integer square root. -/
def isqrt (x : Nat) : Nat := isqrtGo x (Nat.log2 x / 2 + 1) 0

/-- The square root (R63, R68, R108): an inexact root is carried with a sticky bit below its last place. -/
def exSqrt (a : FV) : Exact × Flags :=
  let fl := a.sigFlag
  match a with
  | .nan _ => (.nan, fl)
  | .inf s => if s then (.nan, fl ||| fNV) else (.inf false, fl)
  | .fin s m e =>
    if m = 0 then (.val s 0 1 0, fl)
    else if s then (.nan, fl ||| fNV)
    else
      let (m, e) := if e % 2 = 0 then (m, e) else (m * 2, e - 1)
      let x := m * 2 ^ 256
      let q := isqrt x
      (.val false (2 * q + (if q * q = x then 0 else 1)) 1 (e / 2 - 128 - 1), fl)

/-- 1 / sqrt a (R262): P = 200 fraction bits and a sticky bit. -/
def exRsqrt (a : FV) : Exact × Flags :=
  let fl := a.sigFlag
  match a with
  | .nan _ => (.nan, fl)
  | .inf s => if s then (.nan, fl ||| fNV) else (.val false 0 1 0, fl)
  | .fin s m e =>
    if m = 0 then (.inf s, fl ||| fDZ)
    else if s then (.nan, fl ||| fNV)
    else
      let (m, e) := if e % 2 = 0 then (m, e) else (m * 2, e - 1)
      let q := isqrt (2 ^ 400 / m)
      (.val false (2 * q + (if q * q * m = 2 ^ 400 then 0 else 1)) 1 (-(e / 2) - 201), fl)

/-- 1 / a (R262). -/
def exRecip (a : FV) : Exact × Flags := exDiv (.fin false 1 0) a

/-- ln 2 in units of 2^-400, rounded down. DEDUCED: any value this close gives the correctly rounded e^a, since e^a of a
nonzero operand is irrational (log 7). -/
def ln2Scaled : Nat := 1789879222497203190815761498240779176894896805856420935579692301363062920687047601279850318367644315849030039181347319086

/-- The Taylor sum of e^r in units of 2^-400: `t` the current term, `i` its index. -/
def expSum (r : Nat) : Nat → Nat → Nat → Nat → Nat
  | 0, _, _, acc => acc
  | k + 1, i, t, acc => let t := t * r / (i * 2 ^ 400); expSum r k (i + 1) t (acc + t)

/-- e^a (R262), from a 400-bit approximation that no rounding boundary of the formats comes near (log 7). -/
def exExp (a : FV) : Exact × Flags :=
  let fl := a.sigFlag
  match a with
  | .nan _ => (.nan, fl)
  | .inf s => (if s then .val false 0 1 0 else .inf false, fl)
  | .fin s m e =>
    if m = 0 then (.val false 1 1 0, fl)
    else if dyLt 1024 0 m e then (.val false 3 1 (if s then -3000 else 3000), fl)
    else
      let A : Int := if 0 ≤ e + 400 then (m * 2 ^ (e + 400).toNat : Nat) else (m / 2 ^ (-(e + 400)).toNat : Nat)
      let A := if s then -A else A
      let k := A / (ln2Scaled : Int)
      let r := (A % (ln2Scaled : Int)).toNat
      (.val false (expSum r 96 1 (2 ^ 400) (2 ^ 400)) 1 (k - 400), fl)

/-- Numeric comparison of operands that are not NaN: a < b, with the zeros equal (R110). -/
def FV.lt : FV → FV → Bool
  | .inf s, .inf t => s && !t
  | .inf s, _ => s
  | _, .inf t => !t
  | .fin s m e, .fin t n g =>
    if m = 0 && n = 0 then false
    else if s != t then (if m = 0 then !t else if n = 0 then s else s)
    else if s then dyLt n g m e else dyLt m e n g
  | _, _ => false

/-- Numeric equality of operands that are not NaN (R110). -/
def FV.eqv : FV → FV → Bool
  | .nan _, _ => false
  | _, .nan _ => false
  | a, b => !(a.lt b) && !(b.lt a)

/-- The sign of an operand that is a number. -/
def FV.sign : FV → Bool
  | .nan _ => false
  | .inf s => s
  | .fin s _ _ => s

/-- minimumNumber and maximumNumber over codes of one format, -0 below +0 (R63). -/
def FFmt.minMax (f : FFmt) (isMax : Bool) (x y : Nat) : Nat × Flags :=
  let a := f.dec x
  let b := f.dec y
  let fl := a.sigFlag ||| b.sigFlag
  match a.isNan, b.isNan with
  | true, true => (f.nanCode, fl)
  | true, false => (y, fl)
  | false, true => (x, fl)
  | false, false =>
    let less := if a.eqv b then a.sign && !b.sign else a.lt b
    (if less != isMax then x else y, fl)

/-- Rounding of an operand to an integer (R74): the integer, and whether it differs from the operand. -/
def roundInt (r : RMode) (s : Bool) (m : Nat) (e : Int) : Int × Bool :=
  let (q, ex) := roundAt r s m 1 e 0
  (if s then -(q : Int) else (q : Int), !ex)

/-- Conversion into an integer of `bits` bits (R73, R74): the value and flags. An operand outside the range delivers
the bound with NV, SAT and NX; a NaN delivers 0 with NV and NL. -/
def convInt (bits : Nat) (signed : Bool) (r : RMode) (v : FV) : Int × Flags :=
  let hi : Int := if signed then 2 ^ (bits - 1) - 1 else 2 ^ bits - 1
  let lo : Int := if signed then -(2 ^ (bits - 1) : Int) else 0
  match v with
  | .nan _ => (0, fNV ||| fNL)
  | .inf s => (if s then lo else hi, fNV ||| fSAT ||| fNX)
  | .fin s m e =>
    -- beyond 2^70 the bound decides, whatever the fraction
    if dyLt 1 70 m e then (if s then lo else hi, fNV ||| fSAT ||| fNX) else
    let (i, inx) := roundInt r s m e
    if i < lo then (lo, fNV ||| fSAT ||| fNX)
    else if hi < i then (hi, fNV ||| fSAT ||| fNX)
    else (i, if inx then fNX else 0)

/-- Conversion of a value into a floating format (R72-R74). -/
def FFmt.conv (f : FFmt) (r : RMode) (v : FV) : Nat × Flags :=
  match v with
  | .nan sig =>
    if f.spec = .none then (0, fNV ||| fNL) else (f.nanCode, if sig then fNV else 0)
  | .inf s =>
    match f.spec with
    | .ieee => (f.signBit s + (2 ^ f.ebits - 1) * 2 ^ f.mbits, 0)
    | .e4m3 => (f.nanCode, fNV)
    | _ => (f.signBit s + f.maxCode, fOF ||| fNX ||| fSAT ||| fNV)
  | .fin s m e => f.round r s m 1 e

/-- A signed integer as an exact value. -/
def FV.ofInt (i : Int) : FV := .fin (decide (i < 0)) i.natAbs 0

/-- The exact sum of many terms (R76): a NaN or unlike infinities make it NaN; -0 only when every term is -0. -/
def exSumGo (e0 : Int) : List FV → Int → Bool → Option Bool → Bool → Bool → Exact × Flags
  | [], acc, allNeg, none, false, _ =>
    (if acc = 0 then .val allNeg 0 1 0 else .val (decide (acc < 0)) acc.natAbs 1 e0, 0)
  | [], _, _, some s, false, _ => (.inf s, 0)
  | [], _, _, _, true, nv => (.nan, if nv then fNV else 0)
  | .nan sig :: r, acc, z, i, _, nv => exSumGo e0 r acc z i true (nv || sig)
  | .inf s :: r, acc, z, i, n, nv =>
    match i with
    | none => exSumGo e0 r acc z (some s) n nv
    | some t => if s = t then exSumGo e0 r acc z i n nv else exSumGo e0 r acc z i true true
  | .fin s m e :: r, acc, z, i, n, nv =>
    let v : Int := (m * 2 ^ (e - e0).toNat : Nat)
    exSumGo e0 r (if s then acc - v else acc + v) (z && s && m == 0) i n nv

/-- The least exponent of the finite terms. -/
def minExp : List FV → Int
  | [] => 0
  | .fin _ _ e :: r => let t := minExp r; if e ≤ t then e else t
  | _ :: r => minExp r

/-- The exact sum of a list (R76). -/
def exSum (l : List FV) : Exact × Flags := exSumGo (minExp l) l 0 (!l.isEmpty) none false false

/-- An exact finite or special result as an operand of a further exact step. -/
def Exact.toFV : Exact → FV
  | .nan => .nan false
  | .inf s => .inf s
  | .val s num _ e => .fin s num e

end Sys2Proof.Machine
end

