-- ==== Sys2Proof/Machine/Convert.lean ====
section
/-! DEFINITION. The format codes of R47, block-scaled arrays (R64-R67), conversions (R72-R74), packed elements (R58,
R64) and the status word (R82). -/
namespace Sys2Proof.Machine

/-- An element is a floating number or a signed integer of some bits. -/
inductive Elem where | flt (f : FFmt) | int (bits : Nat)
  deriving DecidableEq, Repr

end Sys2Proof.Machine

namespace Sys2Proof
open Machine

/-- The element type of a format code (R47, R64). -/
def Fmt.elem : Fmt → Elem
  | .f32 => .flt fp32 | .f16 => .flt fp16 | .bf16 => .flt Machine.bf16 | .i32 => .int 32 | .i16 => .int 16 | .i8 => .int 8
  | .e5m2 | .mxfp8e5m2 => .flt Machine.e5m2 | .e4m3 | .mxfp8e4m3 => .flt Machine.e4m3
  | .e3m2 | .mxfp6e3m2 => .flt Machine.e3m2 | .e2m3 | .mxfp6e2m3 => .flt Machine.e2m3
  | .e2m1 | .mxfp4 | .nx4 => .flt Machine.e2m1 | .i4 => .int 4

/-- The MX formats, codes 11-15 (R64). -/
def Fmt.isMx : Fmt → Bool
  | .mxfp8e5m2 | .mxfp8e4m3 | .mxfp6e3m2 | .mxfp6e2m3 | .mxfp4 => true
  | _ => false

/-- Elements a block: 0 for a plain format (R64). -/
def Fmt.block (f : Fmt) : Nat := if f.isMx then 32 else if f = .nx4 then 8 else 0

/-- Largest exponent of an MX element format (R66). -/
def Fmt.emax : Fmt → Int
  | .mxfp8e5m2 => 15 | .mxfp8e4m3 => 8 | .mxfp6e3m2 => 4 | _ => 2

/-- Width of an element in bits. -/
def Fmt.width (f : Fmt) : Nat :=
  match f.elem with
  | .flt g => g.width
  | .int b => b

/-- Element bytes of a format of 8 bits or more, 1 for narrower ones (R280, R296, R338). -/
def Fmt.elemBytes (f : Fmt) : Nat := max 1 (f.width / 8)

/-- The format code of a vector type (R46, R47). -/
def VType.fmt : VType → Fmt
  | .f32 => .f32 | .f16 => .f16 | .bf16 => .bf16 | .i32 => .i32 | .i16 => .i16 | .i8 => .i8

/-- Element width of a vector type in bits (R252). -/
def VType.width (t : VType) : Nat := t.fmt.width
/-- Elements of a register (R252). -/
def VType.lanes (t : VType) : Nat := 512 / t.width

/-- The floating format of a scalar precision (R45). -/
def Prec.ffmt : Prec → FFmt | .h => fp16 | .b => Machine.bf16 | .s => fp32 | .d => fp64

/-- Access size in bytes (R39). -/
def Size.bytes : Size → Nat | .b => 1 | .h => 2 | .w => 4 | .d => 8

end Sys2Proof

namespace Sys2Proof.Machine

/-- The exact value of an unscaled element code (R60, R57). -/
def Elem.dec (e : Elem) (code : Nat) : FV :=
  match e with
  | .flt f => f.dec code
  | .int b => FV.ofInt (sext (code % 2 ^ b) b)

/-- Encoding of a value into an element, rounded once (R72-R74). -/
def Elem.enc (e : Elem) (r : RMode) (v : FV) : Nat × Flags :=
  match e with
  | .flt f => f.conv r v
  | .int b => let (i, fl) := convInt b true r v; (wrapN i b, fl)

/-- The element is an infinity or a NaN of its format. -/
def Elem.nonFinite (e : Elem) (code : Nat) : Bool :=
  match e with
  | .int _ => false
  | .flt f => match f.dec code with | .fin _ _ _ => false | _ => true

/-- Scaling of a decoded element by a block's scale code (R65). -/
def scaleBy (f : Fmt) (scale : Nat) (v : FV) : FV :=
  if f.block = 0 then v
  else if scale = 255 then .nan false
  else match v with
    | .fin s m e =>
      if f.isMx then .fin s m (e + ((scale : Int) - 127))
      else match ue5m3.dec scale with
        | .fin _ n g => .fin s (m * n) (e + g)
        | _ => .nan false
    | x => x

/-- The exact value of an element under its block's scale (R65). -/
def decElem (f : Fmt) (scale code : Nat) : FV := scaleBy f scale (f.elem.dec code)

/-- What encoding a block delivers (R66, R67). -/
structure BlockEnc where
  scale : Nat
  codes : List (Nat × Flags)
  isNan : Bool
  deriving DecidableEq, Repr

/-- The largest magnitude of finite values. -/
def amax : List FV → Nat × Int
  | [] => (0, 0)
  | .fin _ m e :: r => let (n, g) := amax r; if dyLt n g m e then (m, e) else (n, g)
  | _ :: r => amax r

/-- Encoding of one block (R66, R67); `modes` gives the draw of each element. -/
def encBlock (f : Fmt) (modes : List RMode) (xs : List FV) : BlockEnc :=
  if xs.any (fun x => match x with | .fin _ _ _ => false | _ => true) then
    { scale := 255, codes := xs.map fun _ => (0, fNV ||| fNL), isNan := true }
  else
    let (m, e) := amax xs
    if f.isMx then
      let X0 := floorLog2 m 1 + e - f.emax
      let X : Int := if m = 0 then -127 else if X0 < -127 then -127 else if 127 < X0 then 127 else X0
      { scale := if m = 0 then 0 else (X + 127).toNat
        codes := (xs.zip modes).map fun (x, r) => match x with
          | .fin s k g => f.elem.enc r (.fin s k (g - X))
          | y => f.elem.enc r y
        isNan := false }
    else
      let c0 := (ue5m3.round ⟨2, 0, 0⟩ false m 6 e).1
      let c := if m = 0 then 0 else if c0 = 0 then 1 else c0
      let (sm, se) := match ue5m3.dec c with | .fin _ a b => (a, b) | _ => (1, 0)
      { scale := c
        codes := (xs.zip modes).map fun (x, r) => match x with
          | .fin s k g => if k = 0 then (e2m1.signBit s, 0) else e2m1.round r s k sm (g - se)
          | _ => (0, 0)
        isNan := false }

/-- Element `i` of a packed array of `w`-bit elements (R58, R64). -/
def packGet (v w i : Nat) : Nat := v / 2 ^ (w * i) % 2 ^ w

/-- Elements of `w` bits packed from bit 0 (R58, R64). -/
def packAll (w : Nat) : List Nat → Nat
  | [] => 0
  | x :: r => x % 2 ^ w + 2 ^ w * packAll w r

/-- The first `n` elements of a packed array. -/
def unpack (v w n : Nat) : List Nat := (List.range n).map (packGet v w)

/-- The union of flags. -/
def orFlags : List Flags → Flags
  | [] => 0
  | f :: r => f ||| orFlags r

/-- The lowest index whose flags are set. -/
def firstFlag : List Flags → Nat → Option Nat
  | [], _ => none
  | f :: r, i => if f = 0 then firstFlag r (i + 1) else some i

/-- The status word of R82. -/
def statusWord (first : Option Nat) (nonfin : Nat) (fmt : Nat) (rnd : Nat) (fl : Flags) : Word :=
  wd ((first.getD 0xFFFF) * 2 ^ 48 + min nonfin 0xFFFF * 2 ^ 32 + fmt * 2 ^ 24 + rnd * 2 ^ 21 + fl.toNat)

/-- What encoding a list of values into a format delivers: element codes, scale codes, flags of each element, and for a
block encoded as NaN flags on its first element alone (R82). -/
structure ArrayEnc where
  codes : List Nat
  scales : List Nat
  flags : List Flags
  deriving DecidableEq, Repr

/-- Blocks of a list. -/
def chunks {α : Type} (n : Nat) : Nat → List α → List (List α)
  | 0, _ => []
  | k + 1, l => if l.isEmpty then [] else l.take n :: chunks n k (l.drop n)

/-- Encoding of a list of values, element `i` under `modes[i]` (R66, R67, R72). -/
def encArray (f : Fmt) (modes : List RMode) (xs : List FV) : ArrayEnc :=
  if f.block = 0 then
    let es := (xs.zip modes).map fun (x, r) => f.elem.enc r x
    { codes := es.map (·.1), scales := [], flags := es.map (·.2) }
  else
    let n := f.block
    let bs := ((chunks n xs.length xs).zip (chunks n xs.length modes)).map fun (x, r) => encBlock f r x
    { codes := bs.flatMap fun b => b.codes.map (·.1)
      scales := bs.map (·.scale)
      flags := bs.flatMap fun b =>
        if b.isNan then (fNV ||| fNL) :: (b.codes.drop 1).map (fun _ => 0) else b.codes.map (·.2) }

end Sys2Proof.Machine
end

