-- ==== Sys2Proof/Machine/State.lean ====
section
/-! DEFINITION. The state of a load-store domain as plain data: every piece of state the chapters name, kept under the
partition's virtual numbers (R23), and the state after reset (R455). -/
namespace Sys2Proof.Machine

/-- Privilege levels (R33, R118). -/
inductive Priv where | program | supervisor | firmware
  deriving DecidableEq, Repr, Inhabited
/-- KIND of a context (R118). -/
inductive CtxKind where | control | held | lent | guest
  deriving DecidableEq, Repr, Inhabited
/-- Slot states (R116). -/
inductive SlotState where | free | held | away | reserved | guest | lent | recall
  deriving DecidableEq, Repr, Inhabited

/-- The home of a byte (R183): a core, or an LLC slice of a logical package. -/
inductive Home where | core (c : CoreId) | llc (pkg slice : Nat)
  deriving DecidableEq, Repr, Inhabited

/-- The agents of R371. Cores, task units, ring units and barrier nodes stand under their virtual numbers. -/
inductive Agent where
  | core (c : CoreId) | llc (pkg slice : Nat) | engine (pkg e : Nat) | task (u : CluId) | ring (u : CluId)
  | barrier (u : CluId) | io (pkg : Nat) | link (pkg l : Nat)
  deriving DecidableEq, Repr, Inhabited

/-- What a memory request asks of its home (R200, R203, R206, R209); an engine writes some bytes of a granule in one access (R218). -/
inductive ReqOp where
  | load (bytes : Nat)
  | store (data : List Byte)
  | masked (data : List (Option Byte))
  | atomic (op : AtOp) (bytes x c : Nat)
  | reduce (op : AtOp) (bytes x : Nat)
  | rlog (flt dbl : Bool) (x seq : Nat)
  deriving DecidableEq, Repr, Inhabited

/-- Who sends a request and awaits its answer (R371, R376): the context itself, the engine of a job (with whether its writes count
toward ring slots, R363) or the issuing context for its completion word (R332), a table walk, whose reads land at a core of its cluster, a task unit (R148), or the fetch of an
instruction sector by a context at a virtual and a physical address (R96). -/
inductive Via where
  | ctx
  | job (id pkg engine : Nat) (counted : Bool)
  | done (id : Nat)
  | walk (id : Nat) (core : CoreId)
  | unit (u : CluId)
  | code (c : CtxId) (va pa : Nat)
  deriving DecidableEq, Repr, Inhabited

/-- A memory request on its way to its home: the place it issued from, its number there, addresses, home, and the task
it belongs to. `posted` is the journal entry of STP, reductions and RLOG (R404). -/
structure Req where
  src : CtxId
  acc : Nat
  va : Nat
  pa : Nat
  home : Home
  op : ReqOp
  task : Option Nat
  posted : Option Nat
  aseq : Nat          -- the atomic sequence of R205
  replicated : Option Nat
  via : Via
  early : List (Nat × Nat) := []   -- ACCST bytes of its home's store that no MXWAIT covered when it was issued (R230)
  deriving DecidableEq, Repr, Inhabited

/-- A ring operation (R366), or a write of RCRST (R358, R361). -/
inductive RingOp where
  | acq (n : Nat) | com (slot : Nat) | peek (take : Bool) | rel (slot : Nat) | disp (x : Nat) | rst
  deriving DecidableEq, Repr, Inhabited

/-- A lookahead window (R29): destination, instructions left, the PC of the instruction that opened it. -/
structure Window where
  dest : Reg
  left : Nat
  pc : Word
  acc : Nat
  deriving DecidableEq, Repr, Inhabited

/-- The 320 bytes of R124 as fields, and where the context came from. -/
structure Image where
  regs : List Word
  pc : Word
  pin : Bool
  wakep : Bool
  srkey : Word
  srctr : Word
  fflags : BitVec 5
  frm : BitVec 3
  swst : Bool
  rah : Bool
  thresh : Nat
  opkg : Nat
  ovc : Nat
  oslot : Nat
  parked : Option (Option Nat)
  remHome : Option (Nat × Nat)
  windows : List Window
  deriving DecidableEq, Repr, Inhabited

/-- What a packet carries (R371): a request or its reply, a task's number (R171), what contexts, barriers, debugging and migration send each
other, a word for a neighbour (R283), a delivery mark (R377), a re-request (R378), or nothing any more. -/
inductive Msg where
  | req (r : Req)
  | data (dst : CtxId) (acc : Nat) (err : Bool) (bytes : List Byte)
  | ack (dst : CtxId) (acc : Nat)
  | nack (dst : CtxId) (acc : Nat) (cause : Nat)
  | jdata (via : Via) (acc : Nat) (err : Bool) (bytes : List Byte)
  | jack (via : Via) (acc : Nat)
  | jnack (via : Via) (acc : Nat) (cause : Nat)
  | ringReq (src : CtxId) (acc : Nat) (ix : Nat) (clu : CluId) (op : RingOp)
  | task (id : Nat) (clu : CluId)
  | reserve (src : CtxId) (target : CoreId)
  | grant (dst : CtxId) (slot : Option Nat) (target : CoreId)
  | cancel (target : CoreId) (slot : Nat)
  | image (target : CoreId) (slot : Nat) (img : Image)
  | kill (target : CtxId) (opkg ovc oslot : Nat)
  | wake (target : CtxId) (opkg ovc oslot : Nat) (sender : CtxId)
  | exit (target : CtxId) (value : Word) (how : Nat)
  | dbg (src : CtxId) (acc : Nat) (target : CtxId) (reg : Nat) (value : Option Word)
  | arrive (clu : CluId) (bar id : Nat) (src : CtxId) (op : Option BredOp) (value : Word)
  | nbr (target : CoreId) (from_ : Dir) (tag : Bool) (value : Word)
  | mark (part : Nat) (src dst : Agent) (cls seq : Nat)
  | rereq (part : Nat) (src dst : Agent) (cls pseq : Nat)
  | void
  deriving DecidableEq, Repr, Inhabited

/-- Where a packet stands: waiting for room in its sender's retransmit store (R377), on its way, at its destination behind a hole (R378), as a trimmed header there, delivered,
or in the inbound park (R406). -/
inductive Stage where | unsent | flying | window | header | ready | parked
  deriving DecidableEq, Repr, Inhabited

/-- A packet (R371-R373). -/
structure Packet where
  id : Nat
  part : Nat
  cls : Nat           -- 0 requests, 1 replies, 2 headers and control
  src : Agent
  dst : Agent
  pseq : Nat
  len : Nat           -- payload flits
  trim : Bool
  retx : Bool
  tcnt : Nat
  dmark : Nat         -- the delivery mark of the reverse pair when it was injected (R377)
  stage : Stage
  at_ : Nat           -- clock of injection, arrival or parking
  judged : Option Bool   -- whether its home's windows refuse it, once they have been written since it arrived (R194)
  msg : Msg
  deriving DecidableEq, Repr, Inhabited

/-- A request that has left its package, as its source keeps it until it is answered (R380): the packet, the clock at which its end-to-end
timer last started, which link of its pair's mask it was last sent on, and how often its timer has expired on each. -/
structure Outgoing where
  pkt : Packet
  timer : Nat
  link : Nat
  tries : List (Nat × Nat)
  deriving DecidableEq, Repr, Inhabited

/-- A pair of R374: its next PSEQ at the source, the next PSEQ its destination delivers, the last delivery mark its destination
has sent back, when it last carried a packet, how many links of its mask it has left behind (R380). The pacing of R378 stands in
the record of class 2 of its two agents in partition 16, which is none: interval in ns, one more than the clock of the last re-request, re-requests
waiting, by partition, class and PSEQ. -/
structure PairSt where
  part : Nat
  src : Agent
  dst : Agent
  cls : Nat
  nextSeq : Nat
  nextDel : Nat
  marked : Nat
  lastSent : Nat
  link : Nat
  interval : Nat
  lastReq : Nat
  waiting : List (Nat × Nat × Nat)
  deriving DecidableEq, Repr, Inhabited

/-- A write waiting at its home for acknowledged invalidations (R189), or for its replica locks (R197). -/
structure HomeWrite where
  id : Nat
  pkt : Packet
  req : Req
  acks : List Nat
  deriving DecidableEq, Repr, Inhabited

/-- What an outstanding access delivers to: nothing; a register; bytes of a vector register; a stream; the instruction that waits for
it, or the stream engine, which read again once it has come (R275). -/
inductive Dest where
  | none
  | reg (d : Reg) (signed : Bool)
  | vec (vd : Nat) (off : Nat)
  | stream (q : Nat) (signed : Bool)
  | fetch
  deriving DecidableEq, Repr, Inhabited

/-- The status tag of a vector register (R253). -/
structure VTag where
  flags : BitVec 8
  first : Option Nat
  rnd : Nat
  deriving DecidableEq, Repr, Inhabited

/-- Stream kinds (R290). -/
inductive SKind where | patRead | patWrite | fibre | isect | union | nbr
  deriving DecidableEq, Repr, Inhabited

/-- One level of a format record (R295). -/
structure Level where
  kind : Nat
  iw : Nat
  size : Nat
  pos : Nat
  crd : Nat
  aux : Nat
  desc : Nat
  deriving DecidableEq, Repr, Inhabited

/-- A validated format record (R294). -/
structure FRec where
  vals : Nat
  scales : Nat
  vfmt : Fmt
  levels : List Level
  deriving DecidableEq, Repr, Inhabited

/-- A validated walk descriptor (R281). -/
structure Walker where
  frec : FRec
  parent : Nat
  level : Nat
  deliv : Nat
  deriving DecidableEq, Repr, Inhabited

/-- An affine pattern (R280). -/
structure Pattern where
  base : Nat
  size : Nat
  sgn : Bool
  wr : Bool
  mark : Bool
  dims : List (Nat × Int)
  deriving DecidableEq, Repr, Inhabited

/-- A buffered element (R271): a data word with its coordinate, the walks that hold it and the walker positions once it is
popped, or a control value. -/
inductive SElem where
  | data (w : Word) (crd pres nA nB : Nat)
  | ctl (w : Word)
  deriving DecidableEq, Repr, Inhabited

/-- How far a walk of a fibre has read (R298): the fibre's entries from `lo` to `hi`, the next entry, the next coordinate,
the coordinate before it, the coordinates left of a run, the bits of a bitmap, and an element read and not yet used. -/
structure WSt where
  p : Nat
  gone : Bool
  lo : Nat
  hi : Nat
  r : Nat
  off : Nat
  prev : Option Nat
  run : Option (Nat × Nat)
  bits : Nat
  peek : Option (Nat × Nat)
  deriving DecidableEq, Repr, Inhabited

/-- A stream binding (R266-R290). The head: ordinal, walker positions (fibre elements each walk has passed), FIN, PAIRB,
MARKD. The fetch: how far the elements in the buffer reach. -/
structure Stream where
  kind : SKind
  desc : Nat
  pat : Pattern
  wa : Walker
  wb : Walker
  dir : Dir
  ord : Nat
  posA : Nat
  posB : Nat
  fin : Bool
  pairB : Bool
  markD : Bool
  broken : Bool       -- no neighbour in its direction after a resumption (R283)
  buf : List SElem
  fOrd : Nat
  fMark : Bool
  fEnd : Bool
  fA : Nat
  fB : Nat
  stA : Option WSt
  stB : Option WSt
  pendB : Option (Nat × Nat × Option Nat)   -- the B part of a pair whose A part has been fetched: coordinate, walks, place
  deriving DecidableEq, Repr, Inhabited

/-- An access a context has sent and not yet seen complete (R31, R190, R193). Accesses of one `grp` deliver together. -/
structure Access where
  acc : Nat
  seq : Nat                    -- when it was sent, in the order of `nextId`
  grp : Nat
  home : Option Home
  target : Agent               -- the agent it was sent to: the home, or the replica that is read (R197)
  page : Option (Nat × Nat)    -- the page it was translated through: its address and size as a power of two (R241)
  va : Nat
  loadLike : Bool
  storeLike : Bool
  dest : Dest
  bytes : Nat
  pc : Word
  icount : Nat
  hold : Bool
  buf : Bool
  posted : Bool
  seqd : Bool                  -- it holds a sequence place (R205)
  got : Option (List Byte)
  err : Option (Nat × Nat)
  pend : Option (Nat × Req)    -- a push whose word the access of that number brings (R276)
  before : Option (Vector (Option Stream) 8)   -- the streams before its instruction popped them
  popped : List (Fin 4 × List (Bool × Word))   -- words its instruction popped from neighbour queues (R273)
  deriving DecidableEq, Repr, Inhabited

/-- Why a context stops before its next instruction for good (R134), and the exit value. -/
structure Leaving where
  value : Word
  how : Nat
  deriving DecidableEq, Repr, Inhabited

/-- A migration in progress (R122): the target, the slot granted, the destination register of MIGR. -/
structure Moving where
  target : CoreId
  slot : Option Nat
  asked : Option Nat     -- the clock at which the reservation was sent
  dest : Option Reg      -- none for an automatic attempt (R126)
  answered : Bool
  deriving DecidableEq, Repr, Inhabited

/-- An entry of a job table (R330). -/
structure JobEntry where
  tag : Nat
  status : Word
  deriving DecidableEq, Repr, Inhabited

/-- An answer to a read that an instruction makes while it executes (R279, R351): its instruction by count and PC, address, size,
and the bytes or the cause of its fault. -/
structure ReadBack where
  icount : Nat
  pc : Word
  va : Nat
  n : Nat
  bytes : List Byte
  cause : Option Nat
  deriving DecidableEq, Repr, Inhabited

/-- A live context (R83, R118, R400). -/
structure Ctx where
  regs : Vector Word 32
  pc : Word
  priv : Priv
  kind : CtxKind
  pin : Bool
  wakep : Bool
  opkg : Nat
  ovc : Nat
  oslot : Nat
  fflags : BitVec 5
  frm : BitVec 3
  srkey : Word
  srctr : Word
  swst : Bool
  rah : Bool
  thresh : Nat
  remCount : Nat
  remHome : Option (Nat × Nat)
  tcause : Word
  tval : Word
  epc : Word
  tsave0 : Word
  tsave1 : Word
  late : Bool
  heldBit : Bool
  epriv : Nat
  inh : Bool
  qhvec : Word
  qhpc : Word
  qhval : Word
  mxPushed : Nat
  mxRefSeq : Nat
  mxRefCnt : Nat
  mxReason : Nat
  mxOut : Nat
  barPend : Bool
  barNo : Nat
  lastv : Word
  mixed : Bool
  barId : Nat                    -- the number of its latest arrival
  released : Option (Option Word)   -- a release on its way to it; none inside: MIXED (R391)
  waitBar : Option Word          -- the PC of a BSYNC or BRED that has arrived and waits (R395)
  jobCtr : Nat
  jobs : List JobEntry
  streams : Vector (Option Stream) 8
  grant : Nat
  vregs : Vector VWord 64
  vtags : Vector VTag 64
  task : Option Nat
  -- execution in progress
  parked : Option (Option Nat)   -- parked, with the GTIME at which the park times out
  faultWaits : Bool              -- its next instruction raises a fault once its results are written (R401)
  haltReq : Bool                 -- a halt asked for meanwhile, to follow the handler's entry (R420)
  tried : List CoreId            -- the cores its next instruction has asked to move to, and which refused (R126)
  parkDone : Option Bool         -- the park has ended: woken, or timed out
  out : List Access
  windows : List Window
  accCtr : Nat
  icount : Nat
  ldAfterLd : Nat                -- fence thresholds: numbers of earlier accesses awaited (R212)
  ldAfterAll : Nat
  stAfterLd : Nat
  stAfterAll : Nat
  allAfter : Nat                 -- an LDA or acquiring reply awaited before any later access (R200, R367)
  trackers : List Nat
  heldFault : Option (Nat × Word × Word × Bool)   -- cause, TVAL, EPC, late (R167)
  heldHalt : Option Nat
  leaving : Option Leaving
  moving : Option Moving
  yielded : Bool
  stepOne : Bool
  publ : Option (Nat × Word)     -- the publish a PUBL waits for, and the PUBL's PC (R353)
  publCount : Nat
  reads : List ReadBack          -- what its instruction's own reads have brought back
  posted : Option (Nat × Word)   -- the instruction, by count and PC, of a posted access that is translated and waits to be sent (R241)
  lat : List (Reg × Nat)         -- registers whose results are still in the pipeline, with the cc they are ready at (R92)
  vlat : List (Nat × Nat)        -- the same of vector registers (R255)
  nextAt : Nat                   -- the earliest cc of its next issue (R92)
  deriving DecidableEq, Repr

/-- A context slot (R116, R135, R408). -/
structure Slot where
  state : SlotState
  exitVal : Word
  exitHow : Nat
  awayPkg : Nat
  awayVc : Nat
  bcode : BitVec 12
  reason : Nat
  halted : Bool
  brken : Bool
  step : Bool
  killSent : Bool        -- a kill has been sent to its context (R134)
  logNext : Nat          -- the next record of its undo log (R155)
  enqNs : Nat            -- the GTIME of the latest enqueue from it, and how many it issued then (R142)
  enqOrd : Nat
  ctx : Option Ctx
  deriving DecidableEq, Repr

/-- A journal entry (R404, R417). -/
structure JEntry where
  state : Nat           -- 0 free, 1 outstanding, 2 refused
  kind : Nat
  fk : Bool
  sgn : Bool
  size : Nat
  origin : Nat
  cause : Nat
  va : Nat
  data : Word
  acc : Nat
  slot : Nat
  deriving DecidableEq, Repr, Inhabited

/-- An operand ring of the MXU (R308). -/
structure MRing where
  defd : Bool
  fill : Nat
  head : Nat
  count : Nat
  slot : Nat
  base : Nat
  deriving DecidableEq, Repr, Inhabited

/-- An accumulator tile with its flags and element marks (R306, R316). -/
structure Tile where
  words : List (BitVec 32)
  flags : BitVec 8
  marks : List Nat
  bad : Bool            -- an uncorrectable error is in the tile (R312)
  deriving DecidableEq, Repr, Inhabited

/-- A queued matrix command (R310). -/
structure MxCmd where
  slot : Nat
  bytes : List Byte
  owned : Bool
  frm : Nat
  srkey : Word
  pushed : Nat
  stores : List (Nat × Nat)   -- core-store ranges stored to while it was queued (R230)
  deriving DecidableEq, Repr, Inhabited

/-- A translation (R233, R236). -/
structure Tlb where
  part : Nat
  asid : Nat
  va : Nat
  bits : Nat            -- page size as a power of two
  pa : Nat
  name : Option Nat     -- the name its leaf gives as its frame (R341)
  home : Nat
  hopnd : Nat
  rah : Bool
  u : Bool
  x : Bool
  w : Bool
  r : Bool
  deriving DecidableEq, Repr, Inhabited

/-- What a walk found (R235), or the cause with which a read of it failed (R380, R407). -/
inductive WalkRes where | leaf (e : Tlb) | absent | bad | failed (cause : Nat)
  deriving DecidableEq, Repr, Inhabited

/-- Who waits for a walk (R237): a context at an instruction, by its count; a copy-engine job; a task unit; what is being performed for a message or a
write at a ring unit or a home. -/
inductive Waiter where | ctx (c : CtxId) (n : Nat) | job (id : Nat) | unit (u : CluId) | msg (id : Nat)
  deriving DecidableEq, Repr, Inhabited

/-- A miss of a cluster, in arrival order (R237): the four oldest that are not done have its walkers. `core` is the core whose landing
buffers its reads take (R376); `root` the table it begins with; `asked` a table entry it has asked for. -/
structure Walk where
  id : Nat
  clu : CluId
  core : CoreId
  asid : Nat
  va : Nat
  root : Nat
  lvl : Nat
  table : Nat
  asked : Bool
  done : Option WalkRes
  by_ : List Waiter
  deriving DecidableEq, Repr, Inhabited

/-- A core of a partition. -/
structure Core where
  slots : Vector Slot 11
  win : Vector Word 4
  winref : Word
  l2size : Nat
  rlseq : Word
  logCount : Nat
  vpResv : Nat
  qsResv : Nat
  mxown : BitVec 32
  rings : Vector MRing 4
  tiles : Vector Tile 4
  mxq : List MxCmd
  lbWaits : Nat
  netsel : Word
  journal : Vector JEntry 64
  orphan : Word
  dbgsel : Word
  sboard : List (Nat × Nat × Nat)       -- job, lowest and highest sector (R195)
  aseq : List (Home × Nat)              -- next atomic sequence toward each home (R205)
  early : List (Nat × Nat × Nat × Bool)  -- owner (0 once it has ended), ACCST bytes from, to, executed: not yet covered by MXWAIT (R230)
  l1d : List Nat
  l1i : AMap (List Byte)
  codeAsked : List Nat                  -- instruction sectors on their way into it, by number, each with a landing buffer (R96, R376)
  itlb : List Tlb
  dtlb : List Tlb
  nbrq : Vector (List (Bool × Word)) 4
  ptr : Nat
  group : List Nat
  waited : Vector Nat 11
  slotAt : Nat                          -- the cc of its next issue slot (R87)
  ownAt : Nat                           -- one more than the clock of the latest access it performed at itself as it issued (R215)
  solo : Option (Nat × Nat)             -- the second cc of a SYSWR: its slot and the cc (R92)
  divFree : Nat                         -- the cc at which its divide unit frees (R93)
  deriving DecidableEq, Repr

/-- A ring control block (R358). -/
structure RingBlk where
  base : Nat
  slotsz : Nat
  count : Nat
  head : Nat
  tail : Nat
  cap : Nat
  accept : Nat
  divert : Nat
  ovf : Nat
  soiled : Bool         -- a store reached its side array (R359)
  deriving DecidableEq, Repr, Inhabited

/-- A cluster of a partition (R19). -/
structure Cluster where
  tlb : List Tlb
  utlb : Option Tlb
  counters : List Nat                   -- codes 16-22 and 25 of R176
  unitTrap : Option (Nat × Word)        -- a transfer of the task unit that faulted: its trap (R239)
  unitTaken : Bool                      -- its control context has taken that trap
  unitTry : Bool                        -- the unit tries it again after that context's ERET, and the outcome is not known yet (R405)
  blocks : AMap RingBlk
  fillAt : Nat                          -- one more than the clock at which an engine byte last completed a slot (R370)
  deriving DecidableEq, Repr, Inhabited

/-- Where a task is (R146, R161). -/
inductive TaskSt where | sent | queued | spilled | running | finished
  deriving DecidableEq, Repr, Inhabited

/-- A queued action of R166. -/
inductive Action where
  | defer (va pa : Nat) (home : Home) (page : Option (Nat × Nat)) (value : Word)
  | wake (ident : Word)
  | mbwr (msg : List Byte)
  deriving DecidableEq, Repr, Inhabited

/-- Why a task is aborted (R160, R176): a conflict, the commit queue or a Solstice mark, or its own TABORT. -/
inductive AbortWhy where | conflict | capacity | own
  deriving DecidableEq, Repr, Inhabited

/-- A task of a partition (R141-R179). -/
structure Task where
  id : Nat
  chain : List Nat
  tagNs : Nat
  tagPkg : Nat
  tagVc : Nat
  tagSlot : Nat
  tagOrd : Nat
  pc : Word
  hint : Word
  args : List Word
  clu : CluId
  target : Option Nat            -- the target vcore of its hint (R149)
  key : Option Nat               -- hint key (R150)
  readyAt : Nat
  parent : Option Nat
  st : TaskSt
  dispatched : Bool
  settled : Bool
  place : Option CtxId
  edepth : Nat
  rfilter : BitVec 2048
  wfilter : BitVec 2048
  undo : List (Nat × Nat × List Byte)  -- sector, address of its record, old bytes, newest first (R155)
  logged : List Nat              -- sectors logged or about to be (R155)
  unlogged : Bool
  logWait : Bool
  ovf : Nat                      -- where its record stands in the overflow region while it is spilled (R148)
  asked : Bool                   -- its record is being read back (R148)
  aborting : Option AbortWhy     -- stopped, its abort waiting for accesses in flight (R159)
  waitedOp : Bool
  actions : List (Nat × Action)  -- each with the number of the moment it was queued
  deriving DecidableEq, Repr, Inhabited

/-- An arrival at a barrier node (R388). -/
structure Arrival where
  id : Nat
  gen : BitVec 32       -- the generation it reached its node in
  src : CtxId
  op : Option BredOp
  value : Word
  deriving DecidableEq, Repr, Inhabited

/-- A named barrier (R387). -/
structure Barrier where
  gen : BitVec 32
  counts : AMap Nat                     -- cluster key to count
  joins : AMap Nat                      -- counts that apply from the next generation on (R396)
  setAt : Nat                           -- one more than the clock of the latest BSET (R398)
  arrived : AMap (List Arrival)
  held : AMap (List Arrival)
  deriving DecidableEq, Repr, Inhabited

/-- A remap table (R422): virtual number to logical number. -/
structure Remap where
  vcore : AMap Nat
  clu : AMap Nat
  pkg : AMap Nat
  deriving DecidableEq, Repr, Inhabited

/-- A staged entry: written valid, or removed (R422). -/
structure Staged where
  vcore : AMap (Option Nat)
  clu : AMap (Option Nat)
  pkg : AMap (Option Nat)
  deriving DecidableEq, Repr, Inhabited

/-- Partition states (R444). -/
inductive PartSt where | absent | formed | running | halted | dissolved
  deriving DecidableEq, Repr, Inhabited

/-- A phase of a switch (R426, R427): in its slice; stopped at mark `m` with the packages still to report; out; restored
at a GTIME and waiting to start. -/
inductive Phase where | inSlice | stopping (m : Nat) (left lagged : List Nat) | out_ | restored (at_ : Nat)
  deriving DecidableEq, Repr, Inhabited

/-- The task configuration in force (R144). -/
structure TaskCfg where
  ovf : Nat
  pool : Nat
  stkoff : Nat
  stksz : Nat
  ulog : Nat
  srkey : Word
  deriving DecidableEq, Repr, Inhabited

/-- A pending shadow (R342): name index, the page addresses jobs reached it by, pool frame, owner (a task, or the partition), and how much
of it has been filled from the current frame. -/
structure Shadow where
  name : Nat
  vas : List Nat
  frame : Nat
  owner : Option Nat
  filled : Nat
  deriving DecidableEq, Repr, Inhabited

/-- A partition (R421-R425). -/
structure Part where
  st : PartSt
  phase : Phase
  dissolving : Bool
  active : Remap
  staged : Staged
  heldNums : Remap
  everRun : Bool
  atbl : Word
  tvec : Word
  taskcfg : Word
  tcfg : TaskCfg
  hgrp : Vector Word 16
  uplog : Word
  spbase : Word
  spsize : Word
  poolFree : List Nat
  shadows : List Shadow
  pmctl : Word
  gsmark : Word
  gsmarkHeld : Option Word
  gsarea : Word
  gscfg : Nat
  gsErr : Nat
  gsHardq : Nat
  gsLags : Nat
  gsSlices : Nat
  tasks : List Task
  floor : Nat
  gvt : Option Nat                      -- none: infinite
  round : Option Nat                    -- the clock at which a round started
  nextRound : Nat
  barriers : Vector Barrier 32
  inbox : List (List Byte)
  outbox : List (List Byte)
  mbRefused : Nat
  postAt : Nat                          -- one more than the clock of the latest post of the host (R447)
  outHeld : List (List Byte)            -- messages of committed tasks that wait for room in the outbound mailbox (R442)
  mbWait : List (CtxId × Word)          -- contexts that wait in MBRD, with its PC, in the order of R442
  reinject : List Packet
  deriving DecidableEq, Repr

/-- Winter table entry kinds use the words of R448; a copy of the table. -/
structure WinterCopy where
  version : Nat
  entries : List (BitVec 64)
  sig1 : List Byte
  sig2 : List Byte
  deriving DecidableEq, Repr, Inhabited

/-- A firmware image slot (R457). -/
structure FwImage where
  version : Nat
  key1 : List Byte
  key2 : List Byte
  sig1 : List Byte
  sig2 : List Byte
  body : List Byte
  deriving DecidableEq, Repr, Inhabited

/-- A package (R434-R461). -/
structure Pkg where
  ready : Bool
  phase : Nat
  oos : Nat
  fwver : Nat
  retired : List (BitVec 64)            -- the Winter entries in force
  version : Nat
  copyA : WinterCopy
  copyB : WinterCopy
  pendingRetire : List (Nat × BitVec 64) -- entries that wait for the next rewrite, with the clock of their retirement (R449, R454)
  fw0 : Option FwImage
  fw1 : Option FwImage
  fuseKey1 : List Byte
  fuseKey2 : List Byte
  fwRun : Option FwImage                -- the firmware image in force (R457)
  fuseMin : Nat
  attKey1 : List Byte                   -- the private halves of the attestation key: Ed25519, ML-DSA-65 (R458)
  attKey2 : List Byte
  life : AMap Nat
  lifeBlock : AMap Nat                  -- the last written block of the lifetime records, with its signatures (R453)
  lifeSig1 : List Byte
  lifeSig2 : List Byte
  lanesOff : List Nat
  cfgsel : Word
  ltsel : Word
  pwrcap : Nat
  tmax : Nat
  power : Nat
  heatSlow : List Bool                  -- a die has been slowed for temperature, or for the cap, and is not back at step 0 (R461)
  capSlow : List Bool
  steps : List Nat
  minute : Nat                          -- the minute of the latest sample of the temperature bins (R453)
  hour : Nat                            -- the hour of the last lifetime block (R453)
  hcarg0 : Word
  hcarg1 : Word
  hcarg2 : Word
  hcerr : Nat
  hcdone : Nat
  hcbusy : Option HostCmd               -- a command started and not completed (R436, R437)
  hcevt : Word
  mbin : AMap (List Byte)
  mbpres : AMap Nat
  route : AMap Nat
  outer : List Nat                      -- links whose far end is outside the domain (R445)
  netcnt : AMap Nat
  lastFlit : AMap Nat                   -- when a router last carried a packet (R382)
  downRouters : List Nat
  report : List Byte
  hostRead : Word
  deriving DecidableEq, Repr

/-- Job kinds (R329, R334, R345). -/
inductive JobKind where | copy | gather | compress | decompress | embg (mode : Nat) | rmove
  deriving DecidableEq, Repr, Inhabited

/-- A read of a job: its number, address, size, and its answer once it has come, bytes or the cause of a fault. -/
structure JobRead where
  no : Nat
  va : Nat
  n : Nat
  bytes : Option (List Byte)
  cause : Option Nat
  deriving DecidableEq, Repr, Inhabited

/-- A write of a job: its number, in the order of the elements it belongs to; the address of the first of them; what it asks of its home,
which is that of the granule; whether it counts toward ring slots (R363); its home once it has been sent; the cause of its failure. -/
structure JobWrite where
  no : Nat
  va : Nat
  op : ReqOp
  counted : Bool
  home : Option Home
  cause : Option Nat
  deriving DecidableEq, Repr, Inhabited

/-- What a piece of a job's work leaves (R335, R339): how far it came, flags, count, whether the job's work is done, a fault; for a move
the map entries and new addresses it has read, for a look-up its hit counters (R346, R349); the writes of granules that later elements
reach too. -/
structure JobAfter where
  pos : Nat
  flags : BitVec 8
  count : Nat
  worked : Bool
  fault : Option (Nat × Nat)
  note : List (Nat × Nat)
  keep : List JobWrite
  deriving DecidableEq, Repr, Inhabited

/-- An engine job (R329-R349). -/
structure Job where
  id : Nat
  tag : Nat
  issuer : CtxId
  pkg : Nat                  -- logical package of its engine
  engine : Nat
  kind : JobKind
  priv : Priv
  task : Option Nat
  recVa : Nat
  recBytes : List Byte
  mode : Nat
  srkey : Word
  seqJob : Bool
  compl : Nat
  started : Bool
  worked : Bool              -- its elements are done, or it has faulted
  pos : Nat
  flags : BitVec 8
  count : Nat
  fault : Option (Nat × Nat)
  pages : List (Nat × Nat)   -- shadowed pages it covers, each with its name (R342)
  touched : List Nat         -- names whose shadows it took or shares (R342)
  publish : Option Nat
  old : Option (List Host.Cell × Word)   -- for an EMBG, memory and ATBL as they stood at its acceptance, by which its reads translate (R347)
  frec : Option FRec         -- the format record of a compress or decompress job, as read at acceptance (R337)
  note : List (Nat × Nat)    -- for a move, its map entries and new addresses (R349); for an EMBG, what its first piece has read (R346, R348)
  accNo : Nat                -- numbers its accesses
  reads : List JobRead       -- the reads of its present piece of work, in order
  out : List JobWrite        -- the writes still to be sent, in order
  sent : List JobWrite       -- the writes sent and not acknowledged, and those that failed
  after : Option JobAfter    -- what its piece leaves once its writes are performed
  told : Bool                -- its completion word has been sent (R332)
  deriving DecidableEq, Repr

/-- One agent an invalidation reaches (R244) and how far it has come (R241). -/
inductive InvAgent where | core (c : CoreId) | clu (u : CluId) | engines (pkg : Nat)
  deriving DecidableEq, Repr, Inhabited
inductive InvStage where | sent | draining (snap : Nat) | acked
  deriving DecidableEq, Repr, Inhabited

/-- An invalidation in progress (R244), by a TLBINV of a context or by a publish. -/
structure Inval where
  id : Nat
  part : Nat
  mode : Nat
  asid : Nat
  lo : Nat
  hi : Nat
  pages : List Nat           -- for a publish: page addresses; else empty
  agents : List (InvAgent × InvStage)
  core : Option CoreId       -- the core whose tracker it holds
  publish : Option Nat
  deriving DecidableEq, Repr, Inhabited

/-- A publish in progress (R343). -/
structure Publish where
  id : Nat
  part : Nat
  names : List Nat
  vas : List Nat             -- the pages it was asked for, besides those its shadows were reached by
  owner : Option Nat
  core : CoreId
  scope : Scope
  sent : Bool
  deriving DecidableEq, Repr, Inhabited

/-- An engine translation cache (R236). -/
structure EngineTlb where
  pkg : Nat
  engine : Nat
  tlb : List Tlb
  deriving DecidableEq, Repr, Inhabited

/-- What the environment decides (log 5): a step of the device or an order it delivers; time passing; a cache or TLB
giving up an entry; a granule becoming uncorrectable, or an error in it corrected; an uncorrectable error in an L1 copy; the stream engine reading ahead; which core is offered the next
issue; a package joining the domain, or the far ends of a package's links (R445); a store of a host core into the control aperture, or a load from it (R436); the retirement of a unit for its uncorrectable errors (R448); a rise of
the minimum version the fuses hold, by the firmware (R457). -/
inductive Input where
  | event (i : Instr)
  | tick (cc : Nat)
  | issue (c : CoreId)
  | evictL1d (c : CoreId) (sector : Nat)
  | evictL1i (c : CoreId) (sector : Nat)
  | evictTlb (c : CoreId) (va : Nat)
  | evictClu (u : CluId) (va : Nat)
  | cleanSector (sector : Nat)
  | poison (granule : Nat)
  | corrected (granule : Nat)
  | l1Error (c : CoreId) (sector : Nat)
  | poisonTile (c : CoreId) (t : Fin 4)
  | readAhead (c : CtxId) (q : Fin 8)
  | aperture (pkg off bytes : Nat) (v : Option Word)
  | retire (pkg kind unit : Nat)
  | raiseMin (pkg version : Nat)
  | join (pkg : Nat) (outer : List Nat)
  | cabled (pkg : Nat) (outer : List Nat)
  deriving DecidableEq, Repr

/-- The state of a load-store domain. -/
structure State where
  clock : Nat                          -- quarter nanoseconds; GTIME is clock / 4 (R11)
  mem : List Host.Cell          -- bytes by physical address, HBM and core stores (R182)
  poison : List Nat                    -- 32-byte granules with an uncorrectable error (R196)
  dirty : List (Nat × Home)            -- HBM sectors whose last store a slice holds (R185, R213)
  openBytes : List (Nat × Nat)         -- physical ranges the manual leaves open: parts of a save area it gives no layout (R429)
  cores : AMap Core
  clusters : AMap Cluster
  parts : Vector Part 16
  pkgs : AMap Pkg
  jobs : List Job
  etlbs : List EngineTlb
  net : List Packet
  kept : List Packet                   -- retransmit stores (R377)
  outgoing : List Outgoing             -- requests to other packages that are not answered (R380)
  pairs : List PairSt
  homeWrites : List HomeWrite
  replies : List (Nat × Home × Nat × Nat × Option Nat)   -- partition, home, source key, sequence, reply (R205)
  walks : List Walk
  invals : List Inval
  publishes : List Publish
  cur : CtxId                          -- the context whose instruction is being executed
  turn : Nat
  nextId : Nat
  fresh : Nat
  agenda : List Input
  deriving DecidableEq, Repr

/-- Why the machine stops with a fault. The specification's faults are all taken by the machine as next states; the one
stop is a state no run reaches. -/
inductive Fault where
  /-- Raised by exec for an instruction word when `cur` names no live context: no run selects such a context. Safe. -/
  | noContext
  deriving DecidableEq, Repr

/-- Why an instruction has no meaning here. -/
inductive Refusal where
  /-- An instruction the model does not cover. Safe: nothing is proved of a run past it. -/
  | notModelled (mnemonic : String)
  deriving DecidableEq, Repr

/-- A slot that holds no context (R116, R408). -/
def Slot.empty : Slot :=
  { state := .free, exitVal := 0, exitHow := 0, awayPkg := 0, awayVc := 0, bcode := 0, reason := 0, halted := false
    brken := false, step := false, killSent := false, logNext := 0, enqNs := 0, enqOrd := 0, ctx := none }

/-- A tile of zeros (R306). -/
def Tile.zero : Tile := { words := List.replicate 256 0, flags := 0, marks := [], bad := false }

/-- A core as its partition first holds it: every register at its reset value (R184-R412). -/
def Core.fresh : Core :=
  { slots := Vector.replicate 11 Slot.empty, win := Vector.replicate 4 0, winref := 0, l2size := 4, rlseq := 0, logCount := 0
    vpResv := 0, qsResv := 0, mxown := 0
    rings := Vector.replicate 4 { defd := false, fill := 0, head := 0, count := 0, slot := 0, base := 0 }
    tiles := Vector.replicate 4 Tile.zero, mxq := [], lbWaits := 0, netsel := 0
    journal := Vector.replicate 64 default
    orphan := 0, dbgsel := 0, sboard := [], aseq := [], early := [], l1d := [], l1i := [], codeAsked := []
    itlb := [], dtlb := [], nbrq := Vector.replicate 4 [], ptr := 0, group := [], waited := Vector.replicate 11 0
    slotAt := 0, ownAt := 0, solo := none, divFree := 0 }

/-- A cluster as its partition first holds it. -/
def Cluster.fresh : Cluster :=
  { tlb := [], utlb := none, counters := List.replicate 8 0, unitTrap := none, unitTaken := false, unitTry := false, blocks := [], fillAt := 0 }

/-- A barrier at partition formation (R387). -/
def Barrier.fresh : Barrier := { gen := 0, counts := [], joins := [], setAt := 0, arrived := [], held := [] }

def Remap.empty : Remap := { vcore := [], clu := [], pkg := [] }
def Staged.empty : Staged := { vcore := [], clu := [], pkg := [] }

/-- The configuration before any record is read (R144). -/
def TaskCfg.fresh : TaskCfg := { ovf := 0, pool := 0, stkoff := 0, stksz := 0, ulog := 16, srkey := 0 }

/-- A partition never formed, every register at its reset value (R144, R184, R207, R231, R340, R424). DESIGN CHOICE (log 1): R177 does not say
what TGVT reads before a round has completed; there is no GVT then, which reads all ones. -/
def Part.fresh : Part :=
  { st := .absent, phase := .out_, dissolving := false, active := Remap.empty, staged := Staged.empty
    heldNums := Remap.empty, everRun := false, atbl := 0, tvec := 0, taskcfg := 0, tcfg := TaskCfg.fresh
    hgrp := Vector.replicate 16 0, uplog := 0, spbase := 0, spsize := 16384, poolFree := [], shadows := [], pmctl := 0
    gsmark := 0, gsmarkHeld := none, gsarea := 0, gscfg := 0, gsErr := 0, gsHardq := 0, gsLags := 0, gsSlices := 0
    tasks := [], floor := 0, gvt := none, round := none, nextRound := 0
    barriers := Vector.replicate 32 Barrier.fresh, inbox := [], outbox := [], mbRefused := 0, postAt := 0, outHeld := [], mbWait := []
    reinject := [] }

def WinterCopy.blank : WinterCopy := { version := 0, entries := [], sig1 := [], sig2 := [] }

/-- A package at READY with no unit retired (R455, R456, R461; log 4). DESIGN CHOICE (log 1): HCSTAT.ERR holds 0 before any command has
completed (R436 gives no reset value). -/
def Pkg.fresh : Pkg :=
  { ready := true, phase := 5, oos := 0, fwver := 0, retired := [], version := 0, copyA := WinterCopy.blank
    copyB := WinterCopy.blank, pendingRetire := [], fw0 := none, fw1 := none, fuseKey1 := [], fuseKey2 := []
    fwRun := none, fuseMin := 0, attKey1 := [], attKey2 := [], life := [], lifeBlock := [], lifeSig1 := [], lifeSig2 := [], lanesOff := [], cfgsel := 0, ltsel := 0, pwrcap := 2500, tmax := 0, power := 0
    heatSlow := List.replicate 4 false, capSlow := List.replicate 4 false, steps := [0, 0, 0, 0], minute := 0, hour := 0, hcarg0 := 0, hcarg1 := 0, hcarg2 := 0, hcerr := 0
    hcdone := 0, hcbusy := none, hcevt := 0, mbin := [], mbpres := [], route := [], outer := [], netcnt := [], lastFlit := [], downRouters := []
    report := [], hostRead := 0 }

/-- The device when READY is first set (R5, R455): one package in the domain (log 4), no partition formed, memory zero,
nothing in flight, and nothing scheduled by the environment. -/
def State.reset : State :=
  { clock := 0, mem := [], poison := [], dirty := [], openBytes := [], cores := [], clusters := []
    parts := Vector.replicate 16 Part.fresh, pkgs := [(0, Pkg.fresh)], jobs := [], etlbs := [], net := [], kept := [], outgoing := []
    pairs := [], homeWrites := [], replies := [], walks := [], invals := [], publishes := []
    cur := { core := { part := 0, pkg := 0, vc := 0 }, slot := 0 }, turn := 0, nextId := 1, fresh := 0, agenda := [] }

end Sys2Proof.Machine
end

