-- ==== Sys2Proof/Machine/Ops.lean ====
section
/-! DEFINITION. The named operations over memory, cores, contexts and partitions; the monad instructions run in; taking
a fault or trap and returning from one (18_traps.md R401, R402, R416); retiring an instruction. -/
namespace Sys2Proof.Machine

/-! ### Memory (R181, R182). An unlisted byte reads zero, as R455 phase 4 leaves it. -/

/-- The canonical form: addresses strictly rising, no zero listed. -/
def Memory.wf : List Host.Cell → Bool
  | [] => true
  | [(_, b)] => b != 0
  | (a, b) :: (a', b') :: r => b != 0 && decide (a < a') && Memory.wf ((a', b') :: r)

/-- One byte. -/
def Memory.read : List Host.Cell → Nat → Byte
  | [], _ => 0
  | (k, v) :: r, a => if a = k then v else if a < k then 0 else Memory.read r a

/-- Insert a nonzero byte, or remove the entry. -/
def Memory.write : List Host.Cell → Nat → Byte → List Host.Cell
  | [], a, b => if b = 0 then [] else [(a, b)]
  | (k, v) :: r, a, b =>
    if a < k then (if b = 0 then (k, v) :: r else (a, b) :: (k, v) :: r)
    else if a = k then (if b = 0 then r else (a, b) :: r)
    else (k, v) :: Memory.write r a b

/-- `n` bytes upward. -/
def Memory.readN (m : List Host.Cell) (a : Nat) : Nat → List Byte
  | 0 => []
  | n + 1 => Memory.read m a :: Memory.readN m (a + 1) n

/-- Bytes written upward. -/
def Memory.writeN (m : List Host.Cell) (a : Nat) : List Byte → List Host.Cell
  | [] => m
  | b :: r => Memory.writeN (Memory.write m a b) (a + 1) r

/-! ### Parts of the state -/

def State.core (s : State) (c : CoreId) : Core := amGet Core.fresh s.cores c.key
def State.setCore (s : State) (c : CoreId) (k : Core) : State := { s with cores := amSet s.cores c.key k }
def State.modCore (s : State) (c : CoreId) (f : Core → Core) : State := s.setCore c (f (s.core c))
def State.cluster (s : State) (u : CluId) : Cluster := amGet Cluster.fresh s.clusters u.key
def State.setCluster (s : State) (u : CluId) (k : Cluster) : State := { s with clusters := amSet s.clusters u.key k }
def State.modCluster (s : State) (u : CluId) (f : Cluster → Cluster) : State := s.setCluster u (f (s.cluster u))
def State.part (s : State) (p : Nat) : Part := s.parts.get (Fin.ofNat 16 p)
def State.setPart (s : State) (p : Nat) (x : Part) : State := { s with parts := s.parts.set (Fin.ofNat 16 p) x }
def State.modPart (s : State) (p : Nat) (f : Part → Part) : State := s.setPart p (f (s.part p))
def State.pkg (s : State) (g : Nat) : Pkg := amGet Pkg.fresh s.pkgs g
def State.setPkg (s : State) (g : Nat) (x : Pkg) : State := { s with pkgs := amSet s.pkgs g x }
def State.modPkg (s : State) (g : Nat) (f : Pkg → Pkg) : State := s.setPkg g (f (s.pkg g))

def Core.slot (k : Core) (n : Nat) : Slot := k.slots.get (Fin.ofNat 11 n)
def Core.setSlot (k : Core) (n : Nat) (x : Slot) : Core := { k with slots := k.slots.set (Fin.ofNat 11 n) x }
def State.slot (s : State) (c : CtxId) : Slot := (s.core c.core).slot c.slot
def State.setSlot (s : State) (c : CtxId) (x : Slot) : State := s.modCore c.core fun k => k.setSlot c.slot x
def State.modSlot (s : State) (c : CtxId) (f : Slot → Slot) : State := s.setSlot c (f (s.slot c))
/-- The live context of a slot. -/
def State.ctx? (s : State) (c : CtxId) : Option Ctx := (s.slot c).ctx
def State.putCtx (s : State) (c : CtxId) (x : Ctx) : State := s.modSlot c fun l => { l with ctx := some x }
/-- Change the live context of a slot, if there is one. -/
def State.modCtx (s : State) (c : CtxId) (f : Ctx → Ctx) : State :=
  match s.ctx? c with
  | some x => s.putCtx c (f x)
  | none => s

/-- Every slot of a core. -/
def slotsOf (c : CoreId) : List CtxId := (List.range 11).map fun n => { core := c, slot := n }
/-- The cores that hold state. -/
def State.coreIds (s : State) : List CoreId := s.cores.map fun p => coreOfKey p.1
/-- Every slot that holds a context, in order of core and slot. -/
def State.ctxIds (s : State) : List CtxId :=
  s.coreIds.flatMap fun c => (slotsOf c).filter fun x => (s.ctx? x).isSome

/-- GTIME in nanoseconds (R11). DESIGN CHOICE (log 136): one clock serves every package of the domain, so the skew R11 allows between
packages, up to 4 ns, is 0. -/
def State.gtime (s : State) : Nat := s.clock / Config.ccPerNs % 2 ^ 64

/-- A free doubleword (log 8). -/
def State.freeWord (s : State) : Word × State := (Config.freeWord s.fresh, { s with fresh := s.fresh + 1 })
/-- Free bytes (log 8). -/
def State.freeBytes (s : State) : Nat → List Byte × State
  | 0 => ([], s)
  | n + 1 =>
    let (r, s') := State.freeBytes { s with fresh := s.fresh + 1 } n
    (Config.freeByte s.fresh :: r, s')

/-- A new number for a message, job, task or walk. -/
def State.newId (s : State) : Nat × State := (s.nextId, { s with nextId := s.nextId + 1 })

/-! ### Partitions under their active remap tables (R422) -/

def State.hasPkg (s : State) (p g : Nat) : Bool := (amGet? (s.part p).active.pkg g).isSome
def State.hasVc (s : State) (p v : Nat) : Bool := (amGet? (s.part p).active.vcore v).isSome
/-- A virtual core of the partition. -/
def State.hasCore (s : State) (c : CoreId) : Bool := s.hasPkg c.part c.pkg && s.hasVc c.part c.vc
/-- The partition's cores, ascending by package and vcore. -/
def State.partCores (s : State) (p : Nat) : List CoreId :=
  let a := (s.part p).active
  a.pkg.flatMap fun g => a.vcore.map fun v => { part := p, pkg := g.1, vc := v.1 }
/-- The partition's clusters. -/
def State.partClus (s : State) (p : Nat) : List CluId :=
  let a := (s.part p).active
  a.pkg.flatMap fun g => a.clu.map fun v => { part := p, pkg := g.1, clu := v.1 }
/-- The cluster is part of the partition (R357). -/
def State.hasClu (s : State) (u : CluId) : Bool :=
  s.hasPkg u.part u.pkg && (amGet? (s.part u.part).active.clu u.clu).isSome
/-- Cores of a cluster in increasing order. -/
def State.cluCores (s : State) (u : CluId) : List CoreId :=
  ((s.part u.part).active.vcore.filter fun v => v.1 / 8 == u.clu).map fun v => { part := u.part, pkg := u.pkg, vc := v.1 }
/-- The logical package and logical core a virtual core stands on. -/
def State.logPkg (s : State) (p g : Nat) : Nat := amGet 0 (s.part p).active.pkg g
def State.logCore (s : State) (c : CoreId) : Nat := amGet 0 (s.part c.part).active.vcore c.vc
/-- The logical cluster a virtual cluster stands on (R22, R422). -/
def State.logClu (s : State) (u : CluId) : Nat := amGet 0 (s.part u.part).active.clu u.clu

/-- The retired units of one kind (R448). -/
def Pkg.retiredOf (k : Pkg) (kind : Nat) : List Nat :=
  (k.retired.filter fun e => fld e 60 4 == kind).map fun e => fld e 40 16
/-- A physical core is live: neither retired nor with a retired bank (R449). -/
def Pkg.coreLive (k : Pkg) (phys : Nat) : Bool :=
  !(k.retiredOf 0).contains phys && !((k.retiredOf 1).map (· / 16)).contains phys
/-- The physical core of a logical number (R22). -/
def Pkg.physCore (k : Pkg) (l : Nat) : Nat :=
  if (k.retiredOf 0).isEmpty && (k.retiredOf 1).isEmpty then l
  else ((below 2048 k.coreLive)[l]?).getD 0
/-- The live cores counted (R452). -/
def Pkg.liveCores (k : Pkg) : Nat :=
  if (k.retiredOf 0).isEmpty && (k.retiredOf 1).isEmpty then 2048 else (below 2048 k.coreLive).length
/-- A channel is live: neither retired nor fronted by a retired slice (R449, R18). -/
def Pkg.chanLive (k : Pkg) (ch : Nat) : Bool :=
  !(k.retiredOf 3).contains ch &&
  !(k.retiredOf 2).any fun u =>
    let die := u / 64
    let row := u % 64 / 32
    let col := u % 32
    let stack := 4 * die + 2 * row + col / 16
    ch == stack * 32 + 2 * (col % 16) || ch == stack * 32 + 2 * (col % 16) + 1
/-- Live channels counted (R450). -/
def Pkg.liveChans (k : Pkg) : Nat :=
  if (k.retiredOf 2).isEmpty && (k.retiredOf 3).isEmpty then 512 else (below 512 k.chanLive).length
/-- The top of the HBM range: F * 0x8_0000 with F = 3,072 L (R450). -/
def Pkg.hbmTop (k : Pkg) : Nat := 3072 * k.liveChans * 0x80000

/-- The physical core of a virtual core. -/
def State.physCore (s : State) (c : CoreId) : Nat := (s.pkg (s.logPkg c.part c.pkg)).physCore (s.logCore c)
/-- The die of a virtual core (R21). -/
def State.dieOf (s : State) (c : CoreId) : Nat := s.physCore c / 512
/-- The edges a die's core clock has in 4 ns at a step (R459). -/
def edgesAt (step : Nat) : Nat := 16 - min 12 step
/-- The clock of the n-th edge after the latest, of a clock with `f` edges in 4 ns. -/
def edgeAfter (f clock n : Nat) : Nat := (16 * (clock * f / 16 + n) + f - 1) / f
/-- The edges in 4 ns of a core's clock (R459). -/
def State.edges (s : State) (c : CoreId) : Nat := edgesAt ((s.pkg (s.logPkg c.part c.pkg)).steps.getD (s.dieOf c) 0)
/-- The clock `n` cc of a core from now (R92, R459). -/
def State.ccAfter (s : State) (c : CoreId) (n : Nat) : Nat := edgeAfter (s.edges c) s.clock n
/-- The first clock from now at which a cc of a core begins (R459). -/
def State.ccEdge (s : State) (c : CoreId) : Nat := if s.ccAfter c 0 = s.clock then s.clock else s.ccAfter c 1
/-- A clock to come, as many cc from now when its core's clock changes from `f` to `g` edges in 4 ns (R459). -/
def reclock (f g clock d : Nat) : Nat := if d ≤ clock then d else edgeAfter g clock (d * f / 16 - clock * f / 16)
/-- The physical address of a byte of a core store (R182). -/
def State.storePa (s : State) (c : CoreId) (off : Nat) : Nat :=
  s.logPkg c.part c.pkg * 2 ^ 46 + 0x100000000000 + s.logCore c * 2 ^ 20 + off

/-- The partition runs in its slice. -/
def Part.live (p : Part) : Bool := p.st == .running && p.phase == .inSlice

/-- The partition is on its cores: in its slice, or stopped at a mark and draining (R426). -/
def Part.onCores (p : Part) : Bool := p.st == .running && (match p.phase with | .inSlice => true | .stopping _ _ _ => true | _ => false)

/-- The partition is on a chip: in its slice, or stopping there and not yet reported or forced (R426, R428). -/
def Part.onChip (p : Part) (g : Nat) : Bool :=
  p.st == .running && (match p.phase with | .inSlice => true | .stopping _ left _ => left.contains g | _ => false)

/-- ULOG in force (R144). -/
def State.logBase (s : State) (p : Nat) : Nat := 0x100000 - 10 * (s.part p).tcfg.ulog * 1024
/-- The effective L2 size (R187). -/
def State.eff (s : State) (c : CoreId) : Nat := min (s.core c).l2size (min 12 (s.logBase c.part / 65536))
/-- Where the L2 slice starts, the top of local memory (R186). -/
def State.l2Base (s : State) (c : CoreId) : Nat := s.logBase c.part - s.eff c * 65536

/-- Whether a slot's context counts as light (R120). -/
def Ctx.light (c : Ctx) : Bool := c.grant == 0 && c.streams.all (·.isNone) && c.priv == .program
/-- Whether a context may migrate (R121). -/
def Ctx.movable (c : Ctx) : Bool := c.light && !c.pin && (c.kind == .held || c.kind == .guest) && !c.inh

/-- The task a context runs. -/
def State.task? (s : State) (p : Nat) (t : Option Nat) : Option Task := t.bind fun id => (s.part p).tasks.find? (·.id == id)
/-- The context runs a speculative task (R153 preamble). -/
def State.speculative (s : State) (p : Nat) (c : Ctx) : Bool :=
  match s.task? p c.task with
  | some t => !t.settled
  | none => false
/-- Change a task. -/
def State.modTask (s : State) (p id : Nat) (f : Task → Task) : State :=
  s.modPart p fun q => { q with tasks := q.tasks.map fun t => if t.id == id then f t else t }

/-! ### The fields of the state word and TSTAT -/

def Priv.code : Priv → Nat | .program => 0 | .supervisor => 1 | .firmware => 2
def Priv.ofCode : Nat → Priv | 0 => .program | 1 => .supervisor | _ => .firmware
def CtxKind.code : CtxKind → Nat | .control => 0 | .held => 1 | .lent => 2 | .guest => 3
def SlotState.code : SlotState → Nat
  | .free => 0 | .held => 1 | .away => 2 | .reserved => 3 | .guest => 4 | .lent => 5 | .recall => 6

/-- A context starting with every register zero (R132, R152, R437). -/
def Ctx.blank (core : CoreId) (slot : Nat) (kind : CtxKind) : Ctx :=
  { regs := Vector.replicate 32 0, pc := 0, priv := .program, kind := kind, pin := false, wakep := false
    opkg := core.pkg, ovc := core.vc, oslot := slot, fflags := 0, frm := 0, srkey := 0, srctr := 0, swst := false
    rah := true, thresh := 0, remCount := 0, remHome := none, tcause := 0, tval := 0, epc := 0, tsave0 := 0
    tsave1 := 0, late := false, heldBit := false, epriv := 0, inh := false, qhvec := 0, qhpc := 0, qhval := 0
    mxPushed := 0, mxRefSeq := 0, mxRefCnt := 0, mxReason := 0, mxOut := 0, barPend := false, barNo := 0, lastv := 0
    mixed := false, barId := 0, released := none, waitBar := none, jobCtr := 1, jobs := [], streams := Vector.replicate 8 none, grant := 0
    vregs := Vector.replicate 64 0, vtags := Vector.replicate 64 { flags := 0, first := none, rnd := 0 }, task := none
    parked := none, faultWaits := false, haltReq := false, tried := [], parkDone := none, out := [], windows := [], accCtr := 0, icount := 0
    ldAfterLd := 0, ldAfterAll := 0, stAfterLd := 0, stAfterAll := 0, allAfter := 0
    trackers := [], heldFault := none, heldHalt := none, leaving := none, moving := none
    yielded := false, stepOne := false, publ := none, publCount := 0, reads := [], posted := none, lat := [], vlat := [], nextAt := 0 }

/-- A scalar register; s0 reads zero (R50). -/
def Ctx.reg (c : Ctx) (r : Reg) : Word := if r = 0 then 0 else c.regs.get r
/-- Write a scalar register; a write to s0 is discarded (R7). -/
def Ctx.setReg (c : Ctx) (r : Reg) (v : Word) : Ctx := if r = 0 then c else { c with regs := c.regs.set r v }

/-! ### Faults, traps and halts -/

/-- TCAUSE codes (R399). -/
def cAlign : Nat := 0x01
def cIllegal : Nat := 0x02
def cPriv : Nat := 0x03
def cBreach : Nat := 0x04
def cAccess : Nat := 0x05
def cWindow : Nat := 0x06
def cMemErr : Nat := 0x07
def cReplica : Nat := 0x08
def cTrap : Nat := 0x09
def cContext : Nat := 0x0A
def cGrant : Nat := 0x0B
def cStream : Nat := 0x0C
def cFibre : Nat := 0x0D
def cBarrier : Nat := 0x0E
def cBreak : Nat := 0x0F
def cPage : Nat := 0x10
def cProt : Nat := 0x11
def cTable : Nat := 0x12
def cJournal : Nat := 0x14
def cLink : Nat := 0x15
def cAbsent : Nat := 0x16
def cLogFull : Nat := 0x17

/-- A park that has not completed executes afresh, and a wake that had ended it is kept (R127). -/
def Ctx.unpark (x : Ctx) : Ctx :=
  { x with parked := none, parkDone := none, wakep := x.wakep || x.parkDone == some true }

/-- The waiter is the context of a slot. -/
def Waiter.ofCtx (b : Waiter) (c : CtxId) : Bool := match b with | .ctx d _ => d == c | _ => false
/-- Some waiters give up their walks; a walk nobody waits for ends once no read of it is under way (R237). -/
def State.leaveWalks (s : State) (gone : Waiter → Bool) : State :=
  { s with walks := (s.walks.map fun (w : Walk) => { w with by_ := w.by_.filter fun b => !gone b }).filter fun w => w.asked || !w.by_.isEmpty }

/-- Halt a slot with a REASON (R408); a park executes afresh on return (R127), a resume for one instruction is over (R411), and what a walk finds
for the instruction it stands at is walked for again (R235). -/
def State.halt (s : State) (c : CtxId) (reason : Nat) : State :=
  (s.leaveWalks fun b => b.ofCtx c).modSlot c fun l => { l with halted := true, reason := reason, ctx := l.ctx.map fun x => { x.unpark with stepOne := false, haltReq := false } }

/-- The context of a slot is gone: its walks are forgotten (R116). -/
def State.vacate (s : State) (c : CtxId) (next : SlotState) : State :=
  (s.leaveWalks fun b => b.ofCtx c).modCore c.core fun k =>
    k.setSlot c.slot { k.slot c.slot with ctx := none, halted := false, killSent := (k.slot c.slot).killSent && next == .away, state := next }

/-- The number that marks a context as the pusher of an ACCST, wherever it runs (R230, R322): its origin. -/
def Ctx.owner (x : Ctx) : Nat := 1 + x.oslot + 16 * x.ovc + 2 ^ 15 * x.opkg
/-- A context ends: no MXWAIT will cover what it pushed (R230, log 25). -/
def State.endOwner (s : State) (p : Nat) (x : Ctx) : State :=
  { s with cores := s.cores.map fun (i, (k : Core)) =>
      (i, if (coreOfKey i).part == p && !k.early.isEmpty then
        { k with early := k.early.map fun e => if e.1 == x.owner then (0, e.2) else e } else k) }

/-- Set an event of a partition in every package it runs on (R438). -/
def State.tell (s : State) (p bit : Nat) : State :=
  (s.part p).active.pkg.foldl (fun s g => s.modPkg g.2 fun k => { k with hcevt := k.hcevt ||| (1 <<< (bit + p)) }) s
/-- The HALT event (R402, R438). -/
def State.tellHalt (s : State) (p : Nat) : State := s.tell p 0

/-- Entry into the handler for a fault or trap (R401): the saved registers, the level and the new PC. -/
def Ctx.enter (x : Ctx) (tvec : Word) (async : Bool) (cause : Nat) (tval epc : Word) (held late : Bool) : Ctx :=
  let y := x.unpark
  { y with
    epc := epc, tcause := (if async then 1#64 <<< 63 else 0) ||| wd cause, tval := tval
    epriv := x.priv.code, inh := true, heldBit := held, late := late
    priv := if x.priv = .firmware then .firmware else .supervisor
    pc := tvec, windows := [], faultWaits := false, tried := [] }

/-- Take an exact fault or an asynchronous trap in a context that is neither speculative nor awaiting results (R401,
R402): entry, or the double-fault halt. With STEP set the context halts after entry (R410), and so it does where a halt was asked for while
the fault waited for results (R420). -/
def State.takeTrap (s : State) (c : CtxId) (x : Ctx) (async : Bool) (cause : Nat) (tval epc : Word)
    (held late : Bool) : State :=
  let tvec := (s.part c.core.part).tvec
  if x.inh || tvec == 0 then ((s.putCtx c x).halt c 4).tellHalt c.core.part
  else
    let s := (s.leaveWalks fun b => b.ofCtx c).putCtx c (x.enter tvec async cause tval epc held late)
    if !async && ((s.slot c).step || x.stepOne) then s.halt c 1 else if x.haltReq then s.halt c 3 else s

/-- Some result of the context is still to be written (R401 step 1). -/
def Ctx.resultsOut (x : Ctx) : Bool := x.out.any fun a => a.loadLike && a.dest != .none

/-- What an instruction that faults gives up: the answers to its reads, and what its walks have read (R277). -/
def Ctx.giveUp (x : Ctx) : Ctx :=
  { x with reads := [], posted := none, faultWaits := false, tried := [], moving := x.moving.filter fun m => !m.answered || m.slot.isSome, streams := x.streams.map fun t => t.map fun t => { t with stA := none, stB := none } }

/-- A fault of the context's next instruction waits for its results (R401). -/
def State.faultWaits (s : State) (c : CtxId) : State := s.modCtx c fun x => { x with faultWaits := true }

/-- An exact fault of the context's next instruction: held in a speculative task (R167), taken once every result is
written (R401). TRAP saves its PC + 4. -/
def State.takeFault (s : State) (c : CtxId) (x : Ctx) (cause : Nat) (tval : Word) : State :=
  if x.resultsOut && !s.speculative c.core.part x then s.faultWaits c
  else
  let x := x.giveUp
  if s.speculative c.core.part x then
    s.putCtx c { x with heldFault := some (cause, tval, if cause = cTrap then x.pc + 4 else x.pc, false) }
  else s.takeTrap c x false cause tval (if cause = cTrap then x.pc + 4 else x.pc) false false

/-- ERET's effect (R416). A BSYNC or BRED that had arrived and waited is over where the context does not return to it (R395). -/
def Ctx.eret (x : Ctx) : Ctx := { x with pc := x.epc, priv := Priv.ofCode x.epriv, inh := false, waitBar := x.waitBar.filter (· == x.epc) }

/-! ### The monad of the instructions -/

/-- Why an instruction does not complete in this attempt: a fault (with the state its accesses leave); its context is not ready; a
translation must be walked first; it waits, leaving behind what its accesses did, or only a change of the state it began in; it
has completed in a state of its own making. -/
inductive Stop where
  | fault (cause : Nat) (tval : Word)
  | faultIn (s : State) (cause : Nat) (tval : Word)
  | wait
  | walk (u : CluId) (asid va : Nat)
  | waitIn (s : State)
  | leave (f : State → State)
  | done (s : State)

/-- An instruction in execution: the state, the issuing context, and the PC that follows. -/
structure Ex where
  st : State
  cx : Ctx
  next : Word
  before : Vector (Option Stream) 8   -- the bindings before the instruction
  popped : List (Fin 4 × List (Bool × Word)) := []   -- words it has popped from neighbour queues

/-- Instruction bodies. -/
abbrev M := StateT Ex (Except Stop)

def raise {α : Type} (cause : Nat) (tval : Word) : M α := throw (.fault cause tval)
def stall {α : Type} : M α := throw .wait
def waitUnless (b : Bool) : M Unit := if b then pure () else stall
def faultIf (b : Bool) (cause : Nat) (tval : Word) : M Unit := if b then raise cause tval else pure ()
def st : M State := do return (← get).st
def cx : M Ctx := do return (← get).cx
def modSt (f : State → State) : M Unit := modify fun e => { e with st := f e.st }
def modCx (f : Ctx → Ctx) : M Unit := modify fun e => { e with cx := f e.cx }
/-- The state with the issuing context put back. -/
def Ex.flush (e : Ex) : State := e.st.putCtx e.st.cur e.cx
/-- Where the issuing context runs. -/
def me : M CtxId := do return (← st).cur
def jump (pc : Word) : M Unit := modify fun e => { e with next := pc }
/-- A taken branch, CALL or JMPR: the context's next instruction issues two cc after it (R92). -/
def branchTo (pc : Word) : M Unit := modify fun e => { e with next := pc, cx := { e.cx with nextAt := e.st.ccAfter e.st.cur.core 2 } }
/-- A result in a scalar register that the context's instructions may use from a clock on (R92). -/
def Ctx.slow (x : Ctx) (now : Nat) (d : Reg) (at_ : Nat) : Ctx :=
  if d = 0 then x else { x with lat := (d, at_) :: x.lat.filter fun e => e.1 != d && decide (now < e.2) }
/-- Run an operation that works on a whole state in which the issuing context stands in its place. -/
def onState (f : State → State) : M Unit := modify fun e =>
  let s := f e.flush
  { e with st := s, cx := (s.ctx? s.cur).getD e.cx }

/-- An instruction of the context is over: the PC moves on, and lookahead windows count down (R29). -/
def Ctx.retired (x : Ctx) (pc : Word) : Ctx :=
  { x with
    pc := pc
    windows := (x.windows.map fun w => if w.acc ≥ x.icount + 1 then w else { w with left := w.left - 1 }).filter fun w => w.left != 0
    icount := x.icount + 1
    reads := []
    posted := none
    moving := none
    faultWaits := false
    tried := []
    stepOne := false }

/-- Retiring (R90); STEP halts (R410). -/
def Ex.retire (e : Ex) : State :=
  let s := e.st.putCtx e.st.cur (e.cx.retired e.next)
  if (s.slot s.cur).step || e.cx.stepOne then s.halt s.cur 1 else if e.cx.haltReq then s.halt s.cur 3 else s

/-- A miss joins the walk of its page under way, or is queued after those that arrived before it (R237). -/
def State.startWalk (s : State) (u : CluId) (core : CoreId) (asid va : Nat) (who : Waiter) : State :=
  let same (w : Walk) : Bool := w.clu == u && w.asid == asid && w.va / 2 ^ 19 == va / 2 ^ 19 && w.done.isNone
  if s.walks.any same then
    { s with walks := s.walks.map fun w => if same w && !w.by_.contains who then { w with by_ := who :: w.by_ } else w }
  else
    let (id, s) := s.newId
    let root := fld (s.part u.part).atbl 12 36 * 2 ^ 16
    { s with walks := s.walks ++
        [{ id := id, clu := u, core := core, asid := asid, va := va, root := root, lvl := 0, table := root
           asked := false, done := none, by_ := [who] }] }

/-- What an instruction that does not complete has not done: the neighbour queues stand as they stood, it has popped nothing (R90, R273), and its
task has performed nothing that waits to settle (R175). -/
def State.undoPops (s' s : State) : State :=
  let s' := s'.modCore s.cur.core fun k => { k with nbrq := (s.core s.cur.core).nbrq }
  match s.task? s.cur.core.part ((s.ctx? s.cur).bind (·.task)) with
  | some t => s'.modTask s.cur.core.part t.id fun u => { u with waitedOp := t.waitedOp }
  | none => s'

/-- Run an instruction word of the current context. -/
def runWord (body : M Unit) (s : State) : Host.Outcome State Fault Refusal :=
  match s.ctx? s.cur with
  | none => .fault .noContext
  | some x =>
    match body.run { st := s, cx := x, next := x.pc + 4, before := x.streams } with
    | .ok (_, e) => .next e.retire
    | .error (.fault cause tval) => .next (s.takeFault s.cur x cause tval)
    | .error (.faultIn s' cause tval) =>
      -- a fault still awaiting results is not yet taken: the attempt is made again
      if x.resultsOut && !s.speculative s.cur.core.part x then .next (s.faultWaits s.cur)
      else .next ((s'.undoPops s).takeFault s.cur x cause tval)
    | .error .wait => .next s
    | .error (.walk u asid va) => .next (s.startWalk u s.cur.core asid va (.ctx s.cur x.icount))
    | .error (.leave f) => .next (f s)
    | .error (.waitIn s') => .next ((s'.undoPops s).putCtx s.cur x)
    | .error (.done s') => .next s'

/-- Run a step of the device: total, and without effect where it is not enabled. -/
def runEvent (f : State → State) (s : State) : Host.Outcome State Fault Refusal := .next (f s)

/-- A step of a partition's: there are 16 (R421). -/
def runPart (p : Nat) (f : State → State) (s : State) : Host.Outcome State Fault Refusal := .next (if p < 16 then f s else s)

/-- The word of an instruction as TVAL reports it (R32). -/
def wordOf (i : Instr) : Word := wd ((encode i).getD 0)

/-- The level check of R32 and R33. -/
def needPriv (p : Priv) (i : Instr) : M Unit := do
  faultIf (decide ((← cx).priv.code < p.code)) cPriv (wordOf i)

end Sys2Proof.Machine
end

