-- ==== Sys2Proof/Machine/Net.lean ====
section
/-! DEFINITION. Sending packets and keeping the pairs of R374 (16_network.md). -/
namespace Sys2Proof.Machine

/-- The state of a pair (R374). -/
def State.pair (s : State) (part : Nat) (src dst : Agent) (cls : Nat) : PairSt :=
  (s.pairs.find? fun p => p.part == part && p.src == src && p.dst == dst && p.cls == cls).getD
    { part := part, src := src, dst := dst, cls := cls, nextSeq := 0, nextDel := 0, marked := 0, lastSent := 0, link := 0
      interval := 64, lastReq := 0, waiting := [] }

/-- A sequence number counts modulo 2^16 (R373, R374). -/
def seqMod : Nat := 65536
/-- The next sequence number. -/
def seqNext (a : Nat) : Nat := (a + 1) % seqMod
/-- `a` comes before `b` in the count modulo 2^16. -/
def seqBefore (a b : Nat) : Bool := a % seqMod != b % seqMod && decide ((b % seqMod + seqMod - a % seqMod) % seqMod < seqMod / 2)

/-- Replace the state of a pair. -/
def State.setPair (s : State) (p : PairSt) : State :=
  { s with pairs := p :: s.pairs.filter fun q => !(q.part == p.part && q.src == p.src && q.dst == p.dst && q.cls == p.cls) }

/-- The delivery mark a packet carries for the reverse direction of its pair (R377), the PSEQ of the last packet delivered whole, which
is then known at its destination. -/
def State.takeMark (s : State) (part : Nat) (src dst : Agent) (cls : Nat) : Nat × State :=
  let r := s.pair part dst src cls
  ((r.nextDel + seqMod - 1) % seqMod, if r.marked != r.nextDel then s.setPair { r with marked := r.nextDel } else s)

/-- The logical package of an agent. -/
def State.agentPkg (s : State) : Agent → Nat
  | .core c => s.logPkg c.part c.pkg
  | .task u | .ring u | .barrier u => s.logPkg u.part u.pkg
  | .llc g _ | .engine g _ | .io g | .link g _ => g

/-- Bytes an agent's retransmit store holds (R377). -/
def State.keptBytes (s : State) (a : Agent) : Nat := ((s.kept.filter fun k => k.src == a).map fun k => 64 * (k.len + 1)).foldl (· + ·) 0
/-- Capacity of a retransmit store (R377). Agents without one never send data-bearing packets. -/
def Agent.store : Agent → Nat | .core _ => 65536 | .llc _ _ => 262144 | .engine _ _ => 524288 | _ => 65536
/-- The agent can send a packet of some payload (R377). -/
def State.canSend (s : State) (a dst : Agent) (len : Nat) : Bool := len == 0 || a == dst || s.keptBytes a + 64 * (len + 1) ≤ a.store

/-- Inject a packet (R374, R377, R380): it flies with the next PSEQ of its pair, a data-bearing packet leaves a copy in the retransmit store,
and a request to another package starts its end-to-end timer. -/
def State.inject (s : State) (k : Packet) : State :=
  let (mark, s) := s.takeMark k.part k.src k.dst k.cls
  let p := s.pair k.part k.src k.dst k.cls
  let k := { k with pseq := p.nextSeq, dmark := mark, stage := .flying, at_ := s.clock }
  let s := s.setPair { p with nextSeq := seqNext p.nextSeq, lastSent := s.clock }
  { s with net := s.net ++ [k], kept := if k.len > 0 then s.kept ++ [k] else s.kept
           outgoing := if k.cls == 0 && s.agentPkg k.src != s.agentPkg k.dst then s.outgoing ++ [{ pkt := k, timer := s.clock, link := p.link, tries := [] }]
             else s.outgoing }

/-- Send a message (R371, R374, R377): to an agent of the own core it is delivered at once; otherwise it is injected, a data-bearing packet once
its sender's retransmit store has room for the copy. -/
def State.send (s : State) (part cls : Nat) (src dst : Agent) (len : Nat) (msg : Msg) : State :=
  let (id, s) := s.newId
  let k : Packet := { id := id, part := part, cls := cls, src := src, dst := dst, pseq := 0, len := len, trim := false, retx := false, tcnt := 0
                      dmark := 0, stage := .ready, at_ := s.clock, judged := none, msg := msg }
  if src == dst then { s with net := s.net ++ [k] }
  else if s.canSend src dst len then s.inject k
  else { s with net := s.net ++ [{ k with stage := .unsent }] }

/-- The packet with a number. -/
def State.pkt? (s : State) (id : Nat) : Option Packet := s.net.find? (·.id == id)
/-- Remove a packet. -/
def State.dropPkt (s : State) (id : Nat) : State := { s with net := s.net.filter (·.id != id) }
/-- Packets that have waited for room in an agent's retransmit store are injected, oldest first (R377). -/
def State.injectUnsent (s : State) (a : Agent) : State :=
  (s.net.filter fun k => k.stage == .unsent && k.src == a).foldl (fun s k =>
    if s.canSend k.src k.dst k.len then (s.dropPkt k.id).inject k else s) s
/-- Change a packet. -/
def State.modPkt (s : State) (id : Nat) (f : Packet → Packet) : State :=
  { s with net := s.net.map fun k => if k.id == id then f k else k }

/-- A delivered packet that the agent performs next (R375): no earlier packet of its pair precedes it, and, of a request, no write of its pair
is still under way at the agent. -/
def State.deliverable (s : State) (id : Nat) : Option Packet :=
  match s.pkt? id with
  | some k =>
    let first := s.net.find? fun q => q.part == k.part && q.cls == k.cls && q.src == k.src && q.dst == k.dst && q.stage == .ready
    let staged := k.cls == 0 && s.homeWrites.any fun h => h.pkt.part == k.part && h.pkt.src == k.src && h.pkt.dst == k.dst
    if k.stage == .ready && !staged && (k.cls == 2 || (first.map (·.id)) == some id) then some k else none
  | none => none

end Sys2Proof.Machine
end

