-- ==== Sys2Proof/Machine/Virtual.lean ====
section
/-! DEFINITION. Virtual time below the instructions (06_virtual_time.md): precedence, filters, conflicts, undo records,
abort and commit. -/
namespace Sys2Proof.Machine

/-- The enqueue tag (R142 test 4). -/
def Task.tag (t : Task) : List Nat := [t.tagNs, t.tagPkg, t.tagVc, t.tagSlot, t.tagOrd]
/-- P precedes Q (R142): chains, then tags. -/
def Task.precedes (p q : Task) : Bool :=
  if p.chain = q.chain then lexLt p.tag q.tag else lexLt p.chain q.chain
/-- The task is unfinished: one whose abort waits is to be queued again (R161). -/
def Task.unfinished (t : Task) : Bool := t.st != .finished || t.aborting.isSome
/-- Depth of a task (R141). -/
def Task.depth (t : Task) : Nat := t.chain.length

/-- The bits a sector sets in a filter (R154). -/
def filterBits (pa : Nat) : List Nat :=
  let p := pa / 128
  (List.range 4).map fun i => mixN (p + i * 0x9E3779B97F4A7C15) % 2048
/-- Add a sector to a filter (R154). -/
def filterAdd (f : BitVec 2048) (pa : Nat) : BitVec 2048 :=
  (filterBits pa).foldl (fun f b => f ||| (1#2048 <<< b)) f
/-- A filter holds a sector (R154). -/
def filterHas (f : BitVec 2048) (pa : Nat) : Bool := (filterBits pa).all fun b => f.getLsbD b

/-- The sectors of an access. -/
def sectorsOf (pa n : Nat) : List Nat :=
  if n = 0 then [] else (List.range ((pa + n - 1) / 128 - pa / 128 + 1)).map fun i => (pa / 128 + i) * 128

/-- Counter `i` of a cluster's task unit (R176: 16 + i for i below 7, 7 for code 25). -/
def State.bump (s : State) (u : CluId) (i n : Nat) : State :=
  s.modCluster u fun k => { k with counters := k.counters.set i (((k.counters[i]?).getD 0 + n) % 2 ^ 64) }

/-- Add to a lifetime record, which never wraps (R453). -/
def State.lifeAdd (s : State) (pkg set_ ix n : Nat) : State :=
  s.modPkg pkg fun k => let key := set_ * 2 ^ 15 + ix; { k with life := amSet k.life key (min (2 ^ 64 - 1) (amGet 0 k.life key + n)) }

/-- Physical cluster of a virtual cluster (R21). -/
def State.physClu (s : State) (u : CluId) : Nat :=
  match s.cluCores u with
  | c :: _ => let p := s.physCore c; p / 512 * 64 + (p / 64 % 8) * 8 + p % 32 / 4
  | [] => 0

/-- Return a shadow's frame to the pool and forget it (R342). -/
def State.discardShadow (s : State) (p name : Nat) : State :=
  s.modPart p fun q =>
    { q with poolFree := q.poolFree ++ (q.shadows.filter (·.name == name)).map (·.frame)
             shadows := q.shadows.filter (·.name != name) }

/-- Empty a slot whose task ends: grant and bindings go, LENT stays, RECALL turns FREE (R116, R250, R269, R409). -/
def State.clearTaskSlot (s : State) (c : CtxId) : State :=
  let t := match s.ctx? c with | some x => s.endOwner c.core.part x | none => s
  t.vacate c (if (s.slot c).state = .recall then .free else (s.slot c).state)

/-- The task has a copy job of its own (R166). -/
def Job.ofTask (j : Job) (p id : Nat) : Bool := j.task == some id && j.issuer.core.part == p
/-- Some access the task sent is not answered yet, its jobs' among them (R159). -/
def State.taskBusy (s : State) (p : Nat) (t : Task) : Bool :=
  (match t.place.bind s.ctx? with
    | some x => x.task == some t.id && x.out.any fun a => a.got.isNone && a.err.isNone
    | none => false) ||
  s.jobs.any fun j => j.ofTask p t.id && ((j.sent.any (·.cause.isNone)) || j.reads.any fun r => r.bytes.isNone && r.cause.isNone)

/-- The jobs of an aborted task and their scoreboard entries go (R166, R195). -/
def State.dropTaskJobs (s : State) (p id : Nat) : State :=
  let gone := (s.jobs.filter (·.ofTask p id)).map (·.id)
  if gone.isEmpty then s
  else { s with jobs := s.jobs.filter fun j => !gone.contains j.id
                cores := s.cores.map fun (k, (c : Core)) => (k, { c with sboard := c.sboard.filter fun e => !gone.contains e.1 }) }

/-- Free the undo records of a task: their live bits clear (R155). -/
def State.freeLog (s : State) (t : Task) : State :=
  t.undo.foldl (fun s r => { s with mem := Memory.write s.mem r.2.1 (Memory.read s.mem r.2.1 &&& 0xFE) }) s

/-- The tasks the abort of a task aborts first (R159): those that follow it and hold a sector it restores, and its children. -/
def State.dragged (s : State) (p : Nat) (t : Task) : List Task :=
  (s.part p).tasks.filter fun u => u.id != t.id && !u.settled &&
    ((t.precedes u && t.undo.any fun r => filterHas u.rfilter r.1 || filterHas u.wfilter r.1) || (u.parent == some t.id && u.dispatched))

/-- Every task an abort reaches, itself the first. -/
def abortSet (s : State) (p : Nat) : Nat → List Nat → List Nat → List Nat
  | 0, _, seen => seen
  | _, [], seen => seen
  | fuel + 1, id :: todo, seen =>
    if seen.contains id then abortSet s p fuel todo seen
    else
      let more := match s.task? p (some id) with
        | some t => (s.dragged p t).map (·.id)
        | none => []
      abortSet s p fuel (todo ++ more) (seen ++ [id])

/-- The tasks the abort of a task reaches (R159). -/
def State.abortSetOf (s : State) (p id : Nat) : List Nat :=
  let n := (s.part p).tasks.length
  abortSet s p ((n + 1) * (n + 1)) [id] []

/-- Every access that the abort of a task must wait for has been performed and answered (R159). -/
def State.mayAbort (s : State) (p id : Nat) : Bool :=
  (s.abortSetOf p id).all fun i => match s.task? p (some i) with
    | some t => !s.taskBusy p t
    | none => true

/-- How an abort that another abort brings is counted. DEDUCED (log 119): R176 gives one count to the aborts the commit queue and a
Solstice mark bring; the restores of any other abort are writes that conflict. -/
def AbortWhy.next : AbortWhy → AbortWhy
  | .capacity => .capacity
  | _ => .conflict

/-- Stop a task whose abort must wait, and the tasks it reaches (R159). `self` is false for a TABORT, whose own task has stopped. -/
def State.stopTask (s : State) (why : AbortWhy) (self : Bool) (p id : Nat) : State :=
  let l := s.abortSetOf p id
  let stop (t : Task) : Task :=
    if l.contains t.id && t.aborting.isNone && (self || (t.id != id)) then
      { t with aborting := some (if t.id = id then why else why.next) }
    else t
  s.modPart p fun q => { q with tasks := q.tasks.map stop }

/-- Abort of a task none of whose accesses is in flight (R159, R160): the tasks that hold a sector it restores go first, its children are
aborted and discarded, its slot is emptied; it is queued again or discarded. `fuel` bounds the cascade by the number of tasks. -/
def abortGo (why : AbortWhy) (discard : Bool) (p : Nat) : Nat → Nat → State → State
  | 0, _, s => s
  | fuel + 1, id, s =>
    match s.task? p (some id) with
    | none => s
    | some t =>
      let s := s.dropTaskJobs p id
      let s := match t.place with
        | some c => if t.st == TaskSt.running then s.clearTaskSlot c else s
        | none => s
      let s := s.modTask p id fun t => { t with st := .queued, place := none, rfilter := 0, wfilter := 0 }
      -- followers that hold a restored sector; one an earlier of them has aborted holds it no longer
      let s := ((s.part p).tasks.filter fun u => u.id != id && t.precedes u).foldl
        (fun s u => match s.task? p (some u.id) with
          | some v => if !v.settled && t.undo.any (fun r => filterHas v.rfilter r.1 || filterHas v.wfilter r.1) then
              abortGo why.next false p fuel v.id s else s
          | none => s) s
      let s := t.undo.foldl (fun s r => { s with mem := Memory.writeN s.mem r.1 r.2.2 }) (s.freeLog t)
      -- children; the record of one still in flight is dropped on arrival
      let s := ((s.part p).tasks.filter fun u => u.parent == some id).foldl (fun s u =>
        match s.task? p (some u.id) with
        | none => s
        | some u =>
          let s := if u.dispatched then abortGo why.next false p fuel u.id s else s
          (s.modPart p fun q => { q with tasks := q.tasks.filter (·.id != u.id) }).bump u.clu 4 1) s
      let s := ((s.part p).shadows.filter fun h => h.owner == some id).foldl (fun s h => s.discardShadow p h.name) s
      let s := match why with
        | .conflict => (s.bump t.clu 1 1).lifeAdd (s.logPkg p t.clu.pkg) 3 (s.physClu t.clu * 2) 1
        | .capacity => (s.bump t.clu 2 1).lifeAdd (s.logPkg p t.clu.pkg) 3 (s.physClu t.clu * 2 + 1) 1
        | .own => s
      if discard then s.modPart p fun q => { q with tasks := q.tasks.filter (·.id != id) }
      else s.modTask p id fun t =>
        { t with st := .queued, dispatched := true, settled := false, place := none, edepth := t.depth, rfilter := 0
                 wfilter := 0, undo := [], logged := [], unlogged := false, logWait := false, waitedOp := false
                 aborting := none, actions := [], readyAt := s.gtime }

/-- Abort a task (R159). -/
def State.abort (s : State) (why : AbortWhy) (discard : Bool) (p id : Nat) : State :=
  abortGo why discard p ((s.part p).tasks.length + 1) id s

/-- Aborts that waited are carried out once they may be (R159). -/
def State.endAborts (s : State) (p : Nat) : State :=
  (((s.part p).tasks.filter (·.aborting.isSome)).map (·.id)).foldl (fun s id =>
    match s.task? p (some id) with
    | some t => match t.aborting with
      | some why => if s.mayAbort p id then s.abort why false p id else s
      | none => s
    | none => s) s

/-- An access is non-speculative: of no task, or of a settled one (R153, R158). -/
def State.nonSpec (s : State) (p : Nat) (by_ : Option Nat) : Bool :=
  match s.task? p by_ with
  | some t => t.settled
  | none => true

/-- The tasks an access conflicts with (R157, R158): of a speculative task, those that follow it; else every speculative task. -/
def State.victims (s : State) (p : Nat) (by_ : Option Nat) (write : Bool) (secs : List Nat) : List Nat :=
  let holds (u : Task) : Bool := secs.any fun x => filterHas u.wfilter x || (write && filterHas u.rfilter x)
  match s.task? p by_ with
  | some t => ((s.part p).tasks.filter fun u => u.id != t.id && (t.settled || t.precedes u) && !u.settled && holds u).map (·.id)
  | none => ((s.part p).tasks.filter fun u => !u.settled && holds u).map (·.id)

/-- An access conflicts with a task whose abort must wait (R159). -/
def State.conflictWaits (s : State) (p : Nat) (by_ : Option Nat) (write : Bool) (pa n : Nat) : Bool :=
  (s.victims p by_ write (sectorsOf pa n)).any fun id => !s.mayAbort p id
/-- Stop the tasks an access conflicts with (R159). -/
def State.stopVictims (s : State) (p : Nat) (by_ : Option Nat) (write : Bool) (pa n : Nat) : State :=
  (s.victims p by_ write (sectorsOf pa n)).foldl (fun s id => s.stopTask .conflict true p id) s

/-- Apply R157 and R158 for an access at the instant it is performed: each task it conflicts with, unless an abort before it has reached
it already. A task that has sent accesses since the access was admitted, which wait behind it, is stopped, and aborted once they are performed
(R159): it holds no undo record of these bytes. -/
def State.conflict (s : State) (p : Nat) (by_ : Option Nat) (write : Bool) (pa n : Nat) : State :=
  (s.victims p by_ write (sectorsOf pa n)).foldl (fun s id =>
    if (s.victims p by_ write (sectorsOf pa n)).contains id then
      if s.mayAbort p id then s.abort .conflict false p id else s.stopTask .conflict true p id
    else s) s

/-- R158's wait: a non-speculative access to a sector in the write filter of another settled, unfinished task. -/
def State.settledHolds (s : State) (p : Nat) (by_ : Option Nat) (pa n : Nat) : Bool :=
  s.nonSpec p by_ && (s.part p).tasks.any fun u => by_ != some u.id && u.settled && u.unfinished &&
    (sectorsOf pa n).any fun x => filterHas u.wfilter x

/-- Records an undo log holds (R155). -/
def State.logCap (s : State) (p : Nat) : Nat := (s.part p).tcfg.ulog * 1024 / 136

/-- Records in use in a slot's log: those of the tasks that ran there and have not been freed. -/
def State.logUsed (s : State) (c : CtxId) : Nat :=
  ((s.part c.core.part).tasks.filter fun t => t.place == some c).foldl (fun n t => n + t.logged.length) 0

/-- Where record `i` of slot n's log lies in the core store (R155). -/
def State.logAt (s : State) (c : CtxId) (i : Nat) : Nat :=
  s.storePa c.core (0x100000 - (11 - c.slot) * (s.part c.core.part).tcfg.ulog * 1024 + i * 136)

/-- The next free place of a slot's log, going round (R155). -/
def State.logFree (s : State) (c : CtxId) : Nat :=
  let cap := max 1 (s.logCap c.core.part)
  let used := ((s.part c.core.part).tasks.filter fun t => t.place == some c).flatMap fun t => t.undo.map (·.2.1)
  let order := (List.range cap).map fun i => ((s.slot c).logNext + i) % cap
  (order.find? fun i => !used.contains (s.logAt c i)).getD 0

/-- Track an access of a task at its issue (R153-R156): filters, and the place of an undo record for a first write. The
answer is none when the write must wait for log space (R156). -/
def State.track (s : State) (c : CtxId) (id : Nat) (write : Bool) (pa n : Nat) : Option State :=
  let p := c.core.part
  match s.task? p (some id) with
  | none => some s
  | some t =>
    let secs := sectorsOf pa n
    if write then
      let new_ := if t.unlogged then [] else secs.filter fun x => !t.logged.contains x
      if !new_.isEmpty && (t.logWait || s.logUsed c + new_.length > s.logCap p) then
        if t.settled then
          some (s.modTask p id fun t => { t with wfilter := secs.foldl filterAdd t.wfilter, unlogged := true })
        else none
      else some (s.modTask p id fun t =>
        { t with wfilter := secs.foldl filterAdd t.wfilter, logged := t.logged ++ new_ })
    else some (s.modTask p id fun t => { t with rfilter := secs.foldl filterAdd t.rfilter })

/-- A task meets a full log: it waits until it settles (R156), counted once (R176). -/
def State.logFull (s : State) (p id : Nat) : State :=
  match s.task? p (some id) with
  | none => s
  | some t => if t.logWait then s else (s.modTask p id fun t => { t with logWait := true }).bump t.clu 7 1

/-- Make the undo records of the sectors a performed write reaches for the first time (R155). -/
def State.undoFor (s : State) (p : Nat) (by_ : Option Nat) (pa n : Nat) : State :=
  match s.task? p by_ with
  | none => s
  | some t =>
    let new_ := (sectorsOf pa n).filter fun x => t.logged.contains x && !(t.undo.any fun r => r.1 == x)
    new_.foldl (fun s x =>
      let old := Memory.readN s.mem x 128
      match t.place with
      | some c =>
        let i := s.logFree c
        let a := s.logAt c i
        let s := s.modTask p t.id fun t => { t with undo := (x, a, old) :: t.undo }
        let s := s.modSlot c fun l => { l with logNext := i + 1 }
        { s with mem := Memory.writeN (Memory.writeN s.mem a (toBytes (x + 1) 8)) (a + 8) old }
      | none => s) s

end Sys2Proof.Machine
end

