-- ==== Sys2Proof/Machine/Translate.lean ====
section
/-! DEFINITION. Translation, regions and homes (09_translation.md; 07_memory_homes.md R181-R186, R197; 14_copy_engines.md
R340, R341; 05_contexts.md R122). -/
namespace Sys2Proof.Machine

/-- The kinds of translation (R235). -/
inductive TKind where | none_ | read | write | rw | fetch
  deriving DecidableEq, Repr

/-- The registers of the publish region (R340), as numbers. -/
def Part.regionBase (q : Part) : Nat := fld q.spbase 19 33 * 2 ^ 19
def Part.names (q : Part) : Nat := fld q.spsize 24 24
def Part.poolSize (q : Part) : Nat := fld q.spsize 0 24
def Part.mapFrames (q : Part) : Nat := ceilDiv (q.names * 4) 524288
/-- The name a frame address is, when the region is in force (R340). -/
def Part.nameOf (q : Part) (pa : Nat) : Option Nat :=
  let b := q.regionBase + q.mapFrames * 524288
  if q.regionBase = 0 || pa < b then none
  else let i := (pa - b) / 524288; if i < q.names then some i else none
/-- The frame address lies in the map or pool part (R341). -/
def Part.inMapOrPool (q : Part) (pa : Nat) : Bool :=
  q.regionBase != 0 && q.regionBase ≤ pa && pa < q.regionBase + (q.mapFrames + q.names + q.poolSize) * 524288 &&
  (q.nameOf pa).isNone

/-- A physical place that exists (R182, R450). -/
def State.paExists (s : State) (pa : Nat) : Bool :=
  match amGet? s.pkgs (pa / 2 ^ 46) with
  | none => false
  | some k =>
    let o := pa % 2 ^ 46
    o < k.hbmTop || (0x100000000000 ≤ o && o < 0x100000000000 + k.liveCores * 2 ^ 20)

/-- A granule of the bytes is uncorrectable (R196). -/
def State.poisoned (s : State) (pa n : Nat) : Bool :=
  n != 0 && s.poison.any fun g => pa / 32 ≤ g && g ≤ (pa + n - 1) / 32

/-- A walker's read of a table or map entry (R235, R341): untracked, past every cache. A place that does not exist or
cannot be corrected gives a free value (log 8). -/
def State.walkRead (s : State) (pa n : Nat) : Nat × State :=
  if s.paExists pa && !s.poisoned pa n then (ofBytes (Memory.readN s.mem pa n), s)
  else let (w, s) := s.freeWord; (w.toNat % 256 ^ n, s)

/-- The index of a level (R232): 0 A, 1 B, 2 C, 3 D. -/
def levelIndex (lv va : Nat) : Nat :=
  match lv with
  | 0 => va / 2 ^ 43 % 8192
  | 1 => va / 2 ^ 30 % 8192
  | 2 => va / 2 ^ 25 % 32
  | _ => va / 2 ^ 19 % 64
/-- The page size of a leaf of a level, as a power of two (R232). -/
def leafBits (lv : Nat) : Nat := match lv with | 1 => 30 | 2 => 25 | _ => 19
/-- The size of the table below a level (R232). -/
def nextTable (lv : Nat) : Nat := match lv with | 0 => 65536 | 1 => 256 | _ => 512

/-- The checks of R234 on a valid entry: true when it raises Table Error. -/
def State.badEntry (s : State) (lv : Nat) (e : Word) : Bool :=
  if bitAt e 1 then
    let frame := fld e 19 33 * 2 ^ 19
    let home := fld e 6 2
    let hop := fld e 52 11
    let top := ((amGet? s.pkgs (frame / 2 ^ 46)).map (·.hbmTop)).getD 0
    bitAt e 63 || fld e 9 10 != 0 || lv == 0 || frame % 2 ^ leafBits lv != 0 ||
    frame % 2 ^ 46 + 2 ^ leafBits lv > top || (bitAt e 3 && !bitAt e 2) || (home == 0 && hop != 0) ||
    (home ≥ 2 && hop / 16 != 0)
  else fld e 52 12 != 0 || fld e 2 6 != 0 || lv == 3 || fld e 8 44 * 256 % nextTable lv != 0

/-- The translation a leaf gives, its frame through the publish map when it is a name (R233, R341). -/
def State.leafOf (s : State) (part asid va lv : Nat) (e : Word) : WalkRes × State :=
  let q := s.part part
  let frame := fld e 19 33 * 2 ^ 19
  let mk (pa : Nat) : WalkRes := .leaf
    { part := part, asid := asid, va := va / 2 ^ leafBits lv * 2 ^ leafBits lv, bits := leafBits lv, pa := pa, name := q.nameOf frame
      home := fld e 6 2, hopnd := fld e 52 11, rah := bitAt e 8, u := bitAt e 5, x := bitAt e 4, w := bitAt e 3, r := bitAt e 2 }
  if q.inMapOrPool frame then (.bad, s)
  else match q.nameOf frame with
    | none => (mk frame, s)
    | some i =>
      let (f, s) := s.walkRead (q.regionBase + 4 * i) 4
      if q.mapFrames ≤ f && f < q.mapFrames + q.names + q.poolSize then (mk (q.regionBase + f * 524288), s) else (.bad, s)

/-- What an entry of a level says (R234, R235): the next table, or what the walk found. -/
def State.walkEntry (s : State) (part asid va lv : Nat) (e : Word) : (Nat ⊕ WalkRes) × State :=
  if !bitAt e 0 then (.inr .absent, s)
  else if s.badEntry lv e then (.inr .bad, s)
  else if bitAt e 1 then let (r, s) := s.leafOf part asid va lv e; (.inr r, s)
  else (.inl (fld e 8 44 * 256), s)

/-- One table read of a walk made at once (R235). -/
def State.walkOnce (s : State) (part asid va lv table : Nat) : (Nat ⊕ WalkRes) × State :=
  let (e, s) := s.walkRead (table + levelIndex lv va * 8) 8
  s.walkEntry part asid va lv (wd e)

/-- A whole walk (R235). -/
def walkAll (part asid va : Nat) : Nat → Nat → Nat → State → WalkRes × State
  | 0, _, _, s => (.bad, s)
  | fuel + 1, lv, table, s =>
    match s.walkOnce part asid va lv table with
    | (.inr r, s) => (r, s)
    | (.inl t, s) => walkAll part asid va fuel (lv + 1) t s

/-- A walk of a cluster and ASID that has not ended. -/
def Walk.open_ (w : Walk) (u : CluId) (asid : Nat) : Bool := w.clu == u && w.asid == asid && w.done.isNone
/-- The walk is of the page of one that was begun before it, which it shares (R237). -/
def State.sharesWalk (s : State) (w : Walk) : Bool :=
  (s.walks.takeWhile (·.id != w.id)).any fun x => x.open_ w.clu w.asid && match (walkAll x.clu.part x.asid x.va 4 0 x.root s).1 with
    | .leaf e => e.va ≤ w.va && w.va < e.va + 2 ^ e.bits
    | _ => false
/-- The walk has one of its cluster's four walkers (R237). -/
def State.walking (s : State) (w : Walk) : Bool :=
  w.done.isNone && (((s.walks.filter fun x => x.clu == w.clu && x.done.isNone && !s.sharesWalk x).take 4).any fun x => x.id == w.id)
/-- A walk has ended; one that found a leaf is that of every miss in its page (R237). One nobody waits for any more is forgotten. -/
def State.walkEnds (s : State) (w : Walk) (r : WalkRes) : State :=
  let mine (x : Walk) : Bool := x.id == w.id || (match r with
    | .leaf e => x.open_ w.clu w.asid && e.va ≤ x.va && x.va < e.va + 2 ^ e.bits
    | _ => false)
  { s with walks := (s.walks.map fun x => if mine x then { x with asked := false, done := some r } else x).filter fun x => !(x.id == w.id && x.by_.isEmpty) }

/-- One table read of a walk has returned (R235): its bytes, or nothing where the place cannot be read, which gives a free value
(log 8, 15). -/
def State.walkTurn (s : State) (w : Walk) (b : Option (List Byte)) : State :=
  let (e, s) := match b with
    | some b => (ofBytes b, s)
    | none => let (v, s) := s.freeWord; (v.toNat, s)
  match s.walkEntry w.clu.part w.asid w.va w.lvl (wd e) with
  | (.inl t, s) => { s with walks := s.walks.map fun x => if x.id == w.id then { x with asked := false, lvl := w.lvl + 1, table := t } else x }
  | (.inr r, s) => s.walkEnds w r

/-- `Permits` of R235. -/
def Tlb.permits (e : Tlb) (k : TKind) (p : Priv) : Bool :=
  if p = .program && !e.u then false
  else if p ≠ .program && k = .fetch && e.u then false
  else match k with
    | .none_ => true | .read => e.r | .write => e.w | .rw => e.r && e.w | .fetch => e.x

/-- A cached translation serves an address of a partition and ASID (R231). -/
def Tlb.serves (e : Tlb) (part asid va : Nat) : Bool :=
  e.part == part && e.asid == asid && e.va / 2 ^ e.bits == va / 2 ^ e.bits
/-- Two translations overlap. -/
def Tlb.overlaps (e f : Tlb) : Bool :=
  e.part == f.part && e.asid == f.asid && e.va < f.va + 2 ^ f.bits && f.va < e.va + 2 ^ e.bits
def tlbFind (l : List Tlb) (part asid va : Nat) : Option Tlb := l.find? (·.serves part asid va)
/-- Install a translation in a structure of some capacity (R236). -/
def tlbAdd (cap : Nat) (e : Tlb) (l : List Tlb) : List Tlb := (e :: l.filter fun f => !e.overlaps f).take cap

/-- Whose translation structure an access uses (R236). -/
inductive TlbWho where | data (c : CoreId) | fetch (c : CoreId) | engine (pkg e : Nat) (c : CoreId) | unit (u : CluId)
  deriving DecidableEq, Repr

def TlbWho.clu : TlbWho → CluId
  | .data c | .fetch c | .engine _ _ c => c.clu
  | .unit u => u

def State.tlbOf (s : State) : TlbWho → List Tlb
  | .data c => (s.core c).dtlb
  | .fetch c => (s.core c).itlb
  | .engine g e _ => ((s.etlbs.find? fun t => t.pkg == g && t.engine == e).map (·.tlb)).getD []
  | .unit u => (s.cluster u).utlb.toList

def State.tlbInstall (s : State) (e : Tlb) : TlbWho → State
  | .data c => s.modCore c fun k => { k with dtlb := tlbAdd 64 e k.dtlb }
  | .fetch c => s.modCore c fun k => { k with itlb := tlbAdd 32 e k.itlb }
  | .engine g n _ =>
    let old := ((s.etlbs.find? fun t => t.pkg == g && t.engine == n).map (·.tlb)).getD []
    { s with etlbs := { pkg := g, engine := n, tlb := tlbAdd 128 e old } :: s.etlbs.filter fun t => !(t.pkg == g && t.engine == n) }
  | .unit u => s.modCluster u fun k => { k with utlb := some e }

/-- The agent an invalidation reaches that holds this structure (R244). -/
def TlbWho.agent (s : State) : TlbWho → InvAgent
  | .data c | .fetch c => .core c
  | .engine _ _ c => .engines (s.logPkg c.part c.pkg)
  | .unit u => .clu u

/-- The invalidation covers a page of some size (R244, R343). -/
def Inval.covers (x : Inval) (va bits asid : Nat) : Bool :=
  (x.mode == 1 || x.mode == 3 || x.asid == asid) &&
  (if x.publish.isSome then x.pages.any fun p => va < p + 524288 && p < va + 2 ^ bits
   else 2 ≤ x.mode || (va < x.hi && x.lo < va + 2 ^ bits))
/-- The invalidation covers an entry. -/
def Inval.hits (x : Inval) (e : Tlb) : Bool := e.part == x.part && x.covers e.va e.bits e.asid
/-- It has reached an agent (R241). -/
def Inval.reached (x : Inval) (a : InvAgent) : Bool := x.agents.any fun y => y.1 == a && y.2 != .sent

/-- The agent holds back a translation of the page: it has an invalidation of a publish and the swap is not done (R343). -/
def State.heldBack (s : State) (part : Nat) (a : InvAgent) (va : Nat) : Bool :=
  s.invals.any fun i => i.part == part && i.publish.isSome && i.pages.contains (va / 524288 * 524288) && i.reached a

/-- An invalidation that has reached the agent and not yet its cluster covers an entry the cluster still holds (R241). -/
def State.staleFor (s : State) (a : InvAgent) (u : CluId) (e : Tlb) : Bool := s.invals.any fun i => i.hits e && i.reached a && !i.reached (.clu u)
/-- An invalidation that has reached the agent covers what a walk found that was begun before the invalidation (R241). -/
def State.staleWalk (s : State) (a : InvAgent) (w : Walk) (e : Tlb) : Bool := s.invals.any fun i => i.hits e && i.reached a && decide (w.id < i.id)

/-- What a translation answers: `wait` while a publish holds the page back. -/
inductive TRes where | ok (e : Tlb) | fault (cause : Nat) | miss | wait
  deriving DecidableEq, Repr

/-- `Translate` of R235. `waiter` awaits a walk; without one the walk is made at once. Below the agent's own structure stand the
cluster TLB and the walkers, which are the cluster's agent: an entry there that an invalidation has reached the asking agent for is
not used (R241). -/
def State.translate (s : State) (who : TlbWho) (waiter : Option Waiter) (k : TKind) (p : Priv) (va : Nat) : TRes × State :=
  let u := who.clu
  let me := who.agent s
  let atbl := (s.part u.part).atbl
  let asid := fld atbl 48 16
  if !bitAt atbl 0 then (.fault cPage, s)
  else if s.heldBack u.part me va then (.wait, s)
  else
    let finish (r : WalkRes) (s : State) : TRes × State := match r with
      | .absent => (.fault cPage, s)
      | .bad => (.fault cTable, s)
      | .failed c => (.fault c, s)
      | .leaf e =>
        if e.permits k p then
          (.ok e, (s.tlbInstall e who).modCluster u fun c => { c with tlb := tlbAdd 2048 e c.tlb })
        else (.fault cProt, s)
    let walk : TRes × State :=
      if s.heldBack u.part (.clu u) va then (.wait, s)
      else match waiter with
      | none => let (r, s) := walkAll u.part asid va 4 0 (fld atbl 12 36 * 2 ^ 16) s; finish r s
      | some w =>
        match s.walks.find? fun x => x.clu == u && x.asid == asid && x.va / 2 ^ 19 == va / 2 ^ 19 && x.by_.contains w && x.done.isSome with
        | some x =>
          let rest := x.by_.filter (· != w)
          let s := { s with walks := (s.walks.map fun y => if y.id == x.id then { y with by_ := rest } else y).filter fun y => !(y.id == x.id && rest.isEmpty) }
          match x.done with
          | some (.leaf e) => if s.staleWalk me x e then (.miss, s) else finish (.leaf e) s
          | some r => finish r s
          | none => (.miss, s)
        | none => (.miss, s)
    match tlbFind (s.tlbOf who) u.part asid va with
    | some e => if e.permits k p then (.ok e, s) else walk
    | none =>
      match tlbFind ((s.cluster u).tlb.filter fun e => !s.staleFor me u e) u.part asid va with
      | some e =>
        if s.heldBack u.part (.clu u) va then (.wait, s)
        else if e.permits k p then (.ok e, s.tlbInstall e who) else walk
      | none => walk

/-! ### Homes (R183, R184, R197) -/

/-- The virtual package of a partition that stands on a logical package. -/
def State.virtPkg (s : State) (p lg : Nat) : Option Nat := ((s.part p).active.pkg.find? fun x => x.2 == lg).map (·.1)
/-- The virtual vcore of a partition that stands on a logical core. -/
def State.virtVc (s : State) (p lc : Nat) : Option Nat := ((s.part p).active.vcore.find? fun x => x.2 == lc).map (·.1)

/-- The channel that holds a byte's line (R182, R450). -/
def State.channelOf (s : State) (pa : Nat) : Nat :=
  let k := s.pkg (pa / 2 ^ 46)
  let ch := pa / 1024 % 512
  if k.chanLive ch then ch
  else
    let live := below 512 k.chanLive
    let i := (below ch fun x => !k.chanLive x).length
    let n := i * (3072 * live.length) + pa % 2 ^ 46 / 524288
    (live[n % max 1 live.length]?).getD 0
/-- The slice that fronts the channel holding a byte (R18, R183, R450). -/
def State.sliceOf (s : State) (pa : Nat) : Nat :=
  let ch := s.channelOf pa
  let stack := ch / 32
  stack / 4 * 64 + stack / 2 % 2 * 32 + stack % 2 * 16 + ch % 32 / 2

/-- The vcores of a partition in the clusters a group selects, ascending (R184). -/
def State.groupCores (s : State) (p g : Nat) : List Nat :=
  let q := s.part p
  let r := q.hgrp.get (Fin.ofNat 16 g)
  (q.active.vcore.map (·.1)).filter fun v =>
    let c := v / 8; fld r 16 8 ≤ c && c < fld r 16 8 + 16 && bitAt r (c - fld r 16 8) && (amGet? q.active.clu c).isSome

/-- The clusters a group selects that hold a vcore, ascending (R197). -/
def State.groupClus (s : State) (p g : Nat) : List Nat := dedup ((s.groupCores p g).map (· / 8))

/-- The replica of a line in a cluster (R197). -/
def State.replicaIn (s : State) (p g clu pa : Nat) : Nat :=
  let l := (s.groupCores p g).filter fun v => v / 8 == clu
  (l[mixN (pa / 1024) % max 1 l.length]?).getD 0

/-- Mesh hops along a row, with skip channels of four columns (R17, R374). -/
def rowHops (a b : Nat) : Nat := let d := if a ≤ b then b - a else a - b; d / 4 + d % 4
/-- Hops of the route between two physical cores of a package (R374): along rows, round the die ring, along the column. -/
def coreHops (a b : Nat) : Nat :=
  let (da, ra, ca) := (a / 512, a / 32 % 16, a % 32)
  let (db, rb, cb) := (b / 512, b / 32 % 16, b % 32)
  let rows := if ra ≤ rb then rb - ra else ra - rb
  let e := (db + 4 - da) % 4
  if e = 0 then rowHops ca cb + rows
  else if e ≤ 2 then rowHops ca 31 + e + (e - 1) * rowHops 0 31 + rowHops 0 cb + rows
  else rowHops ca 0 + 1 + rowHops 31 cb + rows

/-- The replica a core reads (R197): its own cluster's, or the one in the fewest hops, lower cluster first. DESIGN CHOICE (log 118):
the rule gives no hop count across a link, and a replica in another package is counted as if both stood in one. -/
def State.replicaFor (s : State) (c : CoreId) (hp g pa : Nat) : Nat :=
  let clus := s.groupClus c.part g
  if clus.contains c.clu.clu && hp == c.pkg then s.replicaIn c.part g c.clu.clu pa
  else
    let dist (v : Nat) : Nat := coreHops (s.physCore c) (s.physCore { part := c.part, pkg := hp, vc := v })
    match clus.map fun u => s.replicaIn c.part g u pa with
    | [] => 0
    | v :: r => r.foldl (fun best w => if dist w < dist best then w else best) v

/-- Where an access goes: the byte's address, its home, the agent that serves a read, the page's run-at-home bit, for a replicated
page its group, the page of the translation used, and whether the byte lies in the local memory of a core (R186). -/
structure Loc where
  va : Nat
  pa : Nat
  home : Home
  reader : Home
  rah : Bool
  repl : Option Nat
  page : Option (Nat × Nat)
  isLocal : Bool
  deriving DecidableEq, Repr

/-- The home of a translated address (R183, R184, R197); none when the page names no core of the partition. The core is
the one of the frame's package (log 10). -/
def State.homeOf (s : State) (c : CoreId) (e : Tlb) (va : Nat) : Option Loc :=
  let pa := e.pa + va % 2 ^ e.bits
  let mk (h r : Home) (g : Option Nat) : Loc := { va := va, pa := pa, home := h, reader := r, rah := e.rah, repl := g, page := some (e.va, e.bits), isLocal := false }
  let at_ (v : Nat) : Option Home := (s.virtPkg c.part (pa / 2 ^ 46)).bind fun g =>
    if s.hasCore { part := c.part, pkg := g, vc := v } then some (.core { part := c.part, pkg := g, vc := v }) else none
  match e.home with
  | 0 => let h := Home.llc (pa / 2 ^ 46) (s.sliceOf pa); some (mk h h none)
  | 1 => (at_ e.hopnd).map fun h => mk h h none
  | 2 =>
    let l := s.groupCores c.part (e.hopnd % 16)
    if l.isEmpty then none
    else (at_ ((l[mixN (pa / 1024) % l.length]?).getD 0)).map fun h => mk h h none
  | _ =>
    let g := e.hopnd % 16
    match s.groupClus c.part g with
    | [] => none
    | u :: _ =>
      match at_ (s.replicaIn c.part g u pa), s.virtPkg c.part (pa / 2 ^ 46) with
      | some h, some hp => (at_ (s.replicaFor c hp g pa)).map fun r => mk h r (some g)
      | _, _ => none

/-- The regions of the address space (R181). -/
inductive Region where | paged | store (c : CoreId) (off : Nat) | mxq (off : Nat) | none_
  deriving DecidableEq, Repr

/-- The region of a virtual address for a core (R181, R24). -/
def State.region (s : State) (c : CoreId) (va : Nat) : Region :=
  if va < 0x00FE000000000000 then .paged
  else if va < 0x00FE000000100000 then .store c (va - 0x00FE000000000000)
  else if va < 0x00FE000000100040 then .mxq (va - 0x00FE000000100000)
  else if va < 0x00FF000000000000 then .none_
  else if va < 0x00FF004000000000 then
    let o := va - 0x00FF000000000000
    let d : CoreId := { part := c.part, pkg := o / 2 ^ 32, vc := o / 2 ^ 20 % 4096 }
    if d.vc < 2048 && s.hasCore d then .store d (o % 2 ^ 20) else .none_
  else .none_

/-- What resolving an address answers. -/
inductive RRes where | ok (l : Loc) | fault (cause : Nat) | miss | wait
  deriving DecidableEq, Repr

/-- Translation and the region check of an access of `n` bytes (R200, R181, R186). DESIGN CHOICE (log 152): a supervisor access to the L2 region
reads and writes the plain bytes of the store there, which are none of the cached data. -/
def State.resolve (s : State) (c : CoreId) (who : TlbWho) (waiter : Option Waiter) (k : TKind) (p : Priv)
    (va n : Nat) : RRes × State :=
  match s.region c va with
  | .none_ | .mxq _ => (.fault cAccess, s)
  | .store d off =>
    if p = .program && off + n > s.l2Base d then (.fault cAccess, s)
    else (.ok { va := va, pa := s.storePa d off, home := .core d, reader := .core d, rah := false, repl := none, page := none,
                     isLocal := decide (off < s.l2Base d) }, s)
  | .paged =>
    match s.translate who waiter k p va with
    | (.fault f, s) => (.fault f, s)
    | (.miss, s) => (.miss, s)
    | (.wait, s) => (.wait, s)
    | (.ok e, s) =>
      match s.homeOf c e va with
      | some l => (.ok l, s)
      | none => (.fault cAccess, s)

/-- A physical address lies in a core store. -/
def inStore (pa : Nat) : Bool := pa % 2 ^ 46 ≥ 0x100000000000
/-- An access to the local memory of another core (R192, R193). -/
def Loc.remoteLocal (l : Loc) (c : CoreId) : Bool := l.isLocal && l.home != .core c

/-- `HomeCore` of R122. DESIGN CHOICE (log 117): the rule names no core for a replicated page, and none is answered. -/
def Loc.homeCore (l : Loc) : Option CoreId := match l.home with | .core c => if l.repl.isSome then none else some c | .llc _ _ => none

end Sys2Proof.Machine
end

