-- ==== Sys2Proof/Machine/Winter.lean ====
section
/-! DEFINITION. The numbering a Winter table gives, the thresholds of service and the Configuration Record
(21_winter_tables.md R448-R453). -/
namespace Sys2Proof.Machine

/-- Physical cluster of a physical core (R21). -/
def cluOfPhys (p : Nat) : Nat := p / 512 * 64 + p / 64 % 8 * 8 + p % 32 / 4
/-- A physical cluster holds a live core (R22). -/
def Pkg.cluLive (k : Pkg) (u : Nat) : Bool :=
  (List.range 8).any fun i => k.coreLive (u / 64 * 512 + (u / 8 % 8 * 2 + i / 4) * 32 + u % 8 * 4 + i % 4)
/-- Live clusters counted. -/
def Pkg.liveClus (k : Pkg) : Nat := if k.retired.isEmpty then 256 else (below 256 k.cluLive).length
/-- The physical cluster of a logical cluster (R22). -/
def Pkg.physCluOf (k : Pkg) (l : Nat) : Nat := if k.retired.isEmpty then l else ((below 256 k.cluLive)[l]?).getD 0

/-- A slice is live. -/
def Pkg.sliceLive (k : Pkg) (u : Nat) : Bool := !(k.retiredOf 2).contains u
/-- Lanes of a link with no Winter entry (R448, R449). -/
def Pkg.lanesLive (k : Pkg) (link : Nat) : Nat := (below 8 fun i => !(k.retiredOf 4).contains (link * 8 + i)).length
/-- A link is live by the table: it has two live lanes (R449). -/
def Pkg.linkLive (k : Pkg) (link : Nat) : Bool := 2 ≤ k.lanesLive link
/-- A link carries packets now: lane retirements take effect at once (R379, R449). -/
def Pkg.linkUp (k : Pkg) (link : Nat) : Bool := 2 ≤ (below 8 fun i => !k.lanesOff.contains (link * 8 + i)).length
/-- A lane reads as live (R452). -/
def Pkg.laneLive (k : Pkg) (l : Nat) : Bool := k.linkLive (l / 8) && !(k.retiredOf 4).contains l

/-! ### The lifetime block (R453, R454) -/

/-- The bytes of a block of lifetime records, over which its signatures are taken (R453). -/
def blockBytes (b : AMap Nat) : List Byte := b.flatMap fun r => toBytes r.1 8 ++ toBytes r.2 8
/-- A signature of the device's attestation key over a message verifies (R448, R457): one the device has made does, and others as the scheme
says. -/
def Pkg.attests (k : Pkg) (mlDsa : Bool) (msg sig : List Byte) : Bool :=
  let key := if mlDsa then k.attKey2 else k.attKey1
  decide (sig = Config.signs mlDsa key msg) || Config.verifies mlDsa (Config.publicHalf mlDsa key) msg sig
/-- The records go to the store as one signed block (R453). -/
def Pkg.writeBlock (k : Pkg) : Pkg :=
  { k with lifeBlock := k.life, lifeSig1 := Config.signs false k.attKey1 (blockBytes k.life), lifeSig2 := Config.signs true k.attKey2 (blockBytes k.life) }
/-- Both signatures of the block in the store verify (R457). -/
def Pkg.blockOk (k : Pkg) : Bool := k.attests false (blockBytes k.lifeBlock) k.lifeSig1 && k.attests true (blockBytes k.lifeBlock) k.lifeSig2

/-- An hour of GTIME in clock ticks (R453). -/
def hourTicks : Nat := 3600000000000 * Config.ccPerNs
/-- The hourly write of a package is due (R453): its IO die has power, and GTIME has reached the next hour. -/
def Pkg.blockDue (k : Pkg) (clock : Nat) : Bool := k.phase != 0 && decide (k.hour < clock / hourTicks)
/-- A retirement event (R453, R454): one that falls in the instant of an hourly write is counted in that write. -/
def State.retirement (s : State) (g kind : Nat) : State :=
  let s := s.lifeAdd g 5 kind 1
  if (s.pkg g).hour != 0 && (s.pkg g).hour == s.clock / hourTicks && decide (s.clock % hourTicks < Config.ccPerNs) then s.modPkg g Pkg.writeBlock else s

/-- Bits of a bitmap word: bit i is unit `64 * w + i`. -/
def bitmapWord (live : Nat → Bool) (w : Nat) : Nat := (List.range 64).foldl (fun n i => n + (if live (64 * w + i) then 2 ^ i else 0)) 0

/-- Word i of the Configuration Record (R452). -/
def Pkg.configWord (k : Pkg) (i : Nat) : Word :=
  if i = 0 then
    wd (k.liveCores + k.liveClus * 2 ^ 16 + k.liveChans * 2 ^ 32 + (below 32 k.linkLive).length * 2 ^ 48 + k.version % 1024 * 2 ^ 54)
  else if i ≤ 32 then wd (bitmapWord k.coreLive (i - 1))
  else if i ≤ 36 then wd (bitmapWord k.sliceLive (i - 33))
  else if i ≤ 44 then wd (bitmapWord k.chanLive (i - 37))
  else if i ≤ 48 then wd (bitmapWord k.laneLive (i - 45))
  else if i = 49 then wd k.hbmTop
  else 0

/-- A package is in service (R451). -/
def Pkg.inService (k : Pkg) : Bool :=
  1984 ≤ (below 2048 k.coreLive).length &&
  (List.range 4).all (fun d => 480 ≤ (below 512 fun i => k.coreLive (d * 512 + i)).length) &&
  (List.range 4).all (fun d => 60 ≤ (below 64 fun i => k.sliceLive (d * 64 + i)).length) &&
  480 ≤ (below 512 k.chanLive).length &&
  (List.range 16).all (fun t => 24 ≤ (below 32 fun i => k.chanLive (t * 32 + i)).length) &&
  24 ≤ (below 32 k.linkLive).length

/-- A live value of the lifetime records (R453). -/
def Pkg.lifeValue (k : Pkg) (sel : Word) : Word := wd (amGet 0 k.life (fld sel 15 4 * 2 ^ 15 + fld sel 0 15))

end Sys2Proof.Machine
end

