-- ==== Sys2Proof/Machine/Routes.lean ====
section
/-! DEFINITION. The routes of packets and what they count at the routers they pass (16_network.md R371, R374, R382, R384). -/
namespace Sys2Proof.Machine

/-- Where an agent's packets enter and leave: logical package, die, row, column, port of R384. -/
structure Spot where
  pkg : Nat
  die : Nat
  row : Nat
  col : Nat
  port : Nat
  deriving DecidableEq, Repr

/-- The router of a link port (R374). -/
def linkSpot (pkg l : Nat) : Spot := { pkg := pkg, die := l / 8, row := 8, col := 4 * (l % 8) + 2, port := 10 }

/-- The router of the core in slot 0 of a cluster (R19, R371). -/
def State.cluSpot (s : State) (u : CluId) : Spot :=
  let c := s.physClu u
  { pkg := s.logPkg u.part u.pkg, die := c / 64, row := 2 * (c / 8 % 8), col := 4 * (c % 8), port := 6 }

/-- The router of an agent (R371). An IO die port is that of the die and the columns of the other end (R16). -/
def State.spot (s : State) (other : Spot) : Agent → Spot
  | .core c => let p := s.physCore c
               { pkg := s.logPkg c.part c.pkg, die := p / 512, row := p / 32 % 16, col := p % 32, port := 6 }
  | .llc g u => { pkg := g, die := u / 64, row := if u % 64 < 32 then 0 else 15, col := u % 32, port := 7 }
  | .engine g e => { pkg := g, die := e / 8, row := 7, col := 4 * (e % 8), port := 11 }
  | .task u => s.cluSpot u
  | .ring u => s.cluSpot u
  | .barrier u => s.cluSpot u
  | .io g => { pkg := g, die := other.die, row := 15, col := if other.col < 16 then 15 else 16, port := 9 }
  | .link g l => linkSpot g l

/-- A router of a package (its core's physical number) and the port a packet leaves it by. -/
abbrev Hop := Nat × Nat × Nat

/-- Within a die: along the row by skip channels and single hops, then along the column (R374). -/
def hopsIn (pkg die : Nat) : Nat → Nat → Nat → Nat → Nat → List Hop
  | 0, _, _, _, _ => []
  | fuel + 1, r, c, r2, c2 =>
    let at_ := die * 512 + r * 32 + c
    if c + 4 ≤ c2 then (pkg, at_, 4) :: hopsIn pkg die fuel r (c + 4) r2 c2
    else if c2 + 4 ≤ c then (pkg, at_, 5) :: hopsIn pkg die fuel r (c - 4) r2 c2
    else if c < c2 then (pkg, at_, 1) :: hopsIn pkg die fuel r (c + 1) r2 c2
    else if c2 < c then (pkg, at_, 3) :: hopsIn pkg die fuel r (c - 1) r2 c2
    else if r2 < r then (pkg, at_, 0) :: hopsIn pkg die fuel (r - 1) c r2 c2
    else if r < r2 then (pkg, at_, 2) :: hopsIn pkg die fuel (r + 1) c r2 c2
    else []

/-- Between dies: along the row to the edge toward the nearer way round, east when equal, and on in the same row (R15, R374). -/
def hopsOver (pkg : Nat) : Nat → Nat → Nat → Nat → Spot → List Hop
  | 0, _, _, _, _ => []
  | fuel + 1, die, r, c, t =>
    if die = t.die then hopsIn pkg die 40 r c t.row t.col
    else if (t.die + 4 - die) % 4 ≤ 2 then
      hopsIn pkg die 40 r c r 31 ++ (pkg, die * 512 + r * 32 + 31, 8) :: hopsOver pkg fuel ((die + 1) % 4) r 0 t
    else
      hopsIn pkg die 40 r c r 0 ++ (pkg, die * 512 + r * 32, 8) :: hopsOver pkg fuel ((die + 3) % 4) r 31 t

/-- From one router to another of a package, and out at the last one's port. -/
def hopsWithin (a b : Spot) : List Hop :=
  hopsOver a.pkg 4 a.die a.row a.col b ++ [(b.pkg, b.die * 512 + b.row * 32 + b.col, b.port)]

/-- An agent as a header names it (R23, R373): PKG, ATYPE, UNIT, in logical numbers. -/
def State.agentCode (s : State) : Agent → Nat
  | .core c => s.logPkg c.part c.pkg + s.logCore c * 512
  | .llc g u => g + 64 + u * 512
  | .engine g e => g + 2 * 64 + e * 512
  | .task u => s.logPkg u.part u.pkg + 3 * 64 + s.logClu u * 512
  | .ring u => s.logPkg u.part u.pkg + 4 * 64 + s.logClu u * 512
  | .barrier u => s.logPkg u.part u.pkg + 5 * 64 + s.logClu u * 512
  | .io g => g + 6 * 64
  | .link g l => g + 7 * 64 + l * 512

/-- The links of a package's mask toward a logical package that carry packets (R374, R445, R449). -/
def State.linksTo (s : State) (part g dst : Nat) : List Nat :=
  let v := (((s.part part).active.pkg.find? (·.2 == dst)).map (·.1)).getD 0
  below 32 fun l => (amGet 0 (s.pkg g).route v).testBit l && (s.pkg g).linkUp l && !(s.pkg g).outer.contains l

/-- The link a packet takes between packages when its pair has left `left` links of its mask behind (R374, R380; log 60). -/
def State.linkAfter (s : State) (k : Packet) (left : Nat) : Option Nat :=
  let ls := s.linksTo k.part (s.agentPkg k.src) (s.agentPkg k.dst)
  ls[(mixN (s.agentCode k.src + s.agentCode k.dst * 2 ^ 32) % max 1 ls.length + left) % max 1 ls.length]?
/-- The link a packet takes between packages (R374, R380; log 60). -/
def State.linkOf (s : State) (k : Packet) : Option Nat := s.linkAfter k (s.pair k.part k.src k.dst k.cls).link

/-- The route of a packet (R374): none when no link carries it. A link ends at the link of its number (log 60). -/
def State.routeOf (s : State) (k : Packet) : Option (List Hop) :=
  let blank : Spot := { pkg := 0, die := 0, row := 0, col := 0, port := 0 }
  let a := s.spot (s.spot blank k.dst) k.src
  let b := s.spot a k.dst
  if a.pkg = b.pkg then some (hopsWithin a b)
  else match s.linkOf k with
    | some l => some (hopsWithin a (linkSpot a.pkg l) ++ hopsWithin (linkSpot b.pkg l) b)
    | none => none

/-- The routers of a route that a packet can have reached: it waits before one that is powered down (R382). -/
def State.reached (s : State) (h : List Hop) : List Hop := h.takeWhile fun x => !(s.pkg x.1).downRouters.contains x.2.1
/-- A router of the route is powered down: the packet waits (R382). -/
def State.routeDown (s : State) (h : List Hop) : Bool := h.any fun x => (s.pkg x.1).downRouters.contains x.2.1

/-- The key of a router counter (R384): physical core, port, counter. -/
def netKey (phys port cnt : Nat) : Nat := (phys * 16 + port) * 8 + cnt
/-- Count at a port (R384). -/
def State.countAt (s : State) (h : Hop) (cnt : Nat) : State :=
  s.modPkg h.1 fun g => { g with netcnt := amSet g.netcnt (netKey h.2.1 h.2.2 cnt) ((amGet 0 g.netcnt (netKey h.2.1 h.2.2 cnt) + 1) % 2 ^ 64) }

/-- A packet has passed the routers of its route (R382, R384). -/
def State.passed (s : State) (k : Packet) (h : List Hop) : State :=
  h.foldl (fun s x =>
    let s := (s.modPkg x.1 fun g => { g with lastFlit := amSet g.lastFlit x.2.1 s.clock }).countAt x 1
    if k.retx then s.countAt x 2 else s) s

/-- A packet of the steps that are taken at once crosses the network: it counts at the ports of its route (R371, R372, R384; log 139). -/
def State.crossed (s : State) (part cls : Nat) (src dst : Agent) : State :=
  let k : Packet := { id := 0, part := part, cls := cls, src := src, dst := dst, pseq := 0, len := 0, trim := false, retx := false, tcnt := 0
                      dmark := 0, stage := .ready, at_ := s.clock, judged := none, msg := .void }
  match s.routeOf k with
  | some h => if src == dst then s else s.passed k h
  | none => s
/-- A packet and its answer. -/
def State.thereAndBack (s : State) (part cls back : Nat) (src dst : Agent) : State := (s.crossed part cls src dst).crossed part back dst src

end Sys2Proof.Machine
end

