-- ==== Sys2Proof/Machine/Homes.lean ====
section
/-! DEFINITION. Performing accesses at their homes (07_memory_homes.md R187-R198, R203-R211; 08_consistency.md R216-R230;
15_rings.md R359, R363). -/
namespace Sys2Proof.Machine

/-- The agent of a home (R371). -/
def Home.agent : Home → Agent | .core c => .core c | .llc p s => .llc p s

/-- Permissions a window carries (R192). -/
inductive Perm where | rd | wr | atomic
  deriving DecidableEq, Repr

/-- For whom an access is performed: its source core, the partition's task it belongs to, and whether it is an engine's. -/
structure Actor where
  core : CoreId
  task : Option Nat
  engine : Bool := false
  deriving DecidableEq, Repr

/-- A window admits an access (R192). -/
def State.winAdmits (s : State) (owner src : CoreId) (p : Perm) (off n : Nat) (w : Word) : Bool :=
  bitAt w 63 && (match p with | .rd => bitAt w 62 | .wr => bitAt w 61 | .atomic => bitAt w 60) &&
  fld w 0 13 ≤ off / 128 && (off + n - 1) / 128 ≤ fld w 16 13 &&
  (match fld w 58 2 with
    | 0 => true
    | 1 => owner.clu == src.clu
    | 2 => owner.pkg == src.pkg && s.dieOf owner == s.dieOf src
    | _ => owner.pkg == src.pkg)

/-- The offset of a byte in its core store. -/
def storeOff (pa : Nat) : Nat := pa % 2 ^ 20

/-- The place lies in the local memory of the core whose store holds it (R186). -/
def State.isLocal (s : State) (c : CoreId) (pa : Nat) : Bool := inStore pa && decide (storeOff pa < s.l2Base c)

/-- The access is refused by the windows of its home, which are checked for local memory alone (R192, R193). -/
def State.refused (s : State) (src : CoreId) (h : Home) (p : Perm) (pa n : Nat) : Bool :=
  match h with
  | .llc _ _ => false
  | .core c => s.isLocal c pa && c != src && !((s.core c).win.toList.any fun w => s.winAdmits c src p (storeOff pa) n w)

/-- The permission a request's home asks of its windows (R192). -/
def ReqOp.perm : ReqOp → Perm
  | .load _ => .rd
  | .store _ | .masked _ => .wr
  | .atomic _ _ _ _ | .reduce _ _ _ | .rlog _ _ _ _ => .atomic

/-- Count a refusal (R193). -/
def State.countRefusal (s : State) : Home → State
  | .core c => s.modCore c fun k => { k with winref := k.winref + 1 }
  | .llc _ _ => s

/-- A scoreboard entry of a core covers one of the bytes (R195). -/
def State.boardHeld (s : State) (h : Home) (pa n : Nat) : Bool :=
  match h with
  | .llc _ _ => false
  | .core c => s.isLocal c pa && (s.core c).sboard.any fun e => storeOff pa / 128 ≤ e.2.2 && e.2.1 ≤ (storeOff pa + n - 1) / 128

/-- The bytes a request touches. -/
def ReqOp.bytes : ReqOp → Nat
  | .load n => n
  | .store d => d.length
  | .masked d => d.length
  | .atomic _ n _ _ => n
  | .reduce _ n _ => n
  | .rlog _ dbl _ _ => if dbl then 8 else 4

/-- A write of these bytes is under way at its home (R189, R197). -/
def State.writeUnderWay (s : State) (pa n : Nat) : Bool :=
  s.homeWrites.any fun h => h.req.pa / 128 ≤ (pa + n - 1) / 128 && pa / 128 ≤ (h.req.pa + h.req.op.bytes - 1) / 128

/-- An access must wait at its home (R158, R189, R195, R197); scoreboard entries hold no engine back (R195). -/
def State.mustWait (s : State) (a : Actor) (h : Home) (pa n : Nat) : Bool :=
  (!a.engine && s.boardHeld h pa n) || s.writeUnderWay pa n || s.settledHolds a.core.part a.task pa n

/-- An access must wait, at its home or for the aborts it brings (R159). -/
def State.heldUp (s : State) (a : Actor) (h : Home) (write : Bool) (pa n : Nat) : Bool :=
  s.mustWait a h pa n || s.conflictWaits a.core.part a.task write pa n
/-- An access that only such aborts hold up stops their tasks (R159). -/
def State.stopFor (s : State) (a : Actor) (h : Home) (write : Bool) (pa n : Nat) : State :=
  if !s.mustWait a h pa n && s.conflictWaits a.core.part a.task write pa n then s.stopVictims a.core.part a.task write pa n else s

/-- The sector can be held in L1 data caches: its home is a slice (R188). -/
def cacheable (pa : Nat) : Bool := !inStore pa

/-- A range lies wholly in local memory (R186, R312). -/
def State.inLocal (s : State) (c : CoreId) (off n : Nat) : Bool := off + n ≤ s.l2Base c

/-- A byte an ACCST writes that no MXWAIT covers yet (R230); `done` asks for an ACCST that has been executed. One whose bytes do not lie in local memory
will be refused and writes none (R312). -/
def State.early (s : State) (h : Home) (done : Bool) (pa : Nat) : Bool :=
  match h with
  | .llc _ _ => false
  | .core c => inStore pa && (s.core c).early.any fun e => e.2.1 ≤ storeOff pa && storeOff pa < e.2.2.1 &&
      (e.2.2.2 || (!done && s.inLocal c e.2.1 (e.2.2.1 - e.2.1)))

/-- The last store of a byte's sector was made under another home and not flushed (R185). -/
def State.staleHome (s : State) (h : Home) (pa : Nat) : Bool :=
  !inStore pa && s.dirty.any fun d => d.1 == pa / 128 * 128 && d.2 != h

/-- The manual leaves a byte open (R429). -/
def State.openAt (s : State) (pa : Nat) : Bool := s.openBytes.any fun r => r.1 ≤ pa && pa < r.2

/-- A range without the bytes from `lo` to `hi`. -/
def cutRange (lo hi : Nat) (r : Nat × Nat) : List (Nat × Nat) :=
  if hi ≤ r.1 || r.2 ≤ lo then [r]
  else (if r.1 < lo then [(r.1, lo)] else []) ++ (if hi < r.2 then [(hi, r.2)] else [])

/-- What the manual leaves open of the bytes of a read, and nothing else, is free (R185, R230, R429). -/
def freeSome (s : State) (h : Home) : Nat → List Byte → List Byte × State
  | _, [] => ([], s)
  | pa, b :: r =>
    let (c, s') := if s.early h false pa || s.staleHome h pa || s.openAt pa then ((s.freeBytes 1).1.getD 0 b, (s.freeBytes 1).2) else (b, s)
    let (r, s') := freeSome s' h (pa + 1) r
    (c :: r, s')

/-- Bytes that a read was issued for before an MXWAIT covered them, free though it is performed after it (R230). -/
def freeLate (s : State) (late : List (Nat × Nat)) : Nat → List Byte → List Byte × State
  | _, [] => ([], s)
  | pa, b :: r =>
    let (c, s') := if late.any fun e => e.1 ≤ storeOff pa && storeOff pa < e.2 then ((s.freeBytes 1).1.getD 0 b, (s.freeBytes 1).2) else (b, s)
    let (r, s') := freeLate s' late (pa + 1) r
    (c :: r, s')
/-- The request writes. -/
def Req.write (r : Req) : Bool := match r.op with | .load _ => false | _ => true
/-- An MXWAIT has covered bytes of a core's store (R230): the reads on their way to them were issued before it. -/
def State.readLate (s : State) (c : CoreId) (rs : List (Nat × Nat)) : State :=
  let pkt (k : Packet) : Packet := match k.msg with
    | .req r => if !r.write && r.home == .core c && !rs.isEmpty then { k with msg := .req { r with early := rs ++ r.early } } else k
    | _ => k
  { s with net := s.net.map pkt, outgoing := s.outgoing.map fun (o : Outgoing) => { o with pkt := pkt o.pkt } }

/-- The bytes a read returns: memory, or free bytes where the manual leaves them open (R185, R230, R429). -/
def State.readBytes (s : State) (h : Home) (pa n : Nat) : List Byte × State := freeSome s h pa (Memory.readN s.mem pa n)

/-- Count an ECC event at a place (R453): a correctable one in set 0, an uncorrectable one in set 1, by its channel or core. -/
def State.eccEvent (s : State) (set_ pa : Nat) : State :=
  let g := pa / 2 ^ 46
  if (amGet? s.pkgs g).isNone then s
  else s.lifeAdd g set_ (if inStore pa then 512 + (s.pkg g).physCore ((pa % 2 ^ 46 - 0x100000000000) / 2 ^ 20) else s.channelOf pa) 1
/-- Count an ECC event in an array of a core. -/
def State.eccCore (s : State) (set_ : Nat) (c : CoreId) : State := s.lifeAdd (s.logPkg c.part c.pkg) set_ (512 + s.physCore c) 1
/-- An access meets an uncorrectable granule (R196). DESIGN CHOICE (log 123): each such meeting is one event. -/
def State.meetBad (s : State) (pa n : Nat) : State :=
  match s.poison.find? fun g => pa / 32 ≤ g && g ≤ (pa + n - 1) / 32 with
  | some g => s.eccEvent 1 (32 * g)
  | none => s

/-- What a read at a home answers. -/
inductive ReadRes where | data (b : List Byte) | refuse | bad
  deriving DecidableEq, Repr

/-- A read its home admits, performed there now (R157, R158, R196, R216). -/
def State.readHere (s : State) (a : Actor) (h : Home) (pa n : Nat) : ReadRes × State :=
  let s := s.conflict a.core.part a.task false pa n
  if s.poisoned pa n then (.bad, s.meetBad pa n)
  else let (b, s) := s.readBytes h pa n; (.data b, s)

/-- A read performed at its home now (R157, R158, R192, R196, R216). -/
def State.readAt (s : State) (a : Actor) (h : Home) (pa n : Nat) : ReadRes × State :=
  if s.refused a.core h .rd pa n then (.refuse, s.countRefusal h) else s.readHere a h pa n

/-- The side array of an allotted block holds one of the bytes (R359). -/
def State.inSide (s : State) (part : Nat) (b : RingBlk) (pa n : Nat) : Bool :=
  let atbl := (s.part part).atbl
  let lo := b.base + b.slotsz * b.count
  (List.range ((8 * b.count + lo % 524288 + 524287) / 524288)).any fun i =>
    let va := (lo / 524288 + i) * 524288
    match (walkAll part (fld atbl 48 16) va 4 0 (fld atbl 12 36 * 2 ^ 16) s).1 with
    | .leaf e =>
      let f := e.pa + va % 2 ^ e.bits
      let from_ := if i = 0 then f + lo % 524288 else f
      let to_ := if f + 524288 < f + (lo + 8 * b.count - va) then f + 524288 else f + (lo + 8 * b.count - va)
      pa < to_ && from_ < pa + n
    | _ => false

/-- A store into a side array leaves that ring's tags open (R359). -/
def State.soil (s : State) (part : Nat) (pa n : Nat) : State :=
  { s with clusters := s.clusters.map fun (k, c) =>
      if (cluOfKey k).part == part then
        (k, { c with blocks := c.blocks.map fun (i, b) => (i, if s.inSide part b pa n then { b with soiled := true } else b) })
      else (k, c) }

/-- The bytes `new` over `old` from an address, but where a granule of 8 bytes holds racing values (R230) it keeps either, by one free choice a
granule. -/
def keepGranules (s : State) (raced : Nat → Bool) : Nat → List Byte → List Byte → State × List Byte
  | _, [], _ => (s, [])
  | _, _, [] => (s, [])
  | pa, o :: os, n :: ns =>
    let (w, s') := s.freeWord
    let s1 := if (pa + 1) % 8 = 0 then s' else s
    let (s2, r) := keepGranules s1 raced (pa + 1) os ns
    (s2, (if !raced pa || bitAt w 0 then n else o) :: r)

/-- Write bytes into memory with what R196 says of uncorrectable granules. -/
def State.poke (s : State) (pa : Nat) (b : List Byte) : State :=
  { s with mem := Memory.writeN s.mem pa b
           openBytes := s.openBytes.flatMap (cutRange pa (pa + b.length))
           poison := s.poison.filter fun g => !(pa ≤ 32 * g && 32 * g + 32 ≤ pa + b.length) }

/-- A write performed at its home now (R157, R158, R189): conflicts, undo records, bytes, and what a store touches besides
(R185, R230, R359). `store` marks a context's write. -/
def State.writeAt (s : State) (a : Actor) (h : Home) (pa : Nat) (b : List Byte) (store : Bool) : State :=
  let n := b.length
  let s := s.conflict a.core.part a.task true pa n
  let s := s.undoFor a.core.part a.task pa n
  let s := if inStore pa then s
    else { s with dirty := (sectorsOf pa n).map (fun x => (x, h)) ++ s.dirty.filter fun d => !(sectorsOf pa n).contains d.1 }
  let (s, b) := match h with
    | .core c =>
      if store && inStore pa then
        keepGranules (s.modCore c fun k => { k with mxq := k.mxq.map fun (q : MxCmd) => { q with stores := (storeOff pa, storeOff pa + n) :: q.stores } })
          (s.early h true) pa (Memory.readN s.mem pa n) b
      else (s, b)
    | .llc _ _ => (s, b)
  let s := s.poke pa b
  if store && !inStore pa then s.soil a.core.part pa n else s

/-- Other L1 data caches that hold a sector of the bytes, as keys (R188). -/
def State.holders (s : State) (src : CoreId) (pa n : Nat) : List Nat :=
  if !cacheable pa then []
  else (s.cores.filter fun p => p.1 != src.key && (sectorsOf pa n).any fun x => p.2.l1d.contains x).map (·.1)

/-- Drop the sectors of the bytes from every other L1 data cache (R189), where a write is one step. -/
def State.invalidateOthers (s : State) (src : CoreId) (pa n : Nat) : State :=
  (s.holders src pa n).foldl (fun s k =>
    s.modCore (coreOfKey k) fun c => { c with l1d := c.l1d.filter fun x => !(sectorsOf pa n).contains x }) s

/-- A write with its invalidations in one step (R189), as the engines, the MXU and merges make it. -/
def State.writeNow (s : State) (a : Actor) (h : Home) (pa : Nat) (b : List Byte) (store : Bool) : State :=
  (s.invalidateOthers a.core pa b.length).writeAt a h pa b store

end Sys2Proof.Machine
namespace Sys2Proof

/-- The value an atomic or reduction leaves (R203). -/
def AtOp.apply (op : AtOp) (bytes m x c : Nat) : Nat :=
  let w := 8 * bytes
  let sm := Machine.sext m w
  let sx := Machine.sext x w
  match op with
  | .add => (m + x) % 2 ^ w
  | .and => Nat.land m x
  | .or => Nat.lor m x
  | .xor => Nat.xor m x
  | .mins => if sx < sm then x else m
  | .minz => min m x
  | .maxs => if sm < sx then x else m
  | .maxz => max m x
  | .swap => x
  | .cas => if m = c then x else m
  | .fadd => let f := if bytes = 4 then Machine.fp32 else Machine.fp64; (f.deliver Machine.rneMode (Machine.exAdd false (f.dec m) (f.dec x))).1

end Sys2Proof
namespace Sys2Proof.Machine

/-- A cached reply for a request (R205): none when it has not been applied. -/
def State.cached (s : State) (part : Nat) (h : Home) (src seq : Nat) : Option (Option Nat) :=
  (s.replies.find? fun r => r.1 == part && r.2.1 == h && r.2.2.1 == src && r.2.2.2.1 == seq).map fun r => r.2.2.2.2
/-- The newest sequence a home has applied from a source. -/
def State.newest (s : State) (part : Nat) (h : Home) (src : Nat) : Nat :=
  ((s.replies.filter fun r => r.1 == part && r.2.1 == h && r.2.2.1 == src).map fun r => r.2.2.2.1).foldl max 0
/-- Keep a reply, dropping those more than 63 below the newest (R205). -/
def State.cacheReply (s : State) (part : Nat) (h : Home) (src seq : Nat) (v : Option Nat) : State :=
  { s with replies := (part, h, src, seq, v) :: s.replies.filter fun r =>
      !(r.1 == part && r.2.1 == h && r.2.2.1 == src && r.2.2.2.1 + 63 < seq) }

/-! ### Update logs (R207-R211) -/

/-- Records a log can hold. -/
def Part.logSize (q : Part) : Nat := fld q.uplog 0 8 * 2048
/-- Where record `i` of a core's log lies. -/
def State.recordVa (s : State) (c : CoreId) (i : Nat) : Nat :=
  let u := (s.part c.part).uplog
  fld u 16 40 * 65536 + c.vc * fld u 0 8 * 65536 + 32 * i

/-- The physical place of a log record, through the partition's tables as the home translates it (R207, log 11). -/
def State.recordPa (s : State) (c : CoreId) (i : Nat) : Option Nat :=
  match (s.translate (.data c) none .none_ .supervisor (s.recordVa c i)).1 with
  | .ok e => some (e.pa + s.recordVa c i % 2 ^ e.bits)
  | _ => none
/-- The translation of a record's place must be walked first, or wait (R237, R343): what that leaves. -/
def State.recordWaits (s : State) (c : CoreId) (i : Nat) (who : Waiter) : Option State :=
  match s.translate (.data c) (some who) .none_ .supervisor (s.recordVa c i) with
  | (.miss, s) => some (s.startWalk c.clu c (fld (s.part c.part).atbl 48 16) (s.recordVa c i) who)
  | (.wait, _) => some s
  | _ => none
/-- The same once it has been translated: the translation is in the core's TLB. -/
def State.recordIn (s : State) (c : CoreId) (i : Nat) (who : Waiter) : State :=
  (s.translate (.data c) (some who) .none_ .supervisor (s.recordVa c i)).2

/-- The bytes of a record (R210). -/
def recordBytes (flt dbl : Bool) (pa x src seq : Nat) : List Byte :=
  toBytes (pa + b2n flt * 2 ^ 63 + b2n dbl * 2 ^ 62) 8 ++ toBytes x 8 ++ toBytes src 8 ++ toBytes seq 8

/-- Append a record at its home, or refuse it (R209). DESIGN CHOICE (log 120): a record whose place in the log area does not translate is
refused as one that meets a full log. -/
def State.appendRecord (s : State) (home : CoreId) (flt dbl : Bool) (pa x src seq : Nat) : Option State :=
  let n := (s.core home).logCount
  if n ≥ (s.part home.part).logSize then none
  else match s.recordPa home n with
    | none => none
    | some a =>
      some ((s.poke a (recordBytes flt dbl pa x src seq)).modCore home fun k => { k with logCount := n + 1 })

/-! ### Replies -/

/-- Payload flits of a load's reply: a sector when it can be cached, else what does not fit in a header (R371). -/
def replyLen (pa n : Nat) : Nat := if cacheable pa then 2 else if n ≤ 32 then 0 else ceilDiv n 64

/-- Where a request's reply comes from: the replica that is read, else the home. -/
def Req.from_ (r : Req) (k : Packet) : Agent := if r.replicated.isSome then k.dst else r.home.agent

/-- The agent a request's reply goes to (R371, R376). -/
def Req.asker (r : Req) : Agent :=
  match r.via with
  | .ctx | .done _ => .core r.src.core
  | .job _ pkg e _ => .engine pkg e
  | .walk _ c => .core c
  | .code c _ _ => .core c.core
  | .unit u => .task u

def State.replyAck (s : State) (r : Req) : State :=
  s.send r.src.core.part 1 r.home.agent r.asker 0 (if r.via = .ctx then .ack r.src r.acc else .jack r.via r.acc)
def State.replyNack (s : State) (r : Req) (from_ : Agent) (cause : Nat) : State :=
  s.send r.src.core.part 1 from_ r.asker 0 (if r.via = .ctx then .nack r.src r.acc cause else .jnack r.via r.acc cause)
def State.replyData (s : State) (r : Req) (from_ : Agent) (len : Nat) (err : Bool) (b : List Byte) : State :=
  s.send r.src.core.part 1 from_ r.asker len (if r.via = .ctx then .data r.src r.acc err b else .jdata r.via r.acc err b)

/-- The request is a context's own, or the store of a completion word made for it (R332). -/
def Req.ofCtx (r : Req) : Bool := match r.via with | .ctx | .done _ => true | _ => false
def Req.actor (r : Req) : Actor :=
  { core := r.src.core, task := r.task, engine := match r.via with | .job _ _ _ _ => true | _ => false }
/-- A read of a walker, which is untracked and waits for nothing (R235). -/
def Req.isWalk (r : Req) : Bool := match r.via with | .walk _ _ => true | _ => false
/-- A read of instruction words (R96), which is untracked (R153). -/
def Req.isCode (r : Req) : Bool := match r.via with | .code _ _ _ => true | _ => false
/-- A read that is ordered with no other source's accesses (R96, R235). -/
def Req.apart (r : Req) : Bool := r.isWalk || r.isCode

/-- Its home's windows refuse a request that has been delivered (R192, R194): as they stood when it arrived. -/
def State.refusesReq (s : State) (k : Packet) (r : Req) : Bool := k.judged.getD (s.refused r.src.core r.home r.op.perm r.pa r.op.bytes)
/-- WINn is to be written: the requests that have reached their home before keep what the old value said of them; those of this very cycle do
not (R194, R215). -/
def State.judgeBefore (s : State) (c : CoreId) : State :=
  { s with net := s.net.map fun (k : Packet) => match k.msg with
      | .req r => if k.stage == .ready && r.home == .core c && k.dst == .core c && k.at_ < s.clock then { k with judged := some (s.refusesReq k r) } else k
      | _ => k }

/-- A request waits for a task: for the end of a settled one, or for the accesses of one it aborts (R158, R159). -/
def State.waitsForTask (s : State) (r : Req) : Bool :=
  s.settledHolds r.src.core.part r.task r.pa r.op.bytes || s.conflictWaits r.src.core.part r.task r.write r.pa r.op.bytes

/-- A request that may be turned to in its pair (R375). DESIGN CHOICE (log 122): the access of a task passes requests of other contexts of its
core that wait for a task, since they may wait for this very access. -/
def State.turnOf (s : State) (id : Nat) : Option Packet :=
  match s.pkt? id with
  | some k =>
    let before := (s.net.takeWhile (·.id != id)).filter fun q => q.part == k.part && q.cls == k.cls && q.src == k.src && q.dst == k.dst && q.stage == .ready
    let passed (q : Packet) : Bool := match q.msg, k.msg with
      | .req x, .req r => r.task.isSome && x.src != r.src && s.waitsForTask x
      | _, _ => false
    if k.stage == .ready && before.all passed then some k else none
  | none => none

/-- A request that has arrived and that nothing at its home holds back but aborts it brings (R191, R195, R158): delivered, first of its pair, no
write of the pair under way. -/
def State.couldTurn (s : State) (id : Nat) : Option (Packet × Req) :=
  match s.turnOf id with
  | some k => match k.msg with
    | .req r =>
      if s.homeWrites.any (fun h => h.pkt.part == k.part && h.pkt.src == k.src && h.pkt.dst == k.dst) then none
      else if r.isWalk then some (k, r)
      else if r.isCode then (if s.writeUnderWay r.pa r.op.bytes then none else some (k, r))
      else if s.mustWait r.actor r.home r.pa r.op.bytes then none
      else some (k, r)
    | _ => none
  | none => none

/-- A request its home may turn to: the cycle it arrived in is over, so that all that came in that cycle is known (R168, R194, R215). -/
def State.waitsOnly (s : State) (id : Nat) : Option (Packet × Req) :=
  (s.couldTurn id).filter fun q => q.2.apart || decide (q.1.at_ < s.clock)

/-- Two requests are accesses of two tasks that conflict in some sector (R168). -/
def Req.clashes (q r : Req) : Bool :=
  q.task.isSome && r.task.isSome && q.src.core.part == r.src.core.part && q.task != r.task && (q.write || r.write) &&
  (sectorsOf q.pa q.op.bytes).any fun x => (sectorsOf r.pa r.op.bytes).contains x
/-- The task of one request precedes that of another (R142). -/
def State.earlierTask (s : State) (q r : Req) : Bool :=
  match s.task? q.src.core.part q.task, s.task? r.src.core.part r.task with
  | some t, some u => t.precedes u
  | _, _ => false
/-- Where the source of a request ran when it issued it (R215). -/
def Req.place (r : Req) : List Nat := [r.src.core.pkg, r.src.core.vc, r.src.slot]

/-- The other requests at a home that could be performed now, with a request that arrived in the same cycle held back by the access of a
task that precedes its own (R168) left out of those ordered by their sources (R215). A home performs accesses as they arrive (R191), in
one cycle those of conflicting tasks in precedence order and the others by their sources. -/
def State.first (s : State) (k : Packet) (r : Req) : Bool :=
  let peers := (s.net.filter fun q => q.id != k.id && q.cls == 0 && q.dst == k.dst && q.part == k.part).filterMap fun q => s.waitsOnly q.id
  let peers := peers.filter fun q => !q.2.apart && !s.waitsForTask q.2
  let same := peers.filter fun q => q.1.at_ = k.at_
  let behind (x : Req) (others : List (Packet × Req)) : Bool := others.any fun q => q.2.clashes x && s.earlierTask q.2 x
  !(peers.any fun q => decide (q.1.at_ < k.at_)) && !behind r same &&
  !(same.any fun q => !q.2.clashes r && !behind q.2 same && !(r.clashes q.2 && s.earlierTask r q.2) && lexLt q.2.place r.place)

/-- A request an agent may perform now. -/
def State.performable (s : State) (id : Nat) : Option (Packet × Req) :=
  match s.waitsOnly id with
  | some (k, r) => if r.apart || (s.first k r && !s.heldUp r.actor r.home r.write r.pa r.op.bytes) then some (k, r) else none
  | none => none

/-- What a request that may not be performed yet brings about: the tasks it will abort are stopped (R159). -/
def State.heldReq (s : State) (id : Nat) : State :=
  match s.waitsOnly id with
  | some (k, r) => if s.first k r then s.stopFor r.actor r.home r.write r.pa r.op.bytes else s
  | none => s

/-- A full L1 cache gives up a sector of its own choosing (R20, log 121). -/
def giveUp (w : Word) (n : Nat) (l : List Nat) : List Nat :=
  if l.length < n then l else l.eraseIdx (w.toNat % max 1 l.length)
/-- A core's L1 data cache takes sectors in: it holds 64 KiB, 512 of them (R20, R188). It takes none of which a granule cannot be corrected
(R196). -/
def State.fillL1d (s : State) (c : CoreId) (secs : List Nat) : State :=
  (secs.filter fun x => !(s.core c).l1d.contains x && !s.poisoned x 128).foldl (fun s x =>
    if (s.core c).l1d.length < 512 then s.modCore c fun k => { k with l1d := k.l1d ++ [x] }
    else let (w, s) := s.freeWord; s.modCore c fun k => { k with l1d := giveUp w 512 k.l1d ++ [x] }) s

/-- The L1 instruction cache takes a sector in: it holds 64 KiB, 512 of them, and gives one up of its own choosing (R20, log 121). -/
def State.keepL1i (s : State) (c : CoreId) (key : Nat) (b : List Byte) : State :=
  if (s.core c).l1i.length < 512 then s.modCore c fun k => { k with l1i := amSet k.l1i key b }
  else
    let (w, s) := s.freeWord
    s.modCore c fun k => { k with l1i := amSet (k.l1i.eraseIdx (w.toNat % max 1 k.l1i.length)) key b }

/-- LOAD_REQUEST (R190, R192, R196, R158). -/
def State.loadRequest (s : State) (id : Nat) : State :=
  match s.performable id with
  | some (k, r) => match r.op with
    | .load n =>
      let src := r.from_ k
      let len := match r.via with | .walk _ _ => 0 | _ => replyLen r.pa n
      let s := s.dropPkt id
      match r.via with
      | .walk _ _ =>
        if s.poisoned r.pa n then (s.meetBad r.pa n).replyData r src 0 true [] else s.replyData r src len false (Memory.readN s.mem r.pa n)
      | via =>
        if s.refusesReq k r then (s.countRefusal r.home).replyNack r src cWindow
        else if r.isCode then
          if s.poisoned r.pa n then (s.meetBad r.pa n).replyData r src 0 true []
          else
            let (b, s) := s.readBytes r.home r.pa n
            let (b, s) := freeLate s r.early r.pa b
            s.replyData r src len false b
        else match s.readHere r.actor r.home r.pa n with
        | (.refuse, s) => s.replyNack r src cWindow
        | (.bad, s) => s.replyData r src 0 true []
        | (.data b, s) =>
          let (b, s) := freeLate s r.early r.pa b
          let s := if cacheable r.pa && via == .ctx then s.fillL1d r.src.core (sectorsOf r.pa n) else s
          s.replyData r src len false b
    | _ => s
  | none => s.heldReq id

/-- Stage a write at its home: invalidations go to the other L1 data caches that hold the sector (R189). -/
def State.stageWrite (s : State) (k : Packet) (r : Req) : State :=
  let (h, s) := s.newId
  -- an engine's write leaves no copy: no core is its own
  let own := if r.ofCtx then r.src.core else { r.src.core with part := 16 }
  { s with homeWrites := s.homeWrites ++ [{ id := h, pkt := k, req := r, acks := s.holders own r.pa r.op.bytes }] }

/-- STORE_REQUEST (R189, R192, R193). -/
def State.storeRequest (s : State) (id : Nat) : State :=
  match s.performable id with
  | some (k, r) => match r.op with
    | .store _ | .masked _ =>
      let s := s.dropPkt id
      if s.refusesReq k r then (s.countRefusal r.home).replyNack r r.home.agent cWindow
      else s.stageWrite k r
    | _ => s
  | none => s.heldReq id

/-- L1_INVALIDATE: a cache drops the sector and acknowledges (R189, R372). -/
def State.l1Invalidate (s : State) (h : Nat) (c : CoreId) : State :=
  match s.homeWrites.find? (·.id == h) with
  | none => s
  | some w =>
    if !w.acks.contains c.key then s
    else
      let s := (s.modCore c fun k => { k with l1d := k.l1d.filter fun x => !(sectorsOf w.req.pa w.req.op.bytes).contains x }).thereAndBack
        c.part 2 2 w.req.home.agent (.core c)
      { s with homeWrites := s.homeWrites.map fun w => if w.id == h then { w with acks := w.acks.filter (· != c.key) } else w }

/-- The runs of bytes a masked write holds, each with its place. -/
def maskRuns : Nat → List (Option Byte) → List (Nat × List Byte)
  | _, [] => []
  | i, none :: r => maskRuns (i + 1) r
  | i, some b :: r => match maskRuns (i + 1) r with
    | (k, l) :: t => if k = i + 1 then (i, b :: l) :: t else (i, [b]) :: (k, l) :: t
    | [] => [(i, [b])]

/-- The bytes a request writes, as runs with their places from its address. -/
def ReqOp.runs : ReqOp → List (Nat × List Byte)
  | .store d => [(0, d)]
  | .masked d => maskRuns 0 d
  | _ => []

/-- Apply a request's write at its home and reply (R189, R203, R206): the new value, the acknowledgement or the old value. -/
def State.applyWrite (s : State) (r : Req) : State :=
  match r.op with
  | .store d => (s.writeAt r.actor r.home r.pa d r.ofCtx).replyAck r
  | .masked d => ((maskRuns 0 d).foldl (fun s x => s.writeAt r.actor r.home (r.pa + x.1) x.2 false) s).replyAck r
  | .atomic op n x c =>
    let s := s.conflict r.src.core.part r.task true r.pa n
    let (mb, s) := s.readBytes r.home r.pa n
    let m := ofBytes mb
    let v := op.apply n m x c
    let s := if v ≠ m ∨ op ≠ .cas then s.writeAt r.actor r.home r.pa (toBytes v n) true else s
    (s.cacheReply r.src.core.part r.home r.src.core.srcKey r.aseq (some m)).replyData r r.home.agent 0 false (toBytes m n)
  | .reduce op n x =>
    let s := s.conflict r.src.core.part r.task true r.pa n
    let (mb, s) := s.readBytes r.home r.pa n
    let s := s.writeAt r.actor r.home r.pa (toBytes (op.apply n (ofBytes mb) x 0) n) true
    (s.cacheReply r.src.core.part r.home r.src.core.srcKey r.aseq none).replyAck r
  | _ => s

/-- The exactly-once test of R205: a cached reply is sent again, a stale request dropped, a fresh one goes on. -/
def State.once (s : State) (k : Packet) (r : Req) (go : State → State) : State :=
  let part := r.src.core.part
  match s.cached part r.home r.src.core.srcKey r.aseq with
  | some (some m) => (s.dropPkt k.id).replyData r r.home.agent 0 false (toBytes m r.op.bytes)
  | some none => (s.dropPkt k.id).replyAck r
  | none =>
    if r.aseq + 63 < s.newest part r.home r.src.core.srcKey then s.dropPkt k.id
    else go (s.dropPkt k.id)

/-- ATOMIC_REQUEST (R203, R205, R196): applied at once when no other cache holds the sector. -/
def State.atomicRequest (s : State) (id : Nat) : State :=
  match s.performable id with
  | some (k, r) => match r.op with
    | .atomic _ n _ _ => s.once k r fun s =>
        if s.refusesReq k r then (s.countRefusal r.home).replyNack r r.home.agent cWindow
        else if s.poisoned r.pa n then (s.meetBad r.pa n).replyData r r.home.agent 0 true []
        else if (s.holders r.src.core r.pa n).isEmpty then s.applyWrite r
        else s.stageWrite k r
    | _ => s
  | none => s.heldReq id

/-- REDUCTION_REQUEST (R206, R205, R196). -/
def State.reductionRequest (s : State) (id : Nat) : State :=
  match s.performable id with
  | some (k, r) => match r.op with
    | .reduce _ n _ => s.once k r fun s =>
        if s.refusesReq k r then (s.countRefusal r.home).replyNack r r.home.agent cWindow
        else if s.poisoned r.pa n then (s.meetBad r.pa n).replyNack r r.home.agent cMemErr
        else if (s.holders r.src.core r.pa n).isEmpty then s.applyWrite r
        else s.stageWrite k r
    | _ => s
  | none => s.heldReq id

/-- RLOG_RECORD (R209): the home appends the record, or refuses it. -/
def State.rlogRecord (s : State) (id : Nat) : State :=
  match s.performable id with
  | some (k, r) => match r.op, r.home with
    | .rlog flt dbl x seq, .core c =>
      if let some t := s.recordWaits c (s.core c).logCount (.msg id) then t
      else s.once k r fun s =>
        let s := s.recordIn c (s.core c).logCount (.msg id)
        if s.refusesReq k r then (s.countRefusal r.home).replyNack r r.home.agent cWindow
        else match s.appendRecord c flt dbl r.pa x r.src.core.srcKey seq with
          | some s => (s.cacheReply r.src.core.part r.home r.src.core.srcKey r.aseq none).replyAck r
          | none => s.replyNack r r.home.agent cLogFull
    | _, _ => s
  | none => s.heldReq id

/-- REPLICA_TIMEOUT: a read of a replicated page locked for 2 us is refused (R198). -/
def State.replicaTimeout (s : State) (id : Nat) : State :=
  match s.turnOf id with
  | some k => match k.msg with
    | .req r => match r.op with
      | .load n =>
        if r.replicated.isSome && s.writeUnderWay r.pa n && k.at_ + 2000 * Config.ccPerNs ≤ s.clock then
          (s.dropPkt id).replyNack r (r.from_ k) cReplica
        else s
      | _ => s
    | _ => s
  | none => s

end Sys2Proof.Machine
end

