-- ==== Sys2Proof/Machine/Fibre.lean ====
section
/-! DEFINITION. Fibre trees (12_fibre_trees.md): format records, positions and fibres, malformed fibres. The reads go through
the reader a caller gives: `rd va n` reads n bytes; a fault ends the walk with a cause and an address. -/
namespace Sys2Proof.Machine

/-- A walk that can end in a fault (cause, address). -/
abbrev WalkM (m : Type → Type) := ExceptT (Nat × Nat) m

/-- Bytes of a POS, CRD or AUX entry (R295). -/
def Level.width (l : Level) : Nat := match l.iw with | 0 => 2 | 1 => 4 | _ => 8
/-- Bitmap words of a fibre (R298). -/
def Level.nwords (l : Level) : Nat := ceilDiv l.size 64

/-- The format code of a number (R47). -/
def fmtOfNat : Nat → Option Fmt
  | 0 => some .f32 | 1 => some .f16 | 2 => some .bf16 | 3 => some .i32 | 4 => some .i16 | 5 => some .i8
  | 6 => some .e5m2 | 7 => some .e4m3 | 8 => some .e3m2 | 9 => some .e2m3 | 10 => some .e2m1
  | 11 => some .mxfp8e5m2 | 12 => some .mxfp8e4m3 | 13 => some .mxfp6e3m2 | 14 => some .mxfp6e2m3
  | 15 => some .mxfp4 | 16 => some .nx4 | 17 => some .i4 | _ => none

/-- A level descriptor at an address, if R296 admits it. -/
def levelOf (at_ : Nat) (b : List Byte) : Option Level :=
  let w := wd (dword b 0)
  let k := fld w 0 3
  let iw := fld w 4 2
  let l : Level := { kind := k, iw := iw, size := fld w 32 32, pos := dword b 1, crd := dword b 2, aux := dword b 3, desc := at_ }
  let ew := l.width
  let ok := k ≤ 4 && iw ≠ 3 && l.size ≠ 0 && !bitAt w 3 && fld w 6 26 = 0 &&
    (match k with
      | 0 => iw = 0 && l.pos = 0 && l.crd = 0 && l.aux = 0
      | 1 => l.aux = 0 && l.pos % ew = 0 && l.crd % ew = 0
      | 2 => l.aux = 0 && l.pos % ew = 0 && l.crd % 8 = 0
      | 3 => l.pos = 0 && l.aux = 0 && l.crd % ew = 0
      | _ => l.pos % ew = 0 && l.crd % ew = 0 && l.aux % ew = 0)
  if ok then some l else none

/-- Read the level descriptors of a record. -/
def readLevels {m : Type → Type} [Monad m] (rdB : Nat → Nat → WalkM m (List Byte)) (va : Nat) : Nat → WalkM m (Option (List Level))
  | 0 => pure (some [])
  | n + 1 => do
    let b ← rdB va 32
    match levelOf va b, ← readLevels rdB (va + 32) n with
    | some l, some r => pure (some (l :: r))
    | _, _ => pure none

/-- Read and validate a format record (R294-R296). DESIGN CHOICE (log 151): a record at an address that is no multiple of 32 fails validation, and
nothing of it is read; a walk descriptor that names one is invalid (R281). -/
def readRecord {m : Type → Type} [Monad m] (rdB : Nat → Nat → WalkM m (List Byte)) (va : Nat) : WalkM m (Option FRec) := do
  if va % 32 ≠ 0 then return none
  let b ← rdB va 32
  let c := wd (dword b 2)
  let n := fld c 0 4
  if n = 0 ∨ 8 < n then return none
  -- every part of the record is read before any of it is judged (R291)
  let levels ← readLevels rdB (va + 32) n
  match fmtOfNat (fld c 8 5), levels with
  | some f, some ls =>
    if fld c 4 4 ≠ 0 ∨ fld c 13 51 ≠ 0 ∨ dword b 3 ≠ 0 ∨ (f.block = 0) ≠ (dword b 1 = 0) ∨ dword b 0 % f.elemBytes ≠ 0 then return none
    return some { vals := dword b 0, scales := dword b 1, vfmt := f, levels := ls }
  | _, _ => return none

/-- A fibre defect (R299, R300). -/
def defect {m : Type → Type} [Monad m] {α : Type} (addr : Nat) : WalkM m α := throw (cFibre, addr)

def FRec.level (f : FRec) (l : Nat) : Level := f.levels.getD l default

/-- The address of entry `i` of an array (R298). -/
def entryAt (base w i : Nat) : Nat := (base + i * w) % 2 ^ 64

/-- The fibre count of level `l` (R297), exactly: what overflows above the walk's level is no defect of the fibre it walks (R300). -/
def fibreCount {m : Type → Type} [Monad m] (rd : Nat → Nat → WalkM m Nat) (f : FRec) : Nat → WalkM m Nat
  | 0 => pure 1
  | l + 1 => do
    let v := f.level l
    match v.kind with
    | 0 => do
      let n ← fibreCount rd f l
      pure (n * v.size)
    | 3 => fibreCount rd f l
    | _ => do
      let n ← fibreCount rd f l
      rd (entryAt v.pos v.width n) v.width

/-- The least coordinate at or above `c` whose bit is set, below `c + fuel`. -/
def nextBit (bits : Nat) : Nat → Nat → Option Nat
  | 0, _ => none
  | fuel + 1, c => if bits / 2 ^ c % 2 = 1 then some c else nextBit bits fuel (c + 1)

/-- Set bits of a number below 2^n. -/
def popN (v : Nat) : Nat → Nat
  | 0 => 0
  | n + 1 => v / 2 ^ n % 2 + popN v n

/-- The words of a bitmap fibre, as one number. -/
def readWords {m : Type → Type} [Monad m] (rd : Nat → Nat → WalkM m Nat) (base i : Nat) : Nat → WalkM m Nat
  | 0 => pure 0
  | n + 1 => do
    let w ← rd (entryAt base 8 i) 8
    let r ← readWords rd base (i + 1) n
    pure (w + 2 ^ 64 * r)

/-- Begin a walk: bounds, and the defects that withhold the whole fibre (R297-R300). -/
def walkStart {m : Type → Type} [Monad m] (rd : Nat → Nat → WalkM m Nat) (w : Walker) : WalkM m WSt := do
  let v := w.frec.level w.level
  let p := if w.level = 0 then 0 else w.parent
  let z : WSt := { p := p, gone := false, lo := 0, hi := 0, r := 0, off := 0, prev := none, run := none, bits := 0, peek := none }
  let n ← fibreCount rd w.frec w.level
  if n ≤ p then return { z with gone := true }
  match v.kind with
  | 0 => if 2 ^ 64 ≤ n * v.size then defect v.desc else return { z with hi := v.size }
  | 3 => return { z with hi := 1 }
  | k => do
    let lo ← rd (entryAt v.pos v.width p) v.width
    let hi ← rd (entryAt v.pos v.width (p + 1)) v.width
    if hi < lo then defect (entryAt v.pos v.width (p + 1))
    if k = 2 then
      let bits ← readWords rd v.crd (p * v.nwords) v.nwords
      if popN bits (64 * v.nwords) ≠ hi - lo then defect (entryAt v.crd 8 (p * v.nwords))
      return { z with lo := lo, hi := hi, r := lo, bits := bits }
    else return { z with lo := lo, hi := hi, r := lo }

/-- The next element (c, q) of a walk, or its end (R298-R300). DESIGN CHOICE (log 151): AUX[r] of a run is read before CRD[r] is judged, so that a
fault of that read comes first. -/
def walkNext {m : Type → Type} [Monad m] (rd : Nat → Nat → WalkM m Nat) (w : Walker) (s : WSt) : WalkM m (Option (Nat × Nat) × WSt) := do
  let v := w.frec.level w.level
  match s.peek with
  | some e => return (some e, { s with peek := none })
  | none =>
    if s.gone then return (none, s)
    match v.kind with
    | 0 => if s.off < s.hi then return (some (s.off, s.p * v.size + s.off), { s with off := s.off + 1 }) else return (none, s)
    | 1 =>
      if s.hi ≤ s.r then return (none, s)
      let a := entryAt v.crd v.width s.r
      let c ← rd a v.width
      if (match s.prev with | some b => decide (c ≤ b) | none => false) then defect a
      if v.size ≤ c then defect a
      return (some (c, s.r), { s with r := s.r + 1, prev := some c })
    | 2 =>
      match nextBit s.bits (v.size - s.off) s.off with
      | some c => return (some (c, s.r), { s with r := s.r + 1, off := c + 1 })
      | none =>
        if s.bits / 2 ^ v.size ≠ 0 then defect (entryAt v.crd 8 (s.p * v.nwords + v.nwords - 1))
        return (none, s)
    | 3 =>
      if s.hi ≤ s.r then return (none, s)
      let a := entryAt v.crd v.width s.p
      let c ← rd a v.width
      if v.size ≤ c then defect a
      return (some (c, s.p), { s with r := s.r + 1 })
    | _ =>
      match s.run with
      | some (c, last) =>
        if c = last then return (some (c, s.r), { s with run := none, r := s.r + 1, prev := some last })
        else return (some (c, s.r), { s with run := some (c + 1, last) })
      | none =>
        if s.hi ≤ s.r then return (none, s)
        let a := entryAt v.crd v.width s.r
        let c ← rd a v.width
        let n ← rd (entryAt v.aux v.width s.r) v.width
        if (match s.prev with | some b => decide (c ≤ b) | none => false) then defect a
        if v.size ≤ c + n then defect a
        if n = 0 then return (some (c, s.r), { s with r := s.r + 1, prev := some c })
        return (some (c, s.r), { s with run := some (c + 1, c + n) })

/-- Pass `k` elements of a fresh walk: at once where entries are independent, else by walking. -/
def walkSkip {m : Type → Type} [Monad m] (rd : Nat → Nat → WalkM m Nat) (w : Walker) : Nat → WSt → WalkM m WSt
  | 0, s => pure s
  | k + 1, s => do
    let v := w.frec.level w.level
    match v.kind with
    | 0 => pure { s with off := s.off + (k + 1) }
    | 3 => pure { s with r := s.r + (k + 1) }
    | 1 =>
      let r := min (s.lo + (k + 1)) s.hi
      if r = s.lo then pure s
      else do
        let c ← rd (entryAt v.crd v.width (r - 1)) v.width
        pure { s with r := r, prev := some c }
    | _ => do
      let (_, s) ← walkNext rd w s
      walkSkip rd w k s

/-- The element a walk will give next, read and kept. -/
def walkPeek {m : Type → Type} [Monad m] (rd : Nat → Nat → WalkM m Nat) (w : Walker) (s : WSt) : WalkM m (Option (Nat × Nat) × WSt) := do
  match ← walkNext rd w s with
  | (some e, s') => return (some e, { s' with peek := some e })
  | (none, s') => return (none, s')

/-- The bits a floating value keeps and an integer value extends into, as DELIV 1 delivers them (R281). -/
def delivValue (f : Fmt) (v : Nat) : Word :=
  match f.elem with
  | .flt _ => wd v
  | .int b => sextW (v % 2 ^ b) b

/-- What a pop delivers of an element (R281). -/
def walkDeliver {m : Type → Type} [Monad m] (rd : Nat → Nat → WalkM m Nat) (w : Walker) (e : Nat × Nat) : WalkM m Word :=
  match w.deliv with
  | 0 => pure (wd e.1)
  | 1 => do
    let n := w.frec.vfmt.elemBytes
    let v ← rd (entryAt w.frec.vals n e.2) n
    pure (delivValue w.frec.vfmt v)
  | _ => pure (wd e.2)

/-- A walk descriptor's 32 bytes and its record, validated (R281): none when a check fails. FCHK does not check DELIV (R304). -/
def readWalker {m : Type → Type} [Monad m] (rdB : Nat → Nat → WalkM m (List Byte)) (deliv : Bool) (b : List Byte) :
    WalkM m (Option Walker) := do
  let c := wd (dword b 2)
  let lv := fld c 0 3
  let dv := if deliv then fld c 4 2 else 0
  -- the record is read before the descriptor is judged (R291)
  match ← readRecord rdB (dword b 0) with
  | none => return none
  | some f =>
    if bitAt c 3 || fld c 6 58 ≠ 0 || dword b 3 ≠ 0 || dv = 3 then return none
    if f.levels.length ≤ lv ∨ (dv = 1 ∧ (lv + 1 ≠ f.levels.length ∨ f.vfmt.width < 8 ∨ f.vfmt.block ≠ 0)) then return none
    return some { frec := f, parent := dword b 1, level := lv, deliv := dv }

end Sys2Proof.Machine
end

