-- ==== Sys2Proof/Machine/Streams.lean ====
section
/-! DEFINITION. Reads that an instruction makes while it executes, and the stream engine (11_streams.md R266-R293): what a binding
fetches, what its head holds, and popping. -/
namespace Sys2Proof.Machine

/-- Why a read does not complete: something must finish first, perhaps leaving a change behind, or a walk. -/
inductive RStop where | wait | walk (u : CluId) (asid va : Nat) | leave (f : State → State)

/-- Reads of an instruction, over a state. -/
abbrev RM := StateT State (Except RStop)

/-- An access of the context to a home is still to be performed there (R190, R191): one whose data has come back has been. -/
def Ctx.busyAt (x : Ctx) (h : Home) : Bool := x.out.any fun a => a.home == some h && a.got.isNone
/-- An access of the context to a home is on its way to another agent than the one an access goes to (R191, R197): a write of a replicated
page goes to the primary, a read to the reader's replica. The accesses of one instruction do not hold each other back. -/
def Ctx.elsewhere (x : Ctx) (h : Home) (target : Agent) : Bool :=
  x.out.any fun a => a.home == some h && a.got.isNone && a.target != target && a.icount != x.icount
/-- For whom a context's accesses are performed. -/
def Ctx.actor (x : Ctx) (c : CoreId) : Actor := { core := c, task := x.task }

/-- Earlier accesses that a fence, an LDA or an acquiring reply awaits before a load-like access is sent (R200, R212, R367). -/
def Ctx.loadHeld (x : Ctx) : Bool :=
  x.out.any fun a => a.acc ≤ x.ldAfterAll || (a.loadLike && a.acc ≤ x.ldAfterLd) || a.acc == x.allAfter
/-- A push whose word has not come yet keeps later accesses to its home back (R276). -/
def Ctx.pushHeld (x : Ctx) (h : Home) : Bool := x.out.any fun a => a.pend.isSome && a.home == some h
/-- The same before a store-like access. -/
def Ctx.storeHeld (x : Ctx) : Bool :=
  x.out.any fun a => a.acc ≤ x.stAfterAll || (a.loadLike && a.acc ≤ x.stAfterLd) || a.acc == x.allAfter

/-- Landing buffers a core's contexts, instruction fetches and walkers hold (R376). -/
def State.buffersHeld (s : State) (c : CtxId) (x : Ctx) : Nat :=
  let n (y : Ctx) : Nat := (y.out.filter (·.buf)).length
  n x + ((slotsOf c.core).filter (· != c)).foldl (fun m k => m + ((s.ctx? k).map n).getD 0) 0 +
  (s.walks.filter fun w => w.asked && w.core == c.core).length + (s.core c.core).codeAsked.length

/-- A core has performed an access of its own at itself as it issued: no request of another source reaches it in this cycle any more (R215). -/
def State.ownDone (s : State) (c : CoreId) : State := s.modCore c fun k => { k with ownAt := s.clock + 1 }
/-- Another source's access has arrived at a core and goes before an access the core makes to itself now (R191, R215). -/
def State.sooner (s : State) (c : CoreId) : Bool :=
  s.net.any fun k => k.dst == .core c && k.cls == 0 && k.stage == .ready && (k.at_ == s.clock ||
    match s.couldTurn k.id with
    | some (_, r) => !r.apart && !s.waitsForTask r
    | none => false)
/-- An access whose home is the core itself and that nothing holds back is performed as it issues: no earlier access of the context is on
its way there, and no other source's that has arrived goes before it (R191, R215). -/
def State.ownHome (s : State) (c : CtxId) (x : Ctx) (l : Loc) (write : Bool) (n : Nat) : Bool :=
  l.home == .core c.core && l.repl.isNone && !x.busyAt l.home && !s.heldUp (x.actor c.core) l.home write l.pa n && !s.sooner c.core

/-- The L1 data cache serves a load (R188, R190, R196). -/
def State.l1Serves (s : State) (c : CtxId) (x : Ctx) (l : Loc) (n : Nat) : Bool :=
  cacheable l.pa && (sectorsOf l.pa n).all (fun y => (s.core c.core).l1d.contains y) && !x.busyAt l.home &&
  !s.settledHolds c.core.part x.task l.pa n && !s.conflictWaits c.core.part x.task false l.pa n

/-- The core a context was started on. -/
def Ctx.originCore (x : Ctx) (part : Nat) : CoreId := { part := part, pkg := x.opkg, vc := x.ovc }

/-- The cores the context's next instruction has asked to move to in vain (R126). -/
def Ctx.triedHomes (x : Ctx) : List CoreId :=
  match x.moving with
  | some m => if m.answered && m.slot.isNone then m.target :: x.tried else x.tried
  | none => x.tried
/-- Begin a migration to a core (R122): a reservation is asked of it, or none is needed for a return home. -/
def State.startMove (s : State) (c : CtxId) (x : Ctx) (h : CoreId) (dest : Option Reg) : State :=
  let x := { x with tried := x.triedHomes }
  if h = x.originCore c.core.part then
    s.putCtx c { x with moving := some { target := h, slot := some x.oslot, asked := none, dest := dest, answered := true } }
  else
    (s.putCtx c { x with moving := some { target := h, slot := none, asked := some s.clock, dest := dest, answered := false } }).send
      c.core.part 0 (.core c.core) (.core h) 0 (.reserve c h)

/-- The core an attempt to migrate to an access goes to (R122, R126): none where it does not return OK or BUSY, or where that core has refused the
context's next instruction before. -/
def Ctx.attemptTo (x : Ctx) (c : CoreId) (l : Loc) : Option CoreId :=
  if x.movable then l.homeCore.filter fun h => h != c && !x.triedHomes.contains h else none

/-- A read of this address is on its way for the context's next instruction. -/
def Ctx.asked (x : Ctx) (va n : Nat) : Bool :=
  x.out.any fun a => a.dest == .fetch && a.va == va && a.bytes == n && a.icount == x.icount && a.pc == x.pc

/-- Send a read of the instruction, or of the stream engine, to its home (R275, R376): it takes a landing buffer where the home is remote, and
`issuing` says that an issue attempt is refused where there is none. Its answer is kept for the instruction, which is tried again. -/
def State.askRead (s : State) (c : CtxId) (issuing : Bool) (l : Loc) (n : Nat) : State :=
  match s.ctx? c with
  | none => s
  | some x =>
    let target := l.reader.agent
    let remote := target != .core c.core
    if x.asked l.va n || x.elsewhere l.home target then s
    else if remote && 128 ≤ s.buffersHeld c x then
      if issuing then s.modCore c.core fun k => { k with lbWaits := (k.lbWaits + 1) % 2 ^ 32 } else s
    else
      let s := match x.task with
        | some id => (s.track c id false l.pa n).getD s
        | none => s
      let a : Access :=
        { acc := x.accCtr + 1, seq := s.nextId, grp := 0, home := some l.home, target := target, page := l.page, va := l.va, loadLike := true
          storeLike := false, dest := .fetch, bytes := n, pc := x.pc, icount := x.icount, hold := false, buf := remote, posted := false
          seqd := false, got := none, err := none, pend := none, before := none, popped := [] }
      let r : Req :=
        { src := c, acc := a.acc, va := l.va, pa := l.pa, home := l.home, op := .load n, task := x.task, posted := none, aseq := 0
          replicated := l.repl, via := .ctx }
      (s.putCtx c { x with accCtr := a.acc, out := x.out ++ [a] }).send c.core.part 0 (.core c.core) target 0 (.req r)

/-- One read of a context within a sector (R190, R191, R153): an answer that has come, a read performed at once in its own core or L1
cache, else a read to be sent. `inline` is the read of a restored binding, made at once (R429). -/
def ctxReadIn (c : CtxId) (x : Ctx) (inline : Bool) (va n : Nat) : WalkM RM (List Byte) := do
  let s ← get
  match x.reads.find? fun r => r.icount == x.icount && r.pc == x.pc && r.va == va && r.n == n with
  | some r => match r.cause with
    | some f => throw (f, va)
    | none => return r.bytes
  | none =>
    let who := TlbWho.data c.core
    match s.resolve c.core who (if inline then none else some (.ctx c x.icount)) .read x.priv va n with
    | (.fault f, s) => set s; throw (f, va)
    | (.miss, s) => throwThe RStop (.walk who.clu (fld (s.part c.core.part).atbl 48 16) va)
    | (.wait, _) => throwThe RStop .wait
    | (.ok l, s) =>
      -- a page that asks to be run at home: an attempt, after which the count is 0 (R126)
      if !inline && l.rah && x.rah then
        match x.attemptTo c.core l with
        | some h => throwThe RStop (.leave fun s => match s.ctx? c with
          | some y => s.startMove c { y with remCount := 0 } h none
          | none => s)
        | none => if x.remCount ≠ 0 then throwThe RStop (.leave fun s => s.modCtx c fun y => { y with remCount := 0 })
      if x.loadHeld || x.pushHeld l.home then throwThe RStop .wait
      else
        let tracked := match x.task with
          | some id => (s.track c id false l.pa n).getD s
          | none => s
        if s.ownHome c x l false n || inline then
          match tracked.readAt (x.actor c.core) l.home l.pa n with
          | (.data b, s) => set (if inline then s else s.ownDone c.core); pure b
          | (.refuse, s) => set s; throw (cWindow, va)
          | (.bad, s) => set s; throw (cMemErr, va)
        else if s.l1Serves c x l n then
          let (b, s) := (tracked.conflict c.core.part x.task false l.pa n).readBytes l.home l.pa n
          set s
          pure b
        else throwThe RStop (.leave fun s => s.askRead c true l n)

/-- A read of bytes in one sector or several (R376). -/
def ctxReads (c : CtxId) (x : Ctx) (inline : Bool) : Nat → Nat → Nat → WalkM RM (List Byte)
  | 0, _, _ => pure []
  | fuel + 1, va, n => do
    let k := 128 - va % 128
    if n ≤ k then ctxReadIn c x inline va n
    else return (← ctxReadIn c x inline va k) ++ (← ctxReads c x inline fuel (va + k) (n - k))

/-- A read of `n` bytes that an instruction makes while it executes. -/
def ctxRead (c : CtxId) (x : Ctx) (inline : Bool) (va n : Nat) : WalkM RM (List Byte) := ctxReads c x inline (n / 128 + 2) va n

/-- A read that yields a number. -/
def ctxReadN (c : CtxId) (x : Ctx) (inline : Bool) (va n : Nat) : WalkM RM Nat := do return ofBytes (← ctxRead c x inline va n)

/-! ### Patterns (R280) -/

/-- Elements of a pattern. -/
def Pattern.total (p : Pattern) : Nat := p.dims.foldl (fun n d => n * d.1) 1
/-- The offset of an ordinal: dimension 0 varies fastest. -/
def patOff : List (Nat × Int) → Nat → Int
  | [], _ => 0
  | (n, st) :: r, o => (o % max 1 n : Nat) * st + patOff r (o / max 1 n)
/-- The address of an ordinal. -/
def Pattern.addr (p : Pattern) (o : Nat) : Nat := wrapN ((p.base : Int) + patOff p.dims o) 64
/-- N0. -/
def Pattern.n0 (p : Pattern) : Nat := (p.dims.head?.map (·.1)).getD 0

/-- Control values (R272), without their STREAM field. -/
def ctlEnd : Word := 1
def ctlRow (o : Nat) : Word := wd (o % 2 ^ 48 * 65536 + 2)
def ctlNend : Word := 3

/-- A stream read from memory. -/
def SKind.isFibre : SKind → Bool | .fibre | .isect | .union => true | _ => false
def SKind.isPair : SKind → Bool | .isect | .union => true | _ => false
/-- Slots a binding holds (R266). -/
def SKind.slots : SKind → Nat | .isect | .union => 2 | _ => 1

/-- A refetch point (R275): the buffer is read again from the head. -/
def Stream.refetch (t : Stream) : Stream :=
  { t with buf := [], fOrd := t.ord, fMark := t.markD, fEnd := t.fin, fA := t.posA, fB := t.posB, stA := none, stB := none, pendB := none }

/-- The walk state of a fetch, begun at a position if it has none. -/
def fetchSt (rd : Nat → Nat → WalkM RM Nat) (w : Walker) (st : Option WSt) (k : Nat) : WalkM RM WSt :=
  match st with
  | some t => pure t
  | none => do walkSkip rd w k (← walkStart rd w)

/-- Run a walk step and keep its fault, so that a combined stream that ends without it raises nothing (R277). -/
def tryWalk {α : Type} (a : WalkM RM α) : WalkM RM (Except (Nat × Nat) α) := ExceptT.lift a.run

/-- The next coordinate of an intersection (R282): elements passed in A and B, coordinate and places. DESIGN CHOICE (log 151): where both walks fault
at one output element, the fault of A is raised (R277 names neither). -/
def isectNext (rd : Nat → Nat → WalkM RM Nat) (wa wb : Walker) : Nat → WSt → WSt → Nat → Nat →
    WalkM RM (Option (Nat × Nat × Nat) × WSt × WSt × Nat × Nat)
  | 0, sa, sb, na, nb => pure (none, sa, sb, na, nb)
  | fuel + 1, sa, sb, na, nb => do
    let ra ← tryWalk (walkPeek rd wa sa)
    let rb ← tryWalk (walkPeek rd wb sb)
    match ra, rb with
    | .ok (none, sa), _ => return (none, sa, sb, na, nb)
    | _, .ok (none, sb) => return (none, sa, sb, na, nb)
    | .error e, _ => throw e
    | _, .error e => throw e
    | .ok (some (ca, qa), sa), .ok (some (cb, qb), sb) =>
      if ca = cb then return (some (ca, qa, qb), { sa with peek := none }, { sb with peek := none }, na + 1, nb + 1)
      else if ca < cb then isectNext rd wa wb fuel { sa with peek := none } sb (na + 1) nb
      else isectNext rd wa wb fuel sa { sb with peek := none } na (nb + 1)

/-- The next coordinate of a union (R282). -/
def unionNext (rd : Nat → Nat → WalkM RM Nat) (wa wb : Walker) (sa sb : WSt) (na nb : Nat) :
    WalkM RM (Option (Nat × Option Nat × Option Nat) × WSt × WSt × Nat × Nat) := do
  let (ea, sa) ← walkPeek rd wa sa
  let (eb, sb) ← walkPeek rd wb sb
  match ea, eb with
  | none, none => return (none, sa, sb, na, nb)
  | some (ca, qa), none => return (some (ca, some qa, none), { sa with peek := none }, sb, na + 1, nb)
  | none, some (cb, qb) => return (some (cb, none, some qb), sa, { sb with peek := none }, na, nb + 1)
  | some (ca, qa), some (cb, qb) =>
    if ca = cb then return (some (ca, some qa, some qb), { sa with peek := none }, { sb with peek := none }, na + 1, nb + 1)
    else if ca < cb then return (some (ca, some qa, none), { sa with peek := none }, sb, na + 1, nb)
    else return (some (cb, none, some qb), sa, { sb with peek := none }, na, nb + 1)

/-- Append the END of a stream. -/
def Stream.atEnd (t : Stream) : Stream := { t with buf := t.buf ++ [.ctl ctlEnd], fEnd := true }

/-- The A part of a pair has been fetched, or was popped before a refetch (R290): its B part comes next. -/
def Stream.addA (t : Stream) (c pres : Nat) (a : Option Word) (qb : Option Nat) (na nb : Nat) : Stream :=
  let t := match a with
    | some w => { t with buf := t.buf ++ [SElem.data w c pres na nb] }
    | none => t
  { t with pendB := some (c, pres, qb), fA := na, fB := nb }
/-- The B part of a pair. -/
def Stream.addB (t : Stream) (c pres : Nat) (b : Word) : Stream :=
  { t with buf := t.buf ++ [SElem.data b c pres t.fA t.fB], pendB := none }
/-- The A part of the next pair to be fetched has been popped (R290). -/
def Stream.aGone (t : Stream) : Bool := t.pairB && t.buf.isEmpty

/-- The value a walk delivers at a place, or zero where it has none (R282). -/
def deliverAt (rd : Nat → Nat → WalkM RM Nat) (w : Walker) (c : Nat) : Option Nat → WalkM RM Word
  | some q => walkDeliver rd w (c, q)
  | none => pure 0

/-- Fetch the next element of a binding (R280-R282): of a pair its A part, then its B part, each by its own reads (R277). -/
def fetchMore (c : CtxId) (x : Ctx) (inline : Bool) (t : Stream) : WalkM RM Stream := do
  let rd := ctxReadN c x inline
  if t.fEnd then return t
  if let some (k, pres, qb) := t.pendB then return t.addB k pres (← deliverAt rd t.wb k qb)
  match t.kind with
  | .patWrite | .nbr => return t
  | .patRead =>
    let p := t.pat
    if p.total ≤ t.fOrd then return t.atEnd
    if p.mark && t.fOrd ≠ 0 && t.fOrd % p.n0 = 0 && !t.fMark then
      return { t with buf := t.buf ++ [.ctl (ctlRow t.fOrd)], fMark := true }
    let v ← rd (p.addr t.fOrd) p.size
    let w := if p.sgn then sextW v (8 * p.size) else wd v
    return { t with buf := t.buf ++ [.data w t.fOrd 0 0 0], fOrd := t.fOrd + 1, fMark := false }
  | .fibre =>
    let st ← fetchSt rd t.wa t.stA t.fA
    match ← walkNext rd t.wa st with
    | (none, _) => return t.atEnd
    | (some e, st) =>
      let w ← walkDeliver rd t.wa e
      return { t with buf := t.buf ++ [.data w e.1 1 (t.fA + 1) 0], fA := t.fA + 1, stA := some st }
  | .isect =>
    -- the walk of either side may fault before the stream is known to end
    let ia ← tryWalk (fetchSt rd t.wa t.stA t.fA)
    let ib ← tryWalk (fetchSt rd t.wb t.stB t.fB)
    let endsA ← match ia with
      | .ok sa => tryWalk (walkPeek rd t.wa sa)
      | .error e => pure (.error e)
    let endsB ← match ib with
      | .ok sb => tryWalk (walkPeek rd t.wb sb)
      | .error e => pure (.error e)
    match endsA, endsB with
    | .ok (none, _), _ => return t.atEnd
    | _, .ok (none, _) => return t.atEnd
    | .error e, _ => throw e
    | _, .error e => throw e
    | .ok (_, sa), .ok (_, sb) =>
      match ← isectNext rd t.wa t.wb (2 ^ 34) sa sb t.fA t.fB with
      | (none, _) => return t.atEnd
      | (some (k, qa, qb), sa, sb, na, nb) =>
        let a ← if t.aGone then pure none else some <$> walkDeliver rd t.wa (k, qa)
        return { t.addA k 3 a (some qb) na nb with stA := some sa, stB := some sb }
  | .union =>
    let sa ← fetchSt rd t.wa t.stA t.fA
    let sb ← fetchSt rd t.wb t.stB t.fB
    match ← unionNext rd t.wa t.wb sa sb t.fA t.fB with
    | (none, _) => return t.atEnd
    | (some (k, qa, qb), sa, sb, na, nb) =>
      let a ← if t.aGone then pure none else some <$> deliverAt rd t.wa k qa
      return { t.addA k (b2n qa.isSome + 2 * b2n qb.isSome) a qb na nb with stA := some sa, stB := some sb }

/-- Fetch until element `i` of the buffer is there, or the stream has ended. -/
def fetchTo (c : CtxId) (x : Ctx) (inline : Bool) (i : Nat) : Nat → Stream → WalkM RM Stream
  | 0, t => pure t
  | fuel + 1, t => if i < t.buf.length || t.fEnd then pure t else do fetchTo c x inline i fuel (← fetchMore c x inline t)

/-- Element `i` of a fetched stream; past its END, END again (R271). -/
def Stream.elem (t : Stream) (i : Nat) : SElem := t.buf.getD i (.ctl ctlEnd)

/-- Pop the head (R271, R273, R282, R290). -/
def Stream.pop (t : Stream) : Stream :=
  match t.elem 0 with
  | .ctl w =>
    if w == ctlEnd then { t with buf := t.buf.drop 1, fin := true } else { t with buf := t.buf.drop 1, markD := true }
  | .data _ _ _ nA nB =>
    let t := { t with buf := t.buf.drop 1, ord := t.ord + 1, markD := false }
    if t.kind.isPair then (if t.pairB then { t with pairB := false, posA := nA, posB := nB } else { t with pairB := true })
    else { t with posA := nA, posB := nB }

def Stream.popN (t : Stream) : Nat → Stream
  | 0 => t
  | n + 1 => Stream.popN t.pop n

/-! ### Slots and bindings -/

/-- Slots a context holds (R266). -/
def Ctx.qslots (x : Ctx) : Nat := x.streams.toList.foldl (fun n t => n + (t.map (·.kind.slots)).getD 0) 0
/-- Slots held by the contexts of a core other than one. -/
def State.qheld (s : State) (c : CtxId) : Nat :=
  ((slotsOf c.core).filter (· != c)).foldl (fun n k => n + ((s.ctx? k).map Ctx.qslots).getD 0) 0
/-- QSCFG.FREE and HELD0 as a context sees them (R267). -/
def State.qfreeSlots (s : State) (c : CtxId) (x : Ctx) : Nat := 32 - s.qheld c - x.qslots
def State.qheld0 (s : State) (c : CtxId) (x : Ctx) : Nat :=
  if c.slot = 0 then x.qslots else ((s.ctx? { c with slot := 0 }).map Ctx.qslots).getD 0

/-- A stream with nothing fetched. -/
def Stream.fresh (k : SKind) : Stream :=
  { kind := k, desc := 0, pat := default, wa := default, wb := default, dir := .north, ord := 0, posA := 0, posB := 0
    fin := false, pairB := false, markD := false, broken := false, buf := [], fOrd := 0, fMark := false, fEnd := false
    fA := 0, fB := 0, stA := none, stB := none, pendB := none }

/-- Set stream q; with its last binding gone the handler registers read zero, and a first binding clears them (R270, R274). -/
def Ctx.setStream (x : Ctx) (q : Fin 8) (t : Option Stream) : Ctx :=
  -- the binding that stood there ends first (R269)
  let had := (x.streams.set q none).toList.any (·.isSome)
  let x := { x with streams := x.streams.set q t
                    regs := x.regs.set (Fin.ofNat 32 (24 + q.val)) 0 }
  if !had || !(x.streams.toList.any (·.isSome)) then { x with qhvec := 0, qhpc := 0, qhval := 0 } else x

/-- Change a bound stream. -/
def Ctx.modStream (x : Ctx) (q : Fin 8) (f : Stream → Stream) : Ctx := { x with streams := x.streams.set q ((x.streams.get q).map f) }

/-- A refetch point of every binding of the context (R275): an acquire. -/
def Ctx.refetchAll (x : Ctx) : Ctx :=
  { x with streams := x.streams.map fun t => t.map fun t => if t.kind == .patWrite || t.kind == .nbr then t else t.refetch }

/-! ### Neighbours (R283) -/

def dirOpp : Dir → Dir | .north => .south | .south => .north | .east => .west | .west => .east
def dirIx : Dir → Fin 4 | .north => 0 | .east => 1 | .south => 2 | .west => 3
def dirOfNat : Nat → Dir | 0 => .north | 1 => .east | 2 => .south | _ => .west

/-- The core of the partition whose router is adjacent in a direction on the same die. -/
def State.neighbour (s : State) (c : CoreId) (d : Dir) : Option CoreId :=
  let k := s.physCore c
  let (row, col) := (k / 32 % 16, k % 32)
  let t : Option Nat := match d with
    | .north => if row = 0 then none else some (k - 32)
    | .south => if row = 15 then none else some (k + 32)
    | .west => if col = 0 then none else some (k - 1)
    | .east => if col = 31 then none else some (k + 1)
  t.bind fun p => (s.partCores c.part).find? fun e => e.pkg == c.pkg && s.physCore e == p

/-- Elements in a core's inbound queue from a direction, and on their way into it. -/
def State.nbrCount (s : State) (c : CoreId) (d : Dir) : Nat :=
  ((s.core c).nbrq.get (dirIx d)).length +
  (s.net.filter fun k => match k.msg with | .nbr t f _ _ => t == c && f == d | _ => false).length

/-- Send an element over the neighbour channel (R283): it is outside the network's classes and pairs. -/
def State.pushNbr (s : State) (src t : CoreId) (d : Dir) (tag : Bool) (w : Word) : State :=
  let (id, s) := s.newId
  { s with net := s.net ++ [{ id := id, part := t.part, cls := 3, src := .core src, dst := .core t, pseq := 0, len := 0, trim := false
                              retx := false, tcnt := 0, dmark := 0, stage := .flying, at_ := s.clock, judged := none
                              msg := .nbr t (dirOpp d) tag w }] }

/-- A word for a neighbour has landed: the push that claimed its place is done (R284). -/
def State.wordLanded (s : State) (src : Agent) (id : Nat) : State :=
  match src with
  | .core c => (slotsOf c).foldl (fun s k => s.modCtx k fun x => { x with out := x.out.filter fun a => !(a.home.isNone && a.storeLike && !a.loadLike && a.seq == id) }) s
  | _ => s
/-- NEIGHBOUR_WORD_ARRIVAL (R283, R284): the oldest word of its channel enters the queue. -/
def State.neighbourWordArrival (s : State) (id : Nat) : State :=
  match s.pkt? id with
  | some k => match k.msg with
    | .nbr t f tag w =>
      let first := s.net.find? fun q => match q.msg with | .nbr t' f' _ _ => t' == t && f' == f | _ => false
      if (first.map (·.id)) == some id && ((s.core t).nbrq.get (dirIx f)).length < 16 then
        ((s.dropPkt id).wordLanded k.src id).modCore t fun c => { c with nbrq := c.nbrq.set (dirIx f) (c.nbrq.get (dirIx f) ++ [(tag, w)]) }
      else s
    | _ => s
  | none => s

end Sys2Proof.Machine
end

