-- ==== Sys2Proof/Machine/Issue.lean ====
section
/-! DEFINITION. Issuing accesses and what becomes of them: addresses and regions, fences, landing buffers, the journal,
requests, replies and refusals (07_memory_homes.md R190-R193, R200-R206, R212; 16_network.md R376; 18_traps.md R404, R405,
R407). -/
namespace Sys2Proof.Machine

/-- Run a read made at once in an instruction: its faults are the instruction's own. -/
def liftR {α : Type} (a : WalkM RM α) : M α := do
  let e ← get
  match a.run.run e.st with
  | .ok (.ok v, s) => set { e with st := s }; pure v
  | .ok (.error (c, t), s) => throw (.faultIn s c (wd t))
  | .error .wait => stall
  | .error (.walk u asid va) => throw (.walk u asid va)
  | .error (.leave f) => throw (.leave f)

/-- As `liftR`, but the fault is a value. -/
def tryR {α : Type} (a : WalkM RM α) : M (Except (Nat × Nat) α) := do
  let e ← get
  match a.run.run e.st with
  | .ok (v, s) => set { e with st := s }; pure v
  | .error .wait => stall
  | .error (.walk u asid va) => throw (.walk u asid va)
  | .error (.leave f) => throw (.leave f)

/-- Wait in a state of its own: what the attempt leaves behind. -/
def stallIn {α : Type} (s : State) : M α := throw (.waitIn s)

/-! ### Waiting to settle (R166) -/

/-- A speculative task waits to settle; a settled one remembers that it performed such an operation (R166, R175). -/
def settleOp : M Unit := do
  let s ← st
  let x ← cx
  if s.speculative s.cur.core.part x then stall
  match x.task with
  | some id => modSt fun s => s.modTask s.cur.core.part id fun t => { t with waitedOp := true }
  | none => pure ()

/-! ### Addresses -/

/-- Translate and check the region of an access, in the order Alignment, translation, Access (R200, R201). -/
def locate (k : TKind) (va n align : Nat) : M Loc := do
  faultIf (va % align ≠ 0) cAlign (wd va)
  let e ← get
  let c := e.st.cur
  match e.st.resolve c.core (.data c.core) (some (.ctx c e.cx.icount)) k e.cx.priv va n with
  | (.ok l, s) => set { e with st := s }; pure l
  | (.fault f, s) => throw (.faultIn s f (wd va))
  | (.wait, _) => stall
  | (.miss, s) => throw (.walk c.core.clu (fld (s.part c.core.part).atbl 48 16) va)

/-! ### Fences (R200, R212) -/

/-- Wait for the fences in force. -/
def fenceWait (load store : Bool) (h : Home) : M Unit := do
  let x ← cx
  waitUnless (!(load && x.loadHeld) && !(store && x.storeHeld) && !x.pushHeld h)

/-- Every earlier access of the context has been performed (R132, R171, R200, R244). -/
def drained : M Unit := do waitUnless (← cx).out.isEmpty

/-- An acquire of the context at a scope other than ctx (R229, R275): later accesses are sent only once every earlier load-like
access has returned, and streams are read again. -/
def acquire : M Unit := modCx fun x => { x.refetchAll with ldAfterLd := x.accCtr, stAfterLd := x.accCtr }

/-! ### Landing buffers and the journal -/

/-- Take landing buffers, or count a refused attempt and wait (R376). -/
def needBuffers (n : Nat) : M Unit := do
  let e ← get
  let c := e.st.cur
  if n ≠ 0 ∧ 128 < e.st.buffersHeld c e.cx + n then
    stallIn ((e.st.modCore c.core fun k => { k with lbWaits := (k.lbWaits + 1) % 2 ^ 32 }).putCtx c e.cx)
  else pure ()

/-- The lowest free journal entry (R404). -/
def Core.freeEntry (k : Core) : Option (Fin 64) := (List.finRange 64).find? fun i => (k.journal.get i).state == 0
/-- JFLT (R404). -/
def Core.jflt (k : Core) : Word := wd (((List.finRange 64).filter fun i => (k.journal.get i).state == 2).foldl (fun n i => n + 2 ^ i.val) 0)

/-- The identity bits of a context (R119). -/
def Ctx.origin (x : Ctx) : Nat := x.opkg * 2 ^ 15 + x.ovc * 16 + x.oslot

/-- Take a journal entry for a posted access, waiting for a free one (R200, R206, R209, R404). -/
def takeJournal (kind : Nat) (fk sgn : Bool) (size va : Nat) (data : Word) : M (Fin 64) := do
  let e ← get
  let c := e.st.cur
  match (e.st.core c.core).freeEntry with
  | none => stall
  | some i =>
    let j : JEntry := { state := 1, kind := kind, fk := fk, sgn := sgn, size := size, origin := e.cx.origin, cause := 0
                        va := va, data := data, acc := e.cx.accCtr + 1, slot := c.slot }
    set { e with st := e.st.modCore c.core fun k => { k with journal := k.journal.set i j } }
    pure i

/-! ### Requests -/

/-- Wait until an access performed at once may be: what it must await at the home, and the aborts it brings (R158, R159, R195). -/
def clearFor (a : Actor) (h : Home) (write : Bool) (pa n : Nat) : M Unit := do
  let s ← st
  if s.mustWait a h pa n then stall
  else if s.conflictWaits a.core.part a.task write pa n then throw (.leave fun s => s.stopVictims a.core.part a.task write pa n)
  else pure ()

/-- What an instruction asks of a home; `keepBuf` marks the stores that hold a landing buffer (R259), `vec` a vector store. -/
structure Ask where
  l : Loc
  op : ReqOp
  dest : Dest
  grp : Nat
  posted : Option (Fin 64)
  keepBuf : Bool := false
  vec : Bool := false

def ReqOp.loadLike : ReqOp → Bool | .load _ | .atomic _ _ _ _ => true | _ => false
def ReqOp.storeLike : ReqOp → Bool | .load _ => false | _ => true
def ReqOp.seqd : ReqOp → Bool | .atomic _ _ _ _ | .reduce _ _ _ | .rlog _ _ _ _ => true | _ => false
/-- Payload flits of a request: vector stores are data-bearing, scalar accesses never (R371). -/
def Ask.flits (q : Ask) : Nat := match q.op with | .store d => if q.vec then max 1 (ceilDiv d.length 64) else 0 | _ => 0

/-- Unanswered sequenced requests of a core toward a home (R205), those of its contexts' jobs among them. -/
def State.unanswered (s : State) (c : CtxId) (x : Ctx) (h : Home) : Nat :=
  let n (y : Ctx) : Nat := (y.out.filter fun a => a.seqd && a.home == some h).length
  n x + ((slotsOf c.core).filter (· != c)).foldl (fun m k => m + ((s.ctx? k).map n).getD 0) 0 +
  (s.jobs.filter fun j => j.issuer.core == c.core).foldl (fun m j => m + (j.sent.filter fun w => w.cause.isNone && w.op.seqd && w.home == some h).length) 0

/-- The next sequence of a core toward a home (R205). -/
def Core.nextAseq (k : Core) (h : Home) : Nat := ((k.aseq.find? (·.1 == h)).map (·.2)).getD 0
def Core.bumpAseq (k : Core) (h : Home) : Core :=
  { k with aseq := (h, k.nextAseq h + 1) :: k.aseq.filter (·.1 != h) }

/-- Track an access of a task, waiting for log space where R156 says so. -/
def trackM (write : Bool) (pa n : Nat) : M Unit := do
  let e ← get
  match e.cx.task with
  | none => pure ()
  | some id =>
    match e.st.track e.st.cur id write pa n with
    | some s => set { e with st := s }
    | none =>
      let p := e.st.cur.core.part
      let t := (e.st.task? p (some id)).getD default
      if t.logWait then stall
      else stallIn ((e.st.logFull p id).putCtx e.st.cur e.cx)

/-- Where a request goes: a read to its replica, all else to the home (R197). -/
def Ask.target (q : Ask) : Agent := match q.op with | .load _ => q.l.reader.agent | _ => q.l.home.agent

/-- A record of an access (R31, R190). It holds back its context's next instruction (R193, R195, R198) where its home is a core's local memory,
another's or its own that makes it wait, and where it reads a replica. -/
def Ask.access (q : Ask) (c : CtxId) (e : Ex) (got : Option (List Byte)) : Access :=
  { acc := e.cx.accCtr + 1, seq := e.st.nextId, grp := q.grp, home := some q.l.home, target := q.target, page := q.l.page, va := q.l.va
    loadLike := q.op.loadLike
    storeLike := q.op.storeLike, dest := q.dest, bytes := q.op.bytes, pc := e.cx.pc, icount := e.cx.icount
    hold := got.isNone && ((q.l.isLocal && (q.posted.isNone || q.l.home == .core c.core)) || (q.l.repl.isSome && q.op.loadLike && !q.op.storeLike))
    buf := (q.op.loadLike || q.keepBuf) && got.isNone && q.target != .core c.core
    posted := q.posted.isSome, seqd := q.op.seqd, got := got, err := none, pend := none
    before := if e.before = e.cx.streams then none else some e.before
    popped := e.popped }

/-- The request's message. -/
def Ask.req (q : Ask) (c : CtxId) (e : Ex) (seq : Nat) : Req :=
  { src := c, acc := e.cx.accCtr + 1, va := q.l.va, pa := q.l.pa, home := q.l.home, op := q.op, task := e.cx.task
    posted := q.posted.map (·.val), aseq := seq
    replicated := match q.op with | .load _ => q.l.repl | _ => none
    via := .ctx }

/-- Add a record to the context's outstanding accesses. -/
def Ctx.addAccess (x : Ctx) (a : Access) : Ctx := { x with accCtr := a.acc, out := x.out ++ [a] }

/-- Send a request (R371, R374, R377). -/
def sendAsk (q : Ask) : M Unit := do
  let e ← get
  let c := e.st.cur
  let k := e.st.core c.core
  waitUnless (!e.cx.elsewhere q.l.home q.target)
  waitUnless (e.st.canSend (.core c.core) q.target q.flits)
  waitUnless (!q.op.seqd || e.st.unanswered c e.cx q.l.home < 63)
  let r := q.req c e (k.nextAseq q.l.home)
  let s := if q.op.seqd then e.st.setCore c.core (k.bumpAseq q.l.home) else e.st
  set { e with st := s.send c.core.part 0 (.core c.core) q.target q.flits (.req r), cx := e.cx.addAccess (q.access c e none) }

/-- The context's own accesses that write some of the bytes and that their home has not performed (R190). -/
def State.ownPending (s : State) (c : CtxId) (x : Ctx) (l : Loc) (n : Nat) : List Req :=
  ((s.net.filterMap fun k => match k.msg with | .req r => some r | _ => none) ++ s.homeWrites.map (·.req)).filter fun r =>
    x.out.any (·.acc == r.acc) && r.src == c && r.via == .ctx && r.op.storeLike && r.home == l.home && r.pa < l.pa + n && l.pa < r.pa + r.op.bytes

/-- What the context's own latest pending store gives a load of its bytes (R190): none where there is no such store, where the latest
is no plain store, or where it does not write all of them; the load then waits its turn at the home. -/
def State.forwarded (s : State) (c : CtxId) (x : Ctx) (l : Loc) (n : Nat) : Option (List Byte) :=
  let latest := (s.ownPending c x l n).foldl (fun (m : Option Req) r => match m with
    | some q => if q.acc ≤ r.acc then some r else m
    | none => some r) none
  match latest with
  | some { op := .store d, pa := pa, .. } => if pa ≤ l.pa ∧ l.pa + n ≤ pa + d.length then some ((d.drop (l.pa - pa)).take n) else none
  | _ => none

/-- Record an access that has been performed, with what it returned. -/
def record (q : Ask) (s : State) (b : List Byte) : M Unit := do
  let e ← get
  let e := { e with st := s }
  if q.op.loadLike then set { e with cx := e.cx.addAccess (q.access e.st.cur e (some b)) }
  else set { e with cx := { e.cx with accCtr := e.cx.accCtr + 1 } }

/-- Issue an access: a load at once from the context's own pending store or the L1 copy, any access at once at the core's own home where
nothing stands before it, else as a request. -/
def issue (q : Ask) : M Unit := do
  let e ← get
  let c := e.st.cur
  let a := e.cx.actor c.core
  let n := q.op.bytes
  -- an element of a vector that cannot be corrected answers in its turn (R260)
  let own := e.st.ownHome c e.cx q.l q.op.storeLike n && !(q.grp != 0 && e.st.poisoned q.l.pa n)
  match q.op with
  | .load _ =>
    match e.st.forwarded c e.cx q.l n with
    | some b =>
      if e.st.conflictWaits c.core.part e.cx.task false q.l.pa n then
        throw (.leave fun s => s.stopVictims c.core.part e.cx.task false q.l.pa n)
      record q (e.st.conflict c.core.part e.cx.task false q.l.pa n) b
    | none =>
      if e.st.l1Serves c e.cx q.l n then
        let s := e.st.conflict c.core.part e.cx.task false q.l.pa n
        let (b, s) := s.readBytes q.l.home q.l.pa n
        record q s b
      else if own then
        match e.st.readAt a q.l.home q.l.pa n with
        | (.data b, s) => record q (s.ownDone c.core) b
        | (_, s) => throw (.faultIn s cMemErr (wd q.l.va))
      else sendAsk q
  | .store d =>
    if own && q.posted.isNone && (e.st.holders c.core q.l.pa n).isEmpty then record q ((e.st.writeAt a q.l.home q.l.pa d true).ownDone c.core) []
    else sendAsk q
  | .atomic op _ x0 c0 =>
    if own && (e.st.holders c.core q.l.pa n).isEmpty then
      let s := e.st.conflict c.core.part e.cx.task true q.l.pa n
      if s.poisoned q.l.pa n then throw (.faultIn (s.meetBad q.l.pa n) cMemErr (wd q.l.va))
      let (mb, s) := s.readBytes q.l.home q.l.pa n
      let m := ofBytes mb
      let v := op.apply n m x0 c0
      let s := if v ≠ m ∨ op ≠ .cas then s.writeAt a q.l.home q.l.pa (toBytes v n) true else s
      let s := s.ownDone c.core
      let k := s.core c.core
      record q ((s.setCore c.core (k.bumpAseq q.l.home)).cacheReply c.core.part q.l.home c.core.srcKey (k.nextAseq q.l.home) (some m)) (toBytes m n)
    else sendAsk q
  | _ => sendAsk q

/-! ### Results -/

/-- A loaded value in a register (R200). -/
def loadValue (signed : Bool) (b : List Byte) : Word :=
  if signed then sextW (ofBytes b) (8 * b.length) else wd (ofBytes b)

/-- Replace bytes of a vector register. -/
def vecPut (v : VWord) (off : Nat) (b : List Byte) : VWord :=
  let mask : VWord := BitVec.ofNat 512 ((2 ^ (8 * b.length) - 1) * 2 ^ (8 * off))
  (v &&& ~~~mask) ||| BitVec.ofNat 512 (ofBytes b * 2 ^ (8 * off))

def VTag.clear : VTag := { flags := 0, first := none, rnd := 0 }

/-- Write a vector register with its tag (R253). -/
def Ctx.setVec (x : Ctx) (r : Nat) (v : VWord) (t : VTag) : Ctx :=
  { x with vregs := x.vregs.set (Fin.ofNat 64 r) v, vtags := x.vtags.set (Fin.ofNat 64 r) t }
def Ctx.vec (x : Ctx) (r : Nat) : VWord := x.vregs.get (Fin.ofNat 64 r)

/-- Send a push whose word has come (R276): the ST takes the place it claimed. -/
def State.sendPush (s : State) (c : CtxId) (acc : Nat) (w : Word) : State :=
  match s.ctx? c with
  | none => s
  | some x =>
    match x.out.find? fun a => (a.pend.map (·.1)) == some acc with
    | none => s
    | some a => match a.pend with
      | none => s
      | some (_, r) =>
        let r := { r with op := .store (toBytes w.toNat a.bytes) }
        let s := s.putCtx c { x with out := x.out.map fun b => if b.acc == a.acc then { b with pend := none } else b }
        s.send c.core.part 0 (.core c.core) r.home.agent 0 (.req r)

/-- The claim of a push to a neighbour whose word the access numbered just before it brings (R276, R284): a store-like access until the word has
landed there. -/
def Ctx.wordClaim (x : Ctx) (target : Agent) : Access :=
  { acc := x.accCtr + 1, seq := 0, grp := 0, home := none, target := target, page := none, va := 0, loadLike := false, storeLike := true, dest := .none
    bytes := 8, pc := x.pc, icount := x.icount, hold := false, buf := false, posted := false, seqd := false, got := none, err := none, pend := none
    before := none, popped := [] }
/-- The access is the claim of a push to a neighbour whose word access `of` brings. -/
def Access.claims (a : Access) (of : Nat) : Bool := a.acc == of + 1 && a.home.isNone && a.storeLike && !a.loadLike

/-- Release the place a push claimed when its word does not come (R276). -/
def State.dropPush (s : State) (c : CtxId) (acc : Nat) (q : Nat) : State :=
  s.modCtx c fun x => { x.modStream (Fin.ofNat 8 q) (fun t => { t with ord := t.ord - 1 }) with
    out := x.out.filter fun a => (a.pend.map (·.1)) != some acc && !a.claims acc }

/-- Deliver a word to the stream it was fetched for: the claimed place of a write pattern, or the neighbour (R276, R283). -/
def State.landPush (s : State) (c : CtxId) (acc : Nat) (q : Nat) (w : Word) : State :=
  match (s.ctx? c).bind fun x => x.streams.get (Fin.ofNat 8 q) with
  | some t =>
    if t.kind == .nbr then match s.neighbour c.core t.dir with
      | some n => (s.pushNbr c.core n t.dir false w).modCtx c fun x =>
          { x with out := x.out.map fun a => if a.claims acc then { a with seq := s.nextId } else a }
      | none => s.modCtx c fun x => { x with out := x.out.filter fun a => !a.claims acc }
    else s.sendPush c acc w
  | none => s.sendPush c acc w

/-- The place of the fault of an access that came back with one in the order of its instruction's faults (R201, R264): Access, Window,
Replica Timeout, Memory Error. DESIGN CHOICE (log 146): those orders do not name Link Timeout and Absent, which come last. -/
def faultRank (cause : Nat) : Nat :=
  if cause = cAccess then 0 else if cause = cWindow then 1 else if cause = cReplica then 2 else if cause = cMemErr then 3 else 4
/-- Of two accesses with an error, the one whose fault is raised: the first in that order, then the earlier of the two. -/
def Access.worse (a b : Access) : Access :=
  let r (a : Access) : Nat := (a.err.map fun e => faultRank e.1).getD 5
  if r b < r a ∨ (r b = r a ∧ b.acc < a.acc) then b else a
/-- The access of a list whose fault is raised (R201, R260, R264). -/
def worstOf : List Access → Option Access
  | [] => none
  | a :: r => some (r.foldl Access.worse a)

/-- Deliver a group of accesses once every one of them has answered (R260, R376): a load's value, an atomic's old value or a
vector; with an error nothing is written and the error that is raised stays recorded. -/
def State.finish (s : State) (c : CtxId) (grp : Nat) : State :=
  match s.ctx? c with
  | none => s
  | some x =>
    let mine := x.out.filter fun a => a.grp == grp && a.loadLike
    if mine.any fun a => a.got.isNone && a.err.isNone then s
    else match worstOf (mine.filter fun a => a.err.isSome) with
      | some bad =>
        let s := s.putCtx c { x with out := x.out.filter fun a => !(a.grp == grp && a.loadLike && a.acc != bad.acc) }
        match bad.dest with
        | .stream q _ => s.dropPush c bad.acc q
        | _ => s
      | none =>
        let x' := { x with out := x.out.filter fun a => !(a.grp == grp && a.loadLike) }
        let x' := mine.foldl (fun x a => match a.dest with
          | .reg d sg => x.setReg d (loadValue sg (a.got.getD []))
          | .vec r off => x.setVec r (vecPut (x.vec r) off (a.got.getD [])) VTag.clear
          | _ => x) x'
        let s := s.putCtx c x'
        mine.foldl (fun s a => match a.dest with
          | .stream q sg => s.landPush c a.acc q (loadValue sg (a.got.getD []))
          | _ => s) s

/-- Deliver a group at issue. -/
def finishM (grp : Nat) : M Unit := onState fun s => s.finish s.cur grp

/-- Give up a migration that has not departed (R122): a slot already granted is cancelled. -/
def State.cancelMove (s : State) (c : CtxId) : State :=
  match s.ctx? c with
  | none => s
  | some x =>
    let s := s.putCtx c { x with moving := none }
    match x.moving with
    | some { target := t, slot := some n, asked := some _, .. } => s.send c.core.part 0 (.core c.core) (.core t) 0 (.cancel t n)
    | _ => s

/-- Words go back to the neighbour queues an instruction popped them from (R273, log 27). -/
def State.unpop (s : State) (c : CoreId) (l : List (Fin 4 × List (Bool × Word))) : State :=
  l.foldl (fun s p => s.modCore c fun k => { k with nbrq := k.nbrq.set p.1 (p.2 ++ k.nbrq.get p.1) }) s

/-- Lookahead windows as they stood before an instruction issued, by its count (R29, R31): its own is not open. One that it was the last of is
not opened again. -/
def windowsBefore (n : Nat) (l : List Window) : List Window :=
  (l.filter fun w => w.acc != n + 1).map fun w => { w with left := w.left + 1 }

/-- Raise the fault of an access that came back with one (R31, R193, R198, R256, R380, R407): one fault for an instruction, once all its
accesses have been answered; exact while no later instruction has issued, the context standing at the instruction again, else a late
fault. It waits for the other results of the context and while the context is halted. DESIGN CHOICE (log 146): where two
instructions of the context have come back with errors, which the rules put in no order, the older one's fault is raised first, and the other's
meets INH = 1. -/
def State.raiseErr (s : State) (c : CtxId) : State :=
  match (s.cancelMove c).ctx? c with
  | none => s
  | some x =>
    if x.leaving.isSome then s.putCtx c { x with out := x.out.filter (·.err.isNone) }
    else if (s.slot c).halted || x.heldFault.isSome || (x.out.any fun a => a.loadLike && a.err.isNone && a.dest != .none) then s
    else match x.out.find? fun a => a.err.isSome with
      | none => s
      | some first =>
        let mine (a : Access) : Bool := a.icount == first.icount
        if x.out.any fun a => mine a && a.err.isNone && a.got.isNone && a.pend.isNone then s
        else match worstOf (x.out.filter fun a => mine a && a.err.isSome) with
        | none => s
        | some a => match a.err with
          | none => s
          | some (cause, addr) =>
            let s := s.cancelMove c
            let exact := a.icount + 1 == x.icount
            let x := { x with out := x.out.filter fun b => !(mine b && b.err.isSome) }
            let x := if exact then { x with streams := a.before.getD x.streams, pc := a.pc, windows := windowsBefore a.icount x.windows } else x
            let s := if exact then s.unpop c.core a.popped else s
            let late := !exact && cause == cMemErr
            let tval := if late then a.pc else wd addr
            let x := x.giveUp
            if s.speculative c.core.part x then s.putCtx c { x with heldFault := some (cause, tval, x.pc, late) }
            else s.takeTrap c x false cause tval x.pc false late

/-- The access a reply names. -/
def Ctx.access? (x : Ctx) (acc : Nat) : Option Access := x.out.find? (·.acc == acc)
def Ctx.modAccess (x : Ctx) (acc : Nat) (f : Access → Access) : Ctx :=
  { x with out := x.out.map fun a => if a.acc == acc then f a else a }
def Ctx.dropAccess (x : Ctx) (acc : Nat) : Ctx := { x with out := x.out.filter (·.acc != acc) }

/-- The journal entry of an access. -/
def Core.entryOf (k : Core) (slot acc : Nat) : Option (Fin 64) :=
  (List.finRange 64).find? fun i => let j := k.journal.get i; j.state == 1 && j.slot == slot && j.acc == acc

/-- The answer to a read of an instruction: kept for it while it is still the context's next, else dropped. -/
def State.readAnswer (s : State) (d : CtxId) (a : Access) (b : List Byte) (cause : Option Nat) : State :=
  s.modCtx d fun x =>
    let x := x.dropAccess a.acc
    if a.icount = x.icount ∧ a.pc = x.pc then
      { x with reads := { icount := a.icount, pc := a.pc, va := a.va, n := a.bytes, bytes := b, cause := cause } :: x.reads }
    else x

/-- REPLY_LANDS (R376, R31): data reaches its access; the destination is written and the landing buffer freed. -/
def State.replyLands (s : State) (id : Nat) : State :=
  match s.deliverable id with
  | some k => match k.msg with
    | .data d acc err b =>
      let s := s.dropPkt id
      match (s.ctx? d).bind (·.access? acc) with
      | none => s
      | some a =>
        if a.dest == .fetch then s.readAnswer d a (b.take a.bytes) (if err then some cMemErr else none)
        else
          let s := s.modCtx d fun x => x.modAccess acc fun a =>
            if err then { a with err := some (cMemErr, a.va), buf := false, hold := false }
            else { a with got := some (b.take a.bytes), hold := false }
          (s.finish d a.grp).raiseErr d
    | _ => s
  | none => s

/-- ACKNOWLEDGEMENT (R200, R205, R404): the access is done; its journal entry is freed. -/
def State.acknowledgement (s : State) (id : Nat) : State :=
  match s.deliverable id with
  | some k => match k.msg with
    | .ack d acc =>
      let s := s.dropPkt id
      let s := match (s.core d.core).entryOf d.slot acc with
        | some i => s.modCore d.core fun c => { c with journal := c.journal.set i default }
        | none => s
      s.modCtx d fun x => x.dropAccess acc
    | _ => s
  | none => s

/-- What a refusal does to the access it answers (R193, R198, R380, R404, R407). -/
def State.refuseAccess (s : State) (d : CtxId) (acc cause : Nat) : State :=
  match (s.core d.core).entryOf d.slot acc with
  | some i =>
    let s := s.modCore d.core fun c => { c with journal := c.journal.set i { c.journal.get i with state := 2, cause := cause } }
    s.modCtx d fun x => x.dropAccess acc
  | none =>
    match (s.ctx? d).bind (·.access? acc) with
    | none => s
    | some a =>
      if a.dest == .fetch then s.readAnswer d a [] (some cause)
      else
      let s := s.modCtx d fun x => x.modAccess acc fun a => { a with err := some (cause, a.va), buf := false, hold := false }
      (if a.loadLike then s.finish d a.grp else s).raiseErr d

/-- NEGATIVE_ACKNOWLEDGEMENT. -/
def State.negativeAcknowledgement (s : State) (id : Nat) : State :=
  match s.deliverable id with
  | some k => match k.msg with
    | .nack d acc cause => (s.dropPkt id).refuseAccess d acc cause
    | _ => s
  | none => s

end Sys2Proof.Machine
end

