-- ==== Sys2Proof/Machine/Operands.lean ====
section
/-! DEFINITION. Register operands of an instruction: lookahead windows, interlocks, stream pops and pushes, the light handler
(02_encoding.md R29-R32; 04_scalar_issue.md R85, R91; 11_streams.md R271-R277, R283). -/
namespace Sys2Proof.Machine

/-- The stream a register names while bound (R266). -/
def streamOf (r : Reg) : Option (Fin 8) := if 24 ≤ r.val then some (Fin.ofNat 8 (r.val - 24)) else none
/-- The binding of a register (R85). -/
def Ctx.binding (x : Ctx) (r : Reg) : Option (Fin 8 × Stream) :=
  (streamOf r).bind fun q => (x.streams.get q).map fun t => (q, t)

/-- TVAL of a Stream fault (R292). -/
def streamTval (i : Instr) (sub : Nat) (q : Fin 8) : Word := wd ((encode i).getD 0 + sub * 2 ^ 32 + q.val * 2 ^ 40)
/-- Raise Stream with a sub-code (R292). -/
def raiseStream {α : Type} (i : Instr) (sub : Nat) (q : Fin 8) : M α := raise cStream (streamTval i sub q)

/-- The destination of an outstanding result is a register (R91). -/
def Access.writes (a : Access) (r : Reg) : Bool :=
  match a.dest with
  | .reg d _ => d == r
  | .stream q _ => streamOf r == some (Fin.ofNat 8 q)
  | _ => false

/-- Lookahead Breach (R29) before any fault of the instruction's own, then the interlocks of R91: results on their way, and results still in
the pipeline (R92). -/
def interlock (regs : List Reg) : M Unit := do
  let x ← cx
  match x.windows.find? fun w => regs.contains w.dest with
  | some w => raise cBreach w.pc
  | none =>
    let now := (← st).clock
    waitUnless (!(x.out.any fun a => regs.any fun r => r ≠ 0 && a.writes r) &&
      !(x.lat.any fun e => e.1 ≠ 0 && regs.contains e.1 && decide (now < e.2)))

/-- The element a source would pop, past those already claimed (R273, R283). -/
def headOf (i : Instr) (q : Fin 8) (t : Stream) (n : Nat) : M SElem := do
  match t.kind with
  | .patWrite => raiseStream i 2 q
  | .nbr =>
    settleOp
    if t.broken then raiseStream i 6 q
    waitUnless !(← cx).loadHeld
    let s ← st
    match ((s.core s.cur.core).nbrq.get (dirIx t.dir))[n]? with
    | none => stall
    | some (true, w) => return .ctl w
    | some (false, w) => return .data w 0 0 0 0
  | _ =>
    let e ← get
    let t ← liftR (fetchTo e.st.cur e.cx false n (n + 2) t)
    modCx fun x => x.modStream q fun _ => t
    return t.elem n

/-- Pop elements of a stream (R85, R283). -/
def popStream (q : Fin 8) (n : Nat) : M Unit := do
  match (← cx).streams.get q with
  | none => pure ()
  | some t =>
    if t.kind = .nbr then
      let e ← get
      let words := ((e.st.core e.st.cur.core).nbrq.get (dirIx t.dir)).take n
      modSt fun s => s.modCore s.cur.core fun k => { k with nbrq := k.nbrq.set (dirIx t.dir) ((k.nbrq.get (dirIx t.dir)).drop n) }
      modify fun e => { e with popped := (dirIx t.dir, words) :: e.popped }
      -- an NEND is no data element (R289)
      modCx fun x => x.modStream q fun t => { t with ord := t.ord + (words.filter (!·.1)).length }
    else modCx fun x => x.modStream q fun t => t.popN n

/-- The light handler (R273, R274): the control value is popped and the context jumps to QHVEC; the instruction has no other
effect. -/
def lightHandler {α : Type} (i : Instr) (q : Fin 8) (n : Nat) (w : Word) : M α := do
  if (← cx).qhvec = 0 then raiseStream i 5 q
  popStream q (n + 1)
  let e ← get
  let w := (w &&& ~~~(7#64 <<< 8)) ||| wd (q.val * 256)
  throw (.done (e.st.putCtx e.st.cur { e.cx with qhpc := e.cx.pc, qhval := w, pc := e.cx.qhvec }))

/-- Read the sources in field order: registers, and the elements bound ones would pop (R85, R273). -/
def readSources (i : Instr) : List Reg → List (Fin 8) → M (List Word)
  | [], _ => pure []
  | r :: rest, claims => do
    match (← cx).binding r with
    | none =>
      let v := (← cx).reg r
      return v :: (← readSources i rest claims)
    | some (q, t) =>
      let n := claims.count q
      match ← headOf i q t n with
      | .ctl w => lightHandler i q n w
      | .data w _ _ _ _ => return w :: (← readSources i rest (q :: claims))

/-- The streams the sources pop. -/
def popsOf (x : Ctx) (srcs : List Reg) : List (Fin 8) := srcs.filterMap fun r => (x.binding r).map (·.1)

/-- Where a result goes. -/
inductive Plan where
  | reg (d : Reg)
  | push (q : Fin 8) (l : Loc) (size : Nat)
  | nbr (q : Fin 8) (core : CoreId) (d : Dir)

/-- The Stream faults of a push (R271, R280, R283, R291). -/
def destCheck (i : Instr) (d : Reg) : M Unit := do
  match (← cx).binding d with
  | none => pure ()
  | some (q, t) =>
    match t.kind with
    | .patWrite => if t.fin || t.pat.total ≤ t.ord then raiseStream i 9 q
    | .nbr =>
      settleOp
      let s ← st
      if t.broken || (s.neighbour s.cur.core t.dir).isNone then raiseStream i 6 q
    | _ => raiseStream i 2 q

/-- Check the destination before anything is popped (R273, R276, R283); the store of a push is tracked here, so that a full undo log holds the
instruction back before it has any effect. -/
def planDest (i : Instr) (d : Reg) : M Plan := do
  destCheck i d
  match (← cx).binding d with
  | none => return .reg d
  | some (q, t) =>
    match t.kind with
    | .patWrite =>
      let l ← locate .write (t.pat.addr t.ord) t.pat.size 1
      let s ← st
      if s.refused s.cur.core l.home .wr l.pa t.pat.size then throw (.faultIn (s.countRefusal l.home) cWindow (wd l.va))
      fenceWait false true l.home
      trackM true l.pa t.pat.size
      return .push q l t.pat.size
    | .nbr =>
      let s ← st
      match s.neighbour s.cur.core t.dir with
      | none => raiseStream i 6 q
      | some n =>
        waitUnless (s.nbrCount n (dirOpp t.dir) < 16 && !(← cx).storeHeld)
        return .nbr q n t.dir
    | _ => raiseStream i 2 q

/-- Send an ST for a pushed element (R276). -/
def pushStore (l : Loc) (size : Nat) (v : Word) : M Unit :=
  issue { l := l, op := .store (toBytes v.toNat size), dest := .none, grp := 0, posted := none }

/-- Write a result that is available at issue (R28, R85, R276). -/
def putDest (p : Plan) (v : Word) : M Unit := do
  match p with
  | .reg d => modCx fun x => x.setReg d v
  | .push q l size =>
    modCx fun x => x.modStream q fun t => { t with ord := t.ord + 1 }
    pushStore l size v
  | .nbr q n d =>
    modCx fun x => x.modStream q fun t => { t with ord := t.ord + 1 }
    modSt fun s => s.pushNbr s.cur.core n d false v

/-- Operands of an instruction (R32 order 4, R85, R91, R273): breach, interlocks, sources, destination, then the pops. `extra`
are registers it touches besides. -/
def operands (i : Instr) (srcs : List Reg) (d : Option Reg) (extra : List Reg := []) : M (List Word × Plan) := do
  interlock (srcs ++ d.toList ++ extra)
  let x ← cx
  let vs ← readSources i srcs []
  let p ← match d with
    | some d => planDest i d
    | none => pure (.reg 0)
  for q in (popsOf x srcs) do popStream q 1
  return (vs, p)

/-- Open a lookahead window (R29). -/
def openWindow (d : Reg) (la : Fin 16) : M Unit := do
  if la ≠ 0 ∧ d ≠ 0 then
    modCx fun x => { x with windows := x.windows ++ [{ dest := d, left := la.val, pc := x.pc, acc := x.icount + 1 }] }

/-- The delivery of a long-latency result, by its plan: a register, or the place a push claims (R276, R283). -/
def destOf (p : Plan) (signed : Bool) : Dest :=
  match p with
  | .reg d => if d = 0 then .none else .reg d signed
  | .push q _ _ => .stream q.val signed
  | .nbr q _ _ => .stream q.val signed

/-- Claim the place of a push whose word comes later (R276): the access `of` brings it. -/
def claimPush (p : Plan) (of : Nat) : M Unit := do
  match p with
  | .push q l size =>
    let e ← get
    let c := e.st.cur
    let ask : Ask := { l := l, op := .store (toBytes 0 size), dest := .none, grp := 0, posted := none }
    let a := { ask.access c e none with pend := some (of, ask.req c e 0) }
    set { e with cx := (e.cx.addAccess a).modStream q fun t => { t with ord := t.ord + 1 } }
  | .nbr q _ _ => do
    let c ← me
    modCx fun x => (x.addAccess (x.wordClaim (.core c.core))).modStream q fun t => { t with ord := t.ord + 1 }
  | .reg _ => pure ()

/-- Write a result whose register is ready `n` cc after the issue (R92). -/
def putSlow (p : Plan) (n : Nat) (v : Word) : M Unit := do
  putDest p v
  match p with
  | .reg d => do
    let s ← st
    modCx fun x => x.slow s.clock d (s.ccAfter s.cur.core n)
  | _ => pure ()

/-- Wait for the core's divide unit (R93). -/
def dividerFree : M Unit := do
  let s ← st
  waitUnless (decide ((s.core s.cur.core).divFree ≤ s.clock))
/-- Take the divide unit for `n` cc (R92). -/
def takeDivider (n : Nat) : M Unit := modSt fun s => s.modCore s.cur.core fun k => { k with divFree := s.ccAfter s.cur.core n }

/-- A two-source operation on registers with a latency (R92). -/
def alu2Slow (n : Nat) (i : Instr) (d a b : Reg) (f : Word → Word → Word) : M Unit := do
  let (vs, p) ← operands i [a, b] (some d)
  putSlow p n (f (vs.getD 0 0) (vs.getD 1 0))

/-- A two-source operation on registers. -/
def alu2 (i : Instr) (d a b : Reg) (f : Word → Word → Word) : M Unit := do
  let (vs, p) ← operands i [a, b] (some d)
  putDest p (f (vs.getD 0 0) (vs.getD 1 0))

/-- A one-source operation on registers. -/
def alu1 (i : Instr) (d a : Reg) (f : Word → Word) : M Unit := do
  let (vs, p) ← operands i [a] (some d)
  putDest p (f (vs.getD 0 0))

end Sys2Proof.Machine
end

