-- ==== Sys2Proof/Machine/Flags.lean ====
section
/-! DEFINITION. Flags and rounding modes: FFLAGS, FRM, SRCTR, the status tags and words (03_numbers.md R68-R71, R79-R82). -/
namespace Sys2Proof.Machine

/-- The code of a rounding mode, FRM.MODE for the dynamic one (R45, R80). -/
def rndCode (r : Rnd) (frm : BitVec 3) : Nat :=
  match r with
  | .rne => 0 | .rtz => 1 | .rup => 2 | .rdn => 3 | .sr => 4 | .dyn => frm.toNat

/-- The mode of one scalar rounding: it draws n = SRCTR, k = SRKEY (R71). -/
def Ctx.mode (x : Ctx) (r : Rnd) : RMode := ⟨rndCode r x.frm, x.srctr, x.srkey⟩
/-- The mode of element `i` of a vector instruction (R71). -/
def Ctx.modeAt (x : Ctx) (code i : Nat) : RMode := ⟨code, x.srctr + wd i, x.srkey⟩

/-- OR flags into FFLAGS (R79, R114). -/
def Ctx.orFlags (x : Ctx) (f : Flags) : Ctx := { x with fflags := x.fflags ||| BitVec.ofNat 5 f.toNat }
/-- SRCTR after `n` stochastic roundings (R71). -/
def Ctx.advance (x : Ctx) (code n : Nat) : Ctx := if code = 4 then { x with srctr := x.srctr + wd n } else x

/-- The low `w` bits of a register. -/
def lowBits (v : Word) (w : Nat) : Nat := v.toNat % 2 ^ w

/-- Infinite or NaN elements among codes of an element type (R82 NONFIN). -/
def nonfin (e : Elem) (codes : List Nat) : Nat := (codes.filter fun c => e.nonFinite c).length

/-- The status word of a vector register of a type (R259, R82). -/
def vecStatus (t : VType) (v : VWord) (g : VTag) : Word :=
  statusWord g.first (nonfin t.fmt.elem (unpack v.toNat t.width t.lanes))
    (match t with | .f32 => 0 | .f16 => 1 | .bf16 => 2 | .i32 => 3 | .i16 => 4 | .i8 => 5) g.rnd g.flags

/-- The tag of a result whose elements raised these flags (R253). -/
def tagOf (fl : List Flags) (rnd : Nat) : VTag := { flags := orFlags fl, first := firstFlag fl 0, rnd := rnd }

end Sys2Proof.Machine
end

