-- ==== Sys2Proof/Machine/MemOps.lean ====
section
/-! DEFINITION. Loads and stores, atomics, reductions, update logs, fences and cache control (07_memory_homes.md R199-R213),
and automatic migration before an access (05_contexts.md R126). -/
namespace Sys2Proof.Machine

/-- Bytes of an access (R39, R40). -/
def sizeBytes : Size → Nat | .b => 1 | .h => 2 | .w => 4 | .d => 8
/-- The size numbering of R40. -/
def sizeCode : Size → Nat | .b => 0 | .h => 1 | .w => 2 | .d => 3
/-- Bytes of an atomic or reduction (R42, R43). -/
def dblBytes (dbl : Bool) : Nat := if dbl then 8 else 4
/-- The scope is wider than ctx (R41). DESIGN CHOICE (log 133): what R221 allows an observer outside a scope to see is never seen; at any
scope but ctx the order holds for every observer. -/
def scWide (sc : Scope) : Bool := sc != .ctx

/-! ### Automatic migration (R126) -/

/-- The remote-access count after an access to a home (R126): 8 bits, saturating. -/
def Ctx.countRemote (x : Ctx) (me : CoreId) (h : Home) : Ctx × Nat :=
  match h with
  | .llc _ _ => (x, 0)
  | .core k =>
    if k = me then (x, 0)
    else
      let n := if x.remHome = some (k.pkg, k.vc) then x.remCount + 1 else 1
      ({ x with remCount := min 255 n, remHome := some (k.pkg, k.vc) }, n)

/-- `AutoMigrate` of R200: an attempt when the count passes THRESH or the page asks to be run at home. A context that must wait
for its reservation, or departs, leaves its access for later; any other answer lets the access go on, the count at 0. A core that has refused the
instruction is not asked again for it. `counts` is false for the accesses that are neither load, store nor atomic. -/
def autoMigrate (l : Loc) (counts : Bool := true) : M Unit := do
  let x ← cx
  let c ← me
  let (y, n) := if counts then x.countRemote c.core l.home else (x, 0)
  if (x.thresh ≠ 0 ∧ x.thresh < n) ∨ (l.rah && x.rah) then
    match x.attemptTo c.core l with
    | some h => throw (.leave fun s => match s.ctx? c with
      | some z => s.startMove c { z with remCount := 0, remHome := y.remHome, tried := x.tried } h none
      | none => s)
    | none => modCx fun _ => { y with remCount := 0 }
  else modCx fun _ => if l.homeCore.any x.triedHomes.contains then { y with remCount := 0 } else y

/-! ### Loads, stores, atomics -/

/-- The access is served without a message. -/
def Ex.near (e : Ex) (l : Loc) (load : Bool) (n : Nat) : Bool :=
  (load && ((e.st.forwarded e.st.cur e.cx l n).isSome || e.st.l1Serves e.st.cur e.cx l n)) || (if load then l.reader else l.home) == .core e.st.cur.core

/-- Send a load or atomic whose result goes to a destination, under a lookahead (R29, R91, R190, R193, R276). -/
def fetchTo_ (p : Plan) (l : Loc) (op : ReqOp) (signed : Bool) (d : Reg) (la : Fin 16) : M Unit := do
  let load := match op with | .load _ => true | _ => false
  let n := op.bytes
  let e ← get
  needBuffers (if e.near l load n then 0 else 1)
  trackM false l.pa n
  if !load then trackM true l.pa n
  let g := e.cx.accCtr + 1
  issue { l := l, op := op, dest := destOf p signed, grp := g, posted := none }
  claimPush p g
  finishM g
  if !l.remoteLocal e.st.cur.core then openWindow d la

/-- A load (R200). -/
def loadBody (i : Instr) (srcs : List Reg) (va : List Word → Word) (d : Reg) (sz : Size) (signed acq : Bool) (la : Fin 16) : M Unit := do
  let (vs, p) ← operands i srcs (some d)
  let n := sizeBytes sz
  let l ← locate .read (va vs).toNat n n
  autoMigrate l
  fenceWait true false l.home
  fetchTo_ p l (.load n) signed d la
  if acq then modCx fun x => { x.refetchAll with allAfter := x.accCtr }

/-- Words the core has sent over its neighbour channels have all arrived (R284). -/
def State.nbrLanded (s : State) (c : CoreId) : Bool :=
  !s.net.any fun k => match k.msg with | .nbr _ _ _ _ => k.src == .core c | _ => false

/-- A store (R200). -/
def storeBody (i : Instr) (srcs : List Reg) (va : List Word → Word) (data : Reg) (sz : Size) (rel : Bool) : M Unit := do
  let (vs, _) ← operands i (srcs ++ [data]) none
  let n := sizeBytes sz
  let l ← locate .write (va vs).toNat n n
  autoMigrate l
  if rel then
    drained
    let s ← st
    waitUnless (s.nbrLanded s.cur.core)
  fenceWait false true l.home
  trackM true l.pa n
  issue { l := l, op := .store (toBytes (vs.getLast?.getD 0).toNat n), dest := .none, grp := 0, posted := none }

/-- Translate a posted access. One translated before, that has waited since for a journal entry or a sequence place, is translated again,
and a fault is then not the instruction's own (R239, R241). -/
def locatePosted (k : TKind) (va n : Nat) : M (Except Nat Loc) := do
  faultIf (va % n ≠ 0) cAlign (wd va)
  let e ← get
  let c := e.st.cur
  match e.st.resolve c.core (.data c.core) (some (.ctx c e.cx.icount)) k e.cx.priv va n with
  | (.ok l, s) => set { e with st := s }; return .ok l
  | (.fault f, s) =>
    if e.cx.posted = some (e.cx.icount, e.cx.pc) then do set { e with st := s }; return .error f
    else throw (.faultIn s f (wd va))
  | (.wait, _) => stall
  | (.miss, s) => throw (.walk c.core.clu (fld (s.part c.core.part).atbl 48 16) va)

/-- A posted access that is translated waits for what it takes, and stays translated (R241). -/
def waitTranslated (b : Bool) : M Unit :=
  if b then pure ()
  else throw (.leave fun s => s.modCtx s.cur fun x => { x with posted := some (x.icount, x.pc) })

/-- A posted access (R200, R206, R209): it waits to settle in a speculative task and takes a journal entry; one whose new translation
faults is refused in its entry and not sent (R239). -/
def postBody (kind : TKind) (va n : Nat) (op : Loc → M ReqOp) (code : Nat) (fk sgn : Bool) (size : Nat) (data : Word) (counts : Bool) : M Unit := do
  match ← locatePosted kind va n with
  | .error f =>
    let s ← st
    waitUnless (s.core s.cur.core).freeEntry.isSome
    let j ← takeJournal code fk sgn size va data
    modSt fun s => s.modCore s.cur.core fun k => { k with journal := k.journal.set j { k.journal.get j with state := 2, cause := f } }
  | .ok l =>
    let op ← op l
    autoMigrate l counts
    fenceWait false true l.home
    trackM false l.pa (match op with | .store _ => 0 | _ => op.bytes)
    trackM true l.pa op.bytes
    let e ← get
    waitTranslated ((e.st.core e.st.cur.core).freeEntry.isSome && (!op.seqd || decide (e.st.unanswered e.st.cur e.cx l.home < 63)))
    let j ← takeJournal code fk sgn size l.va data
    issue { l := l, op := op, dest := .none, grp := 0, posted := some j }

/-- The low `n` bytes of a register. -/
def lowBytes (v : Word) (n : Nat) : Nat := v.toNat % 256 ^ n

/-- An atomic (R203). `withOld` reads d as the comparand of ACAS. -/
def atomicBody (i : Instr) (op : AtOp) (d a b : Reg) (dbl withOld : Bool) (la : Fin 16) : M Unit := do
  let (vs, p) ← operands i (if withOld then [a, b, d] else [a, b]) (some d)
  let n := dblBytes dbl
  let l ← locate .rw (vs.getD 0 0).toNat n n
  autoMigrate l
  fenceWait true true l.home
  fetchTo_ p l (.atomic op n (lowBytes (vs.getD 1 0) n) (lowBytes (vs.getD 2 0) n)) false d la

/-- A one-way reduction (R206). -/
def reduceBody (i : Instr) (op : AtOp) (kind : Nat) (sgn : Bool) (a b : Reg) (dbl : Bool) : M Unit := do
  settleOp
  let (vs, _) ← operands i [a, b] none
  let n := dblBytes dbl
  let x := lowBytes (vs.getD 1 0) n
  postBody .rw (vs.getD 0 0).toNat n (fun _ => pure (.reduce op n x)) kind false sgn (if dbl then 3 else 2) (wd x) false

def sumW (vs : List Word) : Word := vs.getD 0 0 + vs.getD 1 0

def execLd (d base : Reg) (sz : Size) (off : BitVec 11) (la : Fin 16) : State → Host.Outcome State Fault Refusal :=
  runWord (loadBody (.ld d base sz off la) [base] (fun vs => vs.getD 0 0 + off.signExtend 64 * wd (sizeBytes sz)) d sz false false la)
def execLds (d base : Reg) (sz : Size) (off : BitVec 11) (la : Fin 16) : State → Host.Outcome State Fault Refusal :=
  runWord (loadBody (.lds d base sz off la) [base] (fun vs => vs.getD 0 0 + off.signExtend 64 * wd (sizeBytes sz)) d sz true false la)
def execSt (data base : Reg) (sz : Size) (off : BitVec 11) : State → Host.Outcome State Fault Refusal :=
  runWord (storeBody (.st data base sz off) [base] (fun vs => vs.getD 0 0 + off.signExtend 64 * wd (sizeBytes sz)) data sz false)
def execLdx (d a b : Reg) (sz : Size) (la : Fin 16) : State → Host.Outcome State Fault Refusal :=
  runWord (loadBody (.ldx d a b sz la) [a, b] sumW d sz false false la)
def execLda (d a b : Reg) (sz : Size) (sc : Scope) (la : Fin 16) : State → Host.Outcome State Fault Refusal :=
  runWord (loadBody (.lda d a b sz sc la) [a, b] sumW d sz false (scWide sc) la)
def execStl (data a b : Reg) (sz : Size) (sc : Scope) : State → Host.Outcome State Fault Refusal :=
  runWord (storeBody (.stl data a b sz sc) [a, b] sumW data sz (scWide sc))
def execStp (data a b : Reg) (sz : Size) : State → Host.Outcome State Fault Refusal :=
  runWord do
    settleOp
    let (vs, _) ← operands (.stp data a b sz) [a, b, data] none
    let n := sizeBytes sz
    let v := lowBytes (vs.getD 2 0) n
    postBody .write (sumW vs).toNat n (fun _ => pure (.store (toBytes v n))) 0 false false (sizeCode sz) (wd v) true

def execAadd (d a b : Reg) (dbl : Bool) (la : Fin 16) : State → Host.Outcome State Fault Refusal :=
  runWord (atomicBody (.aadd d a b dbl la) .add d a b dbl false la)
def execAand (d a b : Reg) (dbl : Bool) (la : Fin 16) : State → Host.Outcome State Fault Refusal :=
  runWord (atomicBody (.aand d a b dbl la) .and d a b dbl false la)
def execAor (d a b : Reg) (dbl : Bool) (la : Fin 16) : State → Host.Outcome State Fault Refusal :=
  runWord (atomicBody (.aor d a b dbl la) .or d a b dbl false la)
def execAxor (d a b : Reg) (dbl : Bool) (la : Fin 16) : State → Host.Outcome State Fault Refusal :=
  runWord (atomicBody (.axor d a b dbl la) .xor d a b dbl false la)
def execAmin (d a b : Reg) (k : Sgn) (dbl : Bool) (la : Fin 16) : State → Host.Outcome State Fault Refusal :=
  runWord (atomicBody (.amin d a b k dbl la) (match k with | .s => .mins | .z => .minz) d a b dbl false la)
def execAmax (d a b : Reg) (k : Sgn) (dbl : Bool) (la : Fin 16) : State → Host.Outcome State Fault Refusal :=
  runWord (atomicBody (.amax d a b k dbl la) (match k with | .s => .maxs | .z => .maxz) d a b dbl false la)
def execAswp (d a b : Reg) (dbl : Bool) (la : Fin 16) : State → Host.Outcome State Fault Refusal :=
  runWord (atomicBody (.aswp d a b dbl la) .swap d a b dbl false la)
def execAcas (d a b : Reg) (dbl : Bool) (la : Fin 16) : State → Host.Outcome State Fault Refusal :=
  runWord (atomicBody (.acas d a b dbl la) .cas d a b dbl true la)
def execAfadd (d a b : Reg) (dbl : Bool) (la : Fin 16) : State → Host.Outcome State Fault Refusal :=
  runWord (atomicBody (.afadd d a b dbl la) .fadd d a b dbl false la)

def execRadd (a b : Reg) (dbl : Bool) : State → Host.Outcome State Fault Refusal :=
  runWord (reduceBody (.radd a b dbl) .add 1 false a b dbl)
def execRmin (a b : Reg) (k : Sgn) (dbl : Bool) : State → Host.Outcome State Fault Refusal :=
  runWord (reduceBody (.rmin a b k dbl) (match k with | .s => .mins | .z => .minz) 2 (k == .z) a b dbl)
def execRmax (a b : Reg) (k : Sgn) (dbl : Bool) : State → Host.Outcome State Fault Refusal :=
  runWord (reduceBody (.rmax a b k dbl) (match k with | .s => .maxs | .z => .maxz) 3 (k == .z) a b dbl)
def execRfadd (a b : Reg) (dbl : Bool) : State → Host.Outcome State Fault Refusal :=
  runWord (reduceBody (.rfadd a b dbl) .fadd 4 false a b dbl)

/-- RLOG (R209). -/
def execRlog (a b : Reg) (flt dbl : Bool) : State → Host.Outcome State Fault Refusal :=
  runWord do
    settleOp
    let (vs, _) ← operands (.rlog a b flt dbl) [a, b] none
    let n := dblBytes dbl
    let x := lowBytes (vs.getD 1 0) n
    let c ← me
    let seq := ((← st).core c.core).rlseq
    let op (l : Loc) : M ReqOp := match l.home with
      | .llc _ _ => raise cAccess (wd l.va)
      | .core _ => pure (.rlog flt dbl x seq.toNat)
    postBody .rw (vs.getD 0 0).toNat n op 5 flt false (if dbl then 3 else 2) (wd x) false
    modSt fun s => s.modCore c.core fun k => { k with rlseq := seq + 1 }

/-! ### RMRG (R211) -/

/-- A record of an update log as read back (R210). -/
structure LogRec where
  pa : Nat
  flt : Bool
  dbl : Bool
  value : Nat
  src : Nat
  seq : Nat

/-- The record a byte string holds (R210). -/
def logRecOf (b : List Byte) : LogRec :=
  let w := wd (dword b 0)
  { pa := fld w 0 52, flt := bitAt w 63, dbl := bitAt w 62, value := dword b 1, src := dword b 2, seq := dword b 3 }

/-- The order of the merge: target, source key, sequence (R211). -/
def LogRec.le (p q : LogRec) : Bool := !lexLt [q.pa, q.src, q.seq] [p.pa, p.src, p.seq]

/-- The records 0 to n-1 of a core's log; one that cannot be read is none (R196). -/
def State.logRecs (s : State) (c : CoreId) (n : Nat) : List (Option LogRec) :=
  (List.range n).map fun i => match s.recordPa c i with
    | none => none
    | some a => if s.poisoned a 32 then none else some (logRecOf (Memory.readN s.mem a 32))

/-- Merge one record at its home: applied, or skipped (R211). -/
def State.mergeRec (s : State) (c : CoreId) (r : LogRec) : State × Bool :=
  let n := dblBytes r.dbl
  if !s.paExists r.pa || s.poisoned r.pa n then (s.meetBad r.pa n, false)
  else
    let a : Actor := { core := c, task := none }
    let s := s.conflict c.part none true r.pa n
    let (b, s) := s.readBytes (.core c) r.pa n
    let v := (if r.flt then AtOp.fadd else AtOp.add).apply n (ofBytes b) (r.value % 256 ^ n) 0
    (s.writeNow a (.core c) r.pa (toBytes v n) true, true)

/-- Merge records in order, counting those applied and those skipped. -/
def State.mergeAll (s : State) (c : CoreId) : List LogRec → Nat → Nat → State × Nat × Nat
  | [], ap, sk => (s, ap, sk)
  | r :: l, ap, sk =>
    match s.mergeRec c r with
    | (s, true) => s.mergeAll c l (ap + 1) sk
    | (s, false) => s.mergeAll c l ap (sk + 1)

/-- RMRG (R211): the merge of the records of the log, in one step. -/
def execRmrg (d : Reg) (la : Fin 16) : State → Host.Outcome State Fault Refusal :=
  runWord do
    settleOp
    let (_, p) ← operands (.rmrg d la) [] (some d)
    let s ← st
    let c := s.cur.core
    for i in List.range (s.core c).logCount do
      let e ← get
      match e.st.translate (.data c) (some (.ctx e.st.cur e.cx.icount)) .none_ .supervisor (e.st.recordVa c i) with
      | (.miss, t) => throw (.walk c.clu (fld (t.part c.part).atbl 48 16) (e.st.recordVa c i))
      | (.wait, _) => stall
      | (_, t) => set { e with st := t }
    let s ← st
    let recs := s.logRecs c (s.core c).logCount
    let good := sortBy LogRec.le (recs.filterMap id)
    waitUnless (!(← cx).loadHeld && !(← cx).busyAt (.core c))
    for r in good do clearFor { core := c, task := none } (.core c) true r.pa (dblBytes r.dbl)
    let (s, ap, sk) := s.mergeAll c good 0 (recs.filter (·.isNone)).length
    modSt fun _ => s.modCore c fun k => { k with logCount := 0 }
    putDest p (wd (sk * 2 ^ 32 + ap))
    openWindow d la

/-! ### Fences and cache control (R212, R213) -/

/-- FENCE (R212): what later accesses wait for. -/
def execFence (k : FenceKind) (sc : Scope) : State → Host.Outcome State Fault Refusal :=
  runWord do
    if scWide sc then
      let s ← st
      if k != .acq then waitUnless (s.nbrLanded s.cur.core)
      modCx fun x =>
        let n := x.accCtr
        match k with
        | .acq => { x.refetchAll with ldAfterLd := n, stAfterLd := n }
        | .rel => { x with stAfterAll := n }
        | .acqrel => { x.refetchAll with ldAfterLd := n, stAfterLd := n, stAfterAll := n }
        | .sc => { x.refetchAll with ldAfterAll := n, stAfterAll := n }

/-- CPREF (R213): the sector into the L1 data cache; nothing when its translation fails. -/
def execCpref (a : Reg) : State → Host.Outcome State Fault Refusal :=
  runWord do
    let (vs, _) ← operands (.cpref a) [a] none
    let e ← get
    let c := e.st.cur
    match e.st.resolve c.core (.data c.core) (some (.ctx c e.cx.icount)) .read e.cx.priv (vs.getD 0 0).toNat 1 with
    | (.ok l, s) =>
      let x := l.pa / 128 * 128
      set { e with st := if cacheable x && !s.writeUnderWay x 128 && !s.poisoned x 128 then s.fillL1d c.core [x] else s }
    | (.miss, s) => throw (.walk c.core.clu (fld (s.part c.core.part).atbl 48 16) (vs.getD 0 0).toNat)
    | (_, s) => set { e with st := s }

/-- CFLUSH (R213): the home writes the sector back (R185); it follows the context's accesses to that home (R191). -/
def execCflush (a : Reg) : State → Host.Outcome State Fault Refusal :=
  runWord do
    let (vs, _) ← operands (.cflush a) [a] none
    let l ← locate .none_ (vs.getD 0 0).toNat 1 1
    waitUnless !(← cx).busyAt l.home
    modSt fun s => { s with dirty := s.dirty.filter fun d => !(d.1 == l.pa / 128 * 128 && d.2 == l.home) }

/-- CDROP (R213): the sector leaves the L1 caches of every core of the partition. -/
def execCdrop (a : Reg) : State → Host.Outcome State Fault Refusal :=
  runWord do
    let (vs, _) ← operands (.cdrop a) [a] none
    let l ← locate .none_ (vs.getD 0 0).toNat 1 1
    let sec := l.pa / 128
    modSt fun s =>
      { s with cores := s.cores.map fun (k, (c : Core)) =>
          if (coreOfKey k).part == s.cur.core.part then (k, { c with l1d := c.l1d.filter (· != sec * 128), l1i := amErase c.l1i sec })
          else (k, c) }

/-- SBWAIT (R213). -/
def execSbwait : State → Host.Outcome State Fault Refusal :=
  runWord do
    let s ← st
    waitUnless (!((← cx).out.any (·.storeLike)) && s.nbrLanded s.cur.core)

end Sys2Proof.Machine
end

