-- ==== Sys2Proof/Machine/Contexts.lean ====
section
/-! DEFINITION. Contexts: starting, waiting, killing, lending, migrating, parking and waking (05_contexts.md R116-R140). -/
namespace Sys2Proof.Machine

/-! ### Identity and checks -/

/-- The identity word (R119). -/
def Ctx.identity (x : Ctx) (c : CtxId) : Word :=
  wd (x.kind.code * 2 ^ 48 + c.core.pkg * 2 ^ 39 + c.core.vc * 2 ^ 28 + c.slot * 2 ^ 24 + x.origin)

/-- The slot where a context was started (R117). -/
def Ctx.originCtx (x : Ctx) (part : Nat) : CtxId := { core := x.originCore part, slot := x.oslot }

/-- Control-only instructions (R140 order 2). -/
def needControl (i : Instr) : M Unit := do faultIf ((← me).slot ≠ 0) cContext (wordOf i)

/-- A slot number in a register (R140 order 1). -/
def slotArg (i : Instr) (lo : Nat) (v : Word) : M Nat := do
  faultIf (v.toNat < lo || 10 < v.toNat) cIllegal (wordOf i)
  return v.toNat

/-- A slot mask in a register (R140 order 1). -/
def maskArg (i : Instr) (v : Word) : M (List Nat) := do
  faultIf (v &&& ~~~(0x7FE#64) != 0) cIllegal (wordOf i)
  return (List.range 11).filter fun n => bitAt v n

/-- A slot holds a task (R116). -/
def State.holdsTask (s : State) (c : CtxId) : Bool :=
  (s.part c.core.part).tasks.any fun t => t.st == .running && t.place == some c

/-- A kill is on its way to the slot's context, or the context is already stopping (R129, R131). -/
def State.stopping (s : State) (c : CtxId) : Bool :=
  (s.slot c).killSent || ((s.ctx? c).any fun x => x.leaving.isSome)

/-- The jobs of a context that have not completed (R123). -/
def State.jobsOut (s : State) (c : CtxId) : Bool := s.jobs.any fun j => j.issuer == c

/-- Every access, MXU command and copy job of the context has completed, its words to neighbours among them (R123, R223, R284). -/
def State.quiet (s : State) (c : CtxId) (x : Ctx) : Bool := x.out.isEmpty && x.mxOut == 0 && !s.jobsOut c && s.nbrLanded c.core

/-- The place of a context that was started in a slot, wherever it runs now (R117). -/
def State.whereIs (s : State) (o : CtxId) : Option CtxId :=
  s.ctxIds.find? fun c => c.core.part == o.core.part && (s.ctx? c).any fun x => x.originCtx o.core.part == o && x.kind != .lent

/-- A context of an origin is in flight (R122, R406). -/
def Packet.carries (k : Packet) (o : CtxId) : Bool :=
  match k.msg with
  | .image _ _ g => k.part == o.core.part && g.opkg == o.core.pkg && g.ovc == o.core.vc && g.oslot == o.slot
  | _ => false

/-! ### Starting and stopping helpers -/

/-- HSTART (R132, R133). -/
def execHstart (d a b : Reg) : State → Host.Outcome State Fault Refusal :=
  runWord do
    let i := Instr.hstart d a b
    let (vs, p) ← operands i [a, b] (some d)
    let n ← slotArg i 1 (vs.getD 0 0)
    needControl i
    let va := vs.getD 1 0
    faultIf (va.toNat % 64 ≠ 0) cAlign va
    let c ← me
    let x ← cx
    let blk ← liftR (ctxRead c x false va.toNat 64)
    let t : CtxId := { c with slot := n }
    if ((← st).slot t).state ≠ .free then putDest p 1
    else if dword blk 0 % 4 ≠ 0 then putDest p 8
    else
      drained
      waitUnless ((← st).nbrLanded c.core)
      let y := Ctx.blank c.core n .held
      let regs := (List.range 7).foldl (fun (r : Vector Word 32) j => r.set (Fin.ofNat 32 (j + 2)) (wd (dword blk (j + 1)))) y.regs
      modSt fun s => s.modSlot t fun l => { l with
        state := .held, killSent := false
        ctx := some { y with regs := regs, pc := wd (dword blk 0), frm := x.frm, srkey := x.srkey, rah := x.rah, thresh := x.thresh } }
      putDest p 0

/-- HWAIT (R134). -/
def execHwait (d a : Reg) : State → Host.Outcome State Fault Refusal :=
  runWord do
    let i := Instr.hwait d a
    let (vs, p) ← operands i [a] (some d)
    let n ← slotArg i 1 (vs.getD 0 0)
    needControl i
    let l := (← st).slot { (← me) with slot := n }
    waitUnless (l.state != .held && l.state != .away && l.state != .recall)
    putDest p l.exitVal

/-- HKILL (R134). -/
def execHkill (d a : Reg) : State → Host.Outcome State Fault Refusal :=
  runWord do
    let i := Instr.hkill d a
    let (vs, p) ← operands i [a] (some d)
    let n ← slotArg i 1 (vs.getD 0 0)
    needControl i
    let c ← me
    let t : CtxId := { c with slot := n }
    let s ← st
    let l := s.slot t
    if (l.state = .held ∨ l.state = .away) ∧ !s.stopping t then
      let dst : CoreId := if l.state = .away then { c.core with pkg := l.awayPkg, vc := l.awayVc } else c.core
      modSt fun s => (s.modSlot t fun l => { l with killSent := true }).send c.core.part 2 (.core c.core) (.core dst) 0
        (.kill t c.core.pkg c.core.vc n)
      putDest p 0
    else putDest p 2

/-- The self-exit form of HKILL (R134). It never executes once a kill has reached its slot (R129). -/
def execHkillSelf (d b : Reg) : State → Host.Outcome State Fault Refusal :=
  runWord do
    let i := Instr.hkillSelf d b
    let (vs, _) ← operands i [b] none
    faultIf (d ≠ 0) cIllegal (wordOf i)
    let x ← cx
    faultIf (x.kind == .control || x.kind == .lent) cContext (wordOf i)
    let c ← me
    waitUnless !((← st).slot (x.originCtx c.core.part)).killSent
    modCx fun x => { x with leaving := some { value := vs.getD 0 0, how := 1 } }

/-- HSTAT (R135). -/
def execHstat (d a : Reg) : State → Host.Outcome State Fault Refusal :=
  runWord do
    let i := Instr.hstat d a
    let (vs, p) ← operands i [a] (some d)
    let n ← slotArg i 0 (vs.getD 0 0)
    needControl i
    if n = 0 then putDest p 8
    else
      let l := (← st).slot { (← me) with slot := n }
      let away := if l.state = .away then l.awayPkg * 2 ^ 20 + l.awayVc * 2 ^ 9 else 0
      let now := match l.ctx with
        | some y => b2n y.pin * 2 ^ 6 + b2n y.light * 2 ^ 5 + b2n y.parked.isSome * 2 ^ 4
        | none => 0
      putDest p (wd (away + l.exitHow * 2 ^ 7 + now + l.state.code))

/-- HLEND (R136). -/
def execHlend (d a : Reg) : State → Host.Outcome State Fault Refusal :=
  runWord do
    let i := Instr.hlend d a
    let (vs, p) ← operands i [a] (some d)
    let ns ← maskArg i (vs.getD 0 0)
    needControl i
    let k := (← st).core (← me).core
    let lent := ns.filter fun n => (k.slot n).state == .free
    let c ← me
    modSt fun s => lent.foldl (fun s n => s.modSlot { c with slot := n } fun l => { l with state := .lent }) s
    putDest p (wd (lent.foldl (fun m n => m + 2 ^ n) 0))

/-- HRECL (R136): what it writes is the mask of every slot that is FREE after it. -/
def execHrecl (d a : Reg) : State → Host.Outcome State Fault Refusal :=
  runWord do
    let i := Instr.hrecl d a
    let (vs, p) ← operands i [a] (some d)
    let ns ← maskArg i (vs.getD 0 0)
    needControl i
    let c ← me
    modSt fun s => ns.foldl (fun s n =>
      let t : CtxId := { c with slot := n }
      s.modSlot t fun l => if l.state = .lent then { l with state := if s.holdsTask t then .recall else .free } else l) s
    let k := (← st).core c.core
    putDest p (wd (((List.range 11).filter fun n => n != 0 && (k.slot n).state == .free).foldl (fun m n => m + 2 ^ n) 0))

/-! ### Identity, priority, pinning -/

/-- SELF (R137). -/
def execSelf (d : Reg) : State → Host.Outcome State Fault Refusal :=
  runWord do
    let (_, p) ← operands (.self d) [] (some d)
    putDest p ((← cx).identity (← me))

/-- YIELD (R137). -/
def execYield : State → Host.Outcome State Fault Refusal :=
  runWord (modCx fun x => { x with yielded := true })

/-- Write PIN and deliver its old value (R137). -/
def setPin (i : Instr) (d : Reg) (v : Bool) : M Unit := do
  let (_, p) ← operands i [] (some d)
  let old := (← cx).pin
  modCx fun x => { x with pin := v }
  putDest p (wd (b2n old))

/-- PIN (R137). -/
def execPin (d : Reg) : State → Host.Outcome State Fault Refusal := runWord (setPin (.pin d) d true)
/-- UNPIN (R137). -/
def execUnpin (d : Reg) : State → Host.Outcome State Fault Refusal := runWord (setPin (.unpin d) d false)

/-! ### Migration -/

/-- MIGR (R122, R131, R138). An attempt that asked for a reservation and was refused finds the answer here. -/
def execMigr (d a : Reg) : State → Host.Outcome State Fault Refusal :=
  runWord do
    let x0 ← cx
    let (vs, p) ← operands (.migr d a) [a] (some d)
    let x ← cx
    if x.moving.isSome then
      modCx fun x => { x with moving := none }
      putDest p 1
    else if !x.light then putDest p 4
    else if !(x.kind == .held || x.kind == .guest) || x.inh then putDest p 6
    else if x.pin then putDest p 5
    else
      let l ← locate .none_ (vs.getD 0 0).toNat 1 1
      match l.homeCore with
      | none => putDest p 7
      | some h =>
        if h = (← me).core then putDest p 3
        else throw (.done ((← st).startMove (← me) x0 h (some d)))

/-- MIGRATION_RESERVE (R116, R122, R129): the lowest FREE slot becomes RESERVED, or the request is refused. Of requests that
stand at the core together the one from the lower package and vcore comes first. -/
def State.migrationReserve (s : State) (id : Nat) : State :=
  match s.deliverable id with
  | some k => match k.msg with
    | .reserve src t =>
      let sooner := s.net.any fun q => match q.msg with
        | .reserve b u => u == t && lexLt [b.core.pkg, b.core.vc] [src.core.pkg, src.core.vc] && (s.deliverable q.id).isSome
        | _ => false
      if sooner then s
      else
        let s := s.dropPkt id
        let free := (List.range 11).find? fun n => n != 0 && ((s.core t).slot n).state == .free
        let s := match free with
          | some n => s.modSlot { core := t, slot := n } fun l => { l with state := .reserved }
          | none => s
        s.send k.part 1 (.core t) (.core src.core) 0 (.grant src free t)
    | _ => s
  | none => s

/-- RESERVATION_REPLY (R122): the answer reaches the requester; a grant it no longer waits for is cancelled. -/
def State.reservationReply (s : State) (id : Nat) : State :=
  match s.deliverable id with
  | some k => match k.msg with
    | .grant dst slot t =>
      let s := s.dropPkt id
      let wanted := match (s.ctx? dst).bind (·.moving) with
        | some m => m.target == t && m.asked.isSome && !m.answered
        | none => false
      if wanted then
        s.modCtx dst fun x => { x with moving := x.moving.map fun m => { m with slot := slot, answered := true } }
      else match slot with
        | some n => s.send k.part 0 (.core dst.core) (.core t) 0 (.cancel t n)
        | none => s
    | _ => s
  | none => s

/-- RESERVATION_TIMEOUT (R128): 2 us without an answer count as a refusal. -/
def State.reservationTimeout (s : State) (c : CtxId) : State :=
  match (s.ctx? c).bind (·.moving) with
  | some { asked := some t, answered := false, .. } =>
    if t + 2000 * Config.ccPerNs ≤ s.clock then
      s.modCtx c fun x => { x with moving := x.moving.map fun m => { m with slot := none, answered := true } }
    else s
  | _ => s

/-- RESERVATION_CANCEL (R116, R122). -/
def State.reservationCancel (s : State) (id : Nat) : State :=
  match s.deliverable id with
  | some k => match k.msg with
    | .cancel t n => (s.dropPkt id).modSlot { core := t, slot := n } fun l => if l.state = .reserved then { l with state := .free } else l
    | _ => s
  | none => s

/-- The image of R124 of a context that resumes at a PC. -/
def Ctx.pack (x : Ctx) : Image :=
  { regs := x.regs.toList, pc := x.pc, pin := x.pin, wakep := x.wakep, srkey := x.srkey, srctr := x.srctr, fflags := x.fflags
    frm := x.frm, swst := x.swst, rah := x.rah, thresh := x.thresh, opkg := x.opkg, ovc := x.ovc, oslot := x.oslot
    parked := x.parked, remHome := x.remHome, windows := x.windows }

/-- The context as it leaves: MIGR has written OK and passed (R138); an automatic departure repeats its access (R126). -/
def Ctx.atDeparture (x : Ctx) (dest : Option Reg) : Ctx :=
  match dest with
  | some d => { x.setReg d 0 with
      pc := x.pc + 4
      windows := (x.windows.map fun u => { u with left := u.left - 1, acc := 0 }).filter fun u => u.left != 0 }
  | none => { x with windows := x.windows.map fun u => { u with acc := 0 } }

/-- MIGRATION_DEPART (R116, R117, R122-R124): the drained context leaves for the slot held for it, every result out of the pipeline (R92). -/
def State.migrationDepart (s : State) (c : CtxId) : State :=
  match s.ctx? c with
  | none => s
  | some x => match x.moving with
    | some { target := h, slot := some n, dest := d, .. } =>
      if (s.part c.core.part).live && !(s.slot c).halted && x.leaving.isNone && s.quiet c x && !x.barPend && x.lat.all (fun e => e.2 ≤ s.clock) &&
          s.canSend (.core c.core) (.core h) 5 then
        let o := x.originCtx c.core.part
        let s := s.vacate c (if o = c then .away else .free)
        let s := s.modSlot o fun l => { l with awayPkg := h.pkg, awayVc := h.vc }
        s.send c.core.part 0 (.core c.core) (.core h) 5 (.image h n (x.atDeparture d).pack)
      else s
    | _ => s

/-- A message for a context that is gone (R406): counted, and the sender is told. -/
def State.orphaned (s : State) (at_ : CoreId) (sender : CtxId) : State :=
  (s.modCore at_ fun k => { k with orphan := k.orphan + 1 }).send at_.part 1 (.core at_) (.core sender.core) 0 (.nack sender 0 cAbsent)

/-- A wake reaches a context (R127): it ends a park, or is kept. -/
def Ctx.woken (x : Ctx) : Ctx :=
  if x.parked.isSome then { x with parked := none, parkDone := some true } else { x with wakep := true }

/-- A wake reaches the context of a slot (R127, R129). -/
def State.wakeHere (s : State) (c : CtxId) (sender : CtxId) : State :=
  if (s.ctx? c).any (·.leaving.isSome) then s.orphaned c.core sender else s.modCtx c Ctx.woken

/-- A kill reaches the context of a slot (R129, R134): it stops; already stopping, nothing changes. What the context was refused and not yet told of
ends with it. -/
def State.killHere (s : State) (c : CtxId) : State :=
  if (s.ctx? c).any (·.leaving.isSome) then s
  else (s.cancelMove c).modCtx c fun x =>
    { x.unpark with leaving := some { value := BitVec.allOnes 64, how := 2 }, out := x.out.filter (·.err.isNone) }

/-- The context a message of an inbound park waits for (R406). -/
def Packet.parkedFor (k : Packet) : Option CtxId :=
  if k.stage == .parked then match k.msg with | .wake t _ _ _ _ | .kill t _ _ _ => some t | _ => none else none
/-- Messages parked for a context that has been placed are delivered in the order of their arrival, before any instruction of it (R129, R406). -/
def State.unpark (s : State) (o c : CtxId) : State :=
  (sortBy (fun (p q : Packet) => p.at_ ≤ q.at_) (s.net.filter fun k => k.parkedFor == some o)).foldl (fun s k =>
    let s := s.dropPkt k.id
    match k.msg with
    | .wake _ _ _ _ sender => s.wakeHere c sender
    | .kill _ _ _ _ => s.killHere c
    | _ => s) s

/-- MIGRATION_ARRIVAL (R116-R118, R124): the context is placed. -/
def State.migrationArrival (s : State) (id : Nat) : State :=
  match s.deliverable id with
  | some k => match k.msg with
    | .image t n g =>
      let c : CtxId := { core := t, slot := n }
      let o : CtxId := { core := { part := t.part, pkg := g.opkg, vc := g.ovc }, slot := g.oslot }
      let home := o == c
      let y := Ctx.blank t n (if home then .held else .guest)
      let y := { y with
        regs := Vector.ofFn fun r : Fin 32 => g.regs.getD r.val 0
        pc := g.pc, pin := g.pin, wakep := g.wakep, opkg := g.opkg, ovc := g.ovc, oslot := g.oslot, srkey := g.srkey
        srctr := g.srctr, fflags := g.fflags, frm := g.frm, swst := g.swst, rah := g.rah, thresh := g.thresh
        parked := g.parked, remHome := g.remHome, windows := g.windows }
      let s := (s.dropPkt id).modSlot c fun l => { l with
        ctx := some y, state := if home then .held else .guest, awayPkg := if home then 0 else l.awayPkg
        awayVc := if home then 0 else l.awayVc }
      s.unpark o c
    | _ => s
  | none => s

/-! ### The end of a context -/

/-- The exit value reaches the origin slot (R117, R134). -/
def State.report (s : State) (o : CtxId) (v : Word) (how : Nat) : State :=
  s.modSlot o fun l => { l with exitVal := v, exitHow := how, killSent := false, awayPkg := 0, awayVc := 0
                                state := if l.state = .away then .free else l.state }

/-- EXIT_COMPLETE (R116, R117, R133, R134): the stopping context has drained; its grant, bindings and slot are released. -/
def State.exitComplete (s : State) (c : CtxId) : State :=
  match s.ctx? c with
  | none => s
  | some x => match x.leaving with
    | none => s
    | some e =>
      if (s.part c.core.part).onChip c.core.pkg && s.quiet c x then
        let o := x.originCtx c.core.part
        let s := (s.endOwner c.core.part x).vacate c .free
        if o = c then s.report o e.value e.how
        else s.send c.core.part 0 (.core c.core) (.core o.core) 0 (.exit o e.value e.how)
      else s

/-- EXIT_NOTICE (R117). -/
def State.exitNotice (s : State) (id : Nat) : State :=
  match s.deliverable id with
  | some k => match k.msg with
    | .exit o v how => (s.dropPkt id).report o v how
    | _ => s
  | none => s

/-- Messages a core's inbound park holds (R406). -/
def State.parkedAt (s : State) (c : CoreId) : Nat := (s.net.filter fun k => k.stage == .parked && k.dst == .core c).length

/-- A message addressed to the context whose origin is `o` stands at a core (R127, R129, R406): `meet` says what it does to the context, if that is
here. One in flight to here is awaited in the inbound park, which refuses the message when it is full; one that is gone makes it an orphan; it
follows the context elsewhere. -/
def State.addressed (s : State) (k : Packet) (here : CoreId) (o sender : CtxId) (meet : CtxId → State → State) : State :=
  match (s.whereIs o).filter (·.core == here) with
  | some c => meet c (s.dropPkt k.id)
  | none =>
    if s.net.any fun q => q.carries o && q.dst == .core here then
      if 16 ≤ s.parkedAt here then (s.dropPkt k.id).send k.part 1 (.core here) (.core sender.core) 0 (.nack sender 0 cAbsent)
      else s.modPkt k.id fun q => { q with stage := .parked, cls := 4, at_ := s.clock }
    else if (o.core = here ∧ (s.slot o).state ≠ .away) ∨ ((s.whereIs o).isNone ∧ !s.net.any (·.carries o)) then (s.dropPkt k.id).orphaned here sender
    else
      let l := s.slot o
      let dst : CoreId := if o.core = here then { here with pkg := l.awayPkg, vc := l.awayVc } else o.core
      (s.dropPkt k.id).send k.part 2 (.core here) (.core dst) 0 k.msg

/-- KILL_ARRIVAL (R122, R129, R134, R406): the context stops where it now is; gone, it is an orphan (log 145): a slot whose context has ended has
no kill under way any more. -/
def State.killArrival (s : State) (id : Nat) : State :=
  match s.deliverable id with
  | some k => match k.msg, k.dst with
    | .kill o _ _ _, .core here =>
      let sender : CtxId := { core := o.core, slot := 0 }
      if !(s.slot o).killSent then (s.dropPkt id).orphaned here sender
      else s.addressed k here o sender fun c s => s.killHere c
    | _, _ => s
  | none => s

/-! ### Parking and waking -/

/-- PARK (R127, R139). -/
def execPark (d a : Reg) : State → Host.Outcome State Fault Refusal :=
  runWord do
    let i := Instr.park d a
    let s0 ← st
    let x0 ← cx
    let (vs, p) ← operands i [a] (some d)
    faultIf (x0.kind == .lent) cContext (wordOf i)
    match (← cx).parkDone with
    | some woken =>
      modCx fun x => { x with parkDone := none }
      putDest p (wd (b2n woken))
    | none =>
      if (← cx).wakep then
        modCx fun x => { x with wakep := false }
        putDest p 1
      else
        let t := (vs.getD 0 0).toNat
        throw (.done (s0.putCtx s0.cur { x0 with
          parked := some (if t = 0 then none else some (s0.clock + t * Config.ccPerNs)) }))

/-- PARK_TIMEOUT (R127, R128). -/
def State.parkTimeout (s : State) (c : CtxId) : State :=
  match (s.ctx? c).bind (·.parked) with
  | some (some t) =>
    if t ≤ s.clock && (s.part c.core.part).live then s.modCtx c fun x => { x with parked := none, parkDone := some false } else s
  | _ => s

/-- Send a wake to the origin slot of a context (R139). A core that is not of the partition has none. -/
def State.sendWake (s : State) (from_ : CtxId) (ident : Word) : State :=
  let o : CtxId := { core := { part := from_.core.part, pkg := fld ident 15 6, vc := fld ident 4 11 }, slot := fld ident 0 4 }
  if s.hasCore o.core then s.send from_.core.part 2 (.core from_.core) (.core o.core) 0 (.wake o o.core.pkg o.core.vc o.slot from_)
  else s

/-- Queue an action of a speculative task (R166); a ninth waits to settle, which the task remembers (R175). The answer is whether it was queued. -/
def queueAction (a : Action) : M Bool := do
  let s ← st
  let x ← cx
  let p := s.cur.core.part
  if s.speculative p x then
    match s.task? p x.task with
    | some t =>
      if 8 ≤ t.actions.length then throw (.leave fun s => s.modTask p t.id fun t => { t with waitedOp := true })
      else
        modSt fun s => s.modTask p t.id fun t => { t with actions := t.actions ++ [(s.nextId, a)] }
        return true
    | none => return false
  else
    -- a settled task performs it at once; a wake or a message cannot be undone (R175)
    match a, x.task with
    | .defer _ _ _ _ _, _ | _, none => pure ()
    | _, some id => modSt fun s => s.modTask p id fun t => { t with waitedOp := true }
    return false

/-- WAKE (R139). -/
def execWake (a : Reg) : State → Host.Outcome State Fault Refusal :=
  runWord do
    let i := Instr.wake a
    let (vs, _) ← operands i [a] none
    let v := vs.getD 0 0
    faultIf (10 < fld v 0 4) cIllegal (wordOf i)
    if !(← queueAction (.wake v)) then
      if fld v 0 21 = (← cx).origin then modCx fun x => { x with wakep := true }
      else
        let c ← me
        modSt fun s => s.sendWake c v

/-- WAKE_ARRIVAL (R127, R129, R406): the wake ends a park or is kept; an AWAY slot forwards it; a context in flight to this core
is awaited in the inbound park; any other slot drops it. -/
def State.wakeArrival (s : State) (id : Nat) : State :=
  match s.deliverable id with
  | some k => match k.msg, k.dst with
    | .wake o _ _ _ sender, .core here => s.addressed k here o sender fun c s => s.wakeHere c sender
    | _, _ => s
  | none => s

/-- INBOUND_PARK_TIMEOUT: 10,000 ns in the inbound park end in a refusal (R406), unless the context is placed in that very cycle (R420). -/
def State.inboundParkTimeout (s : State) (id : Nat) : State :=
  match s.pkt? id with
  | some k =>
    if k.stage == .parked && k.at_ + 10000 * Config.ccPerNs < s.clock then
      match k.msg with
      | .wake _ _ _ _ sender => (s.dropPkt id).send k.part 1 k.dst (.core sender.core) 0 (.nack sender 0 cAbsent)
      | _ => s.dropPkt id
    else s
  | none => s

def execMigrationReserve (m : Nat) : State → Host.Outcome State Fault Refusal := runEvent (·.migrationReserve m)
def execReservationReply (m : Nat) : State → Host.Outcome State Fault Refusal := runEvent (·.reservationReply m)
def execReservationTimeout (c : CtxId) : State → Host.Outcome State Fault Refusal := runEvent (·.reservationTimeout c)
def execReservationCancel (m : Nat) : State → Host.Outcome State Fault Refusal := runEvent (·.reservationCancel m)
def execMigrationDepart (c : CtxId) : State → Host.Outcome State Fault Refusal := runEvent (·.migrationDepart c)
def execMigrationArrival (m : Nat) : State → Host.Outcome State Fault Refusal := runEvent (·.migrationArrival m)
def execExitComplete (c : CtxId) : State → Host.Outcome State Fault Refusal := runEvent (·.exitComplete c)
def execExitNotice (m : Nat) : State → Host.Outcome State Fault Refusal := runEvent (·.exitNotice m)
def execKillArrival (m : Nat) : State → Host.Outcome State Fault Refusal := runEvent (·.killArrival m)
def execWakeArrival (m : Nat) : State → Host.Outcome State Fault Refusal := runEvent (·.wakeArrival m)
def execParkTimeout (c : CtxId) : State → Host.Outcome State Fault Refusal := runEvent (·.parkTimeout c)
def execInboundParkTimeout (m : Nat) : State → Host.Outcome State Fault Refusal := runEvent (·.inboundParkTimeout m)

end Sys2Proof.Machine
end

