-- ==== Sys2Proof/Machine/Barriers.lean ====
section
/-! DEFINITION. Named barriers and reductions (17_barriers.md R387-R398). -/
namespace Sys2Proof.Machine

/-- TVAL of a Barrier fault (R397). -/
def barTval (i : Instr) (sub n : Nat) : Word := wd ((encode i).getD 0 + sub * 2 ^ 32 + n * 2 ^ 40)

def State.barrier (s : State) (p n : Nat) : Barrier := (s.part p).barriers.get (Fin.ofNat 32 n)
def State.setBarrier (s : State) (p n : Nat) (b : Barrier) : State :=
  s.modPart p fun q => { q with barriers := q.barriers.set (Fin.ofNat 32 n) b }

/-- The arrival count of a cluster in the current generation (R387). -/
def Barrier.count (b : Barrier) (u : Nat) : Nat := amGet 0 b.counts u
/-- The count BSET has last set for a cluster (R395, R396). -/
def Barrier.countSet (b : Barrier) (u : Nat) : Nat := amGet (b.count u) b.joins u
/-- The member clusters (R387). -/
def Barrier.members (b : Barrier) : List Nat := (b.counts.filter fun c => c.2 != 0).map (·.1)

/-- `Combine` of R392. -/
def bredCombine (op : BredOp) (c x : Word) : Word :=
  match op with
  | .add => c + x
  | .fadds => wd (fp32.deliver rneMode (exAdd false (fp32.dec (c.toNat % 2 ^ 32)) (fp32.dec (x.toNat % 2 ^ 32)))).1
  | .faddd => wd (fp64.deliver rneMode (exAdd false (fp64.dec c.toNat) (fp64.dec x.toNat))).1
  | .min => if x.toInt < c.toInt then x else c
  | .max => if c.toInt < x.toInt then x else c
  | .and => c &&& x
  | .or => c ||| x

/-- A left fold; one contribution passes unchanged (R392). -/
def bredFold (op : BredOp) : List Word → Word
  | [] => 0
  | v :: r => r.foldl (bredCombine op) v

/-- The die of a cluster, with its package (R392). -/
def State.cluDie (s : State) (u : Nat) : Nat :=
  match s.cluCores (cluOfKey u) with
  | c :: _ => c.pkg * 4 + s.dieOf c
  | [] => (cluOfKey u).pkg * 4

/-- The lowest virtual cluster of a partition that stands on a die of a package (R392), whether it contributes or not. -/
def State.dieKey (s : State) (p d : Nat) : Nat :=
  (((s.partClus p).filter fun u => s.cluDie u.key == d).map (·.clu)).foldl min (2 ^ 32)

/-- The fold of a generation's contributions up the tree (R392): cluster, die, package, domain. -/
def State.foldTree (s : State) (p : Nat) (op : BredOp) (l : AMap (List Arrival)) : Word :=
  let clus : List (Nat × Word) := l.filterMap fun (u, as_) =>
    let vs := (sortBy (fun (a b : Arrival) => !lexLt [b.src.core.vc, b.src.slot] [a.src.core.vc, a.src.slot]) (as_.filter (·.op.isSome))).map (·.value)
    if vs.isEmpty then none else some (u, bredFold op vs)
  let dies := sortBy (fun d e => !lexLt [e / 4, s.dieKey p e] [d / 4, s.dieKey p d]) (dedup (clus.map fun x => s.cluDie x.1))
  let dieRes : List (Nat × Word) := dies.map fun d => (d / 4, bredFold op ((clus.filter fun x => s.cluDie x.1 == d).map (·.2)))
  bredFold op ((dedup (dieRes.map (·.1))).map fun g => bredFold op ((dieRes.filter fun x => x.1 == g).map (·.2)))

/-- The release value of a generation (R391): none is MIXED. -/
def State.releaseValue (s : State) (p : Nat) (b : Barrier) : Option Word :=
  match dedup ((b.arrived.flatMap (·.2)).filterMap (·.op)) with
  | [] => some (wd b.gen.toNat)
  | [op] => some (s.foldTree p op b.arrived)
  | _ => none

/-- Every cluster of some has counted its full number of arrivals, and there is one. -/
def Barrier.full (b : Barrier) (l : List Nat) : Bool := !l.isEmpty && l.all fun u => ((amGet [] b.arrived u).length) == b.count u
/-- A generation is complete (R387). -/
def Barrier.complete (b : Barrier) : Bool := b.full b.members
/-- The node of the cluster's die, or that of its package, has completed the current generation (R392, R396). -/
def State.levelDone (s : State) (b : Barrier) (u : Nat) : Bool :=
  b.full (b.members.filter fun v => s.cluDie v == s.cluDie u) || b.full (b.members.filter fun v => s.cluDie v / 4 == s.cluDie u / 4)

/-- Held arrivals of the clusters whose count is nonzero are counted, up to the count (R388). -/
def Barrier.countHeld (b : Barrier) : Barrier :=
  b.members.foldl (fun b u =>
    let here := amGet [] b.arrived u
    let held := amGet [] b.held u
    let n := b.count u - here.length
    { b with arrived := if (here ++ held.take n).isEmpty then amErase b.arrived u else amSet b.arrived u (here ++ held.take n)
             held := if (held.drop n).isEmpty then amErase b.held u else amSet b.held u (held.drop n) }) b

/-- Complete generations while they are full (R387, R388, R391): each arrival's context is sent the release. Counts set for the next generation come
into force (R396). -/
def State.settleBarrier (s : State) (p n : Nat) : Nat → State
  | 0 => s
  | fuel + 1 =>
    let b := s.barrier p n
    if b.complete then
      let v := s.releaseValue p b
      let s := (b.arrived.flatMap (·.2)).foldl (fun s a => s.modCtx a.src fun x =>
        if x.barPend && x.barId == a.id then { x with released := some v } else x) s
      let counts := b.joins.foldl (fun m j => amSet m j.1 j.2) b.counts
      (s.setBarrier p n { b with gen := b.gen + 1, counts := counts, joins := [], arrived := [] }.countHeld).settleBarrier p n fuel
    else s

/-- Arrivals a barrier holds. -/
def Barrier.waiting (b : Barrier) : Nat := (b.held.map fun h => h.2.length).foldl (· + ·) 1

/-- An arrival that stands at the node of a cluster for a barrier. -/
def Packet.arrivalAt (k : Packet) (u : CluId) (n : Nat) : Bool :=
  k.stage == .ready && match k.msg with | .arrive v m _ _ _ _ => v == u && m == n | _ => false
/-- Where the source of a message to a barrier node runs (R215). -/
def Packet.arrivalPlace (k : Packet) : List Nat := match k.msg with | .arrive _ _ _ c _ _ => [c.core.pkg, c.core.vc, c.slot] | _ => []

/-- BARRIER_ARRIVAL (R387, R388, R398): an arrival reaches its cluster's node; once that cycle is over it is counted there, or held, those of one
cycle in the order of R215. A BSET of the same cycle comes after it. -/
def State.barrierArrival (s : State) (id : Nat) : State :=
  match s.pkt? id with
  | some k => match k.msg with
    | .arrive u n aid src op v =>
      let b := s.barrier u.part n
      if !(s.part u.part).live then s
      else if k.stage != .ready then
        if b.setAt == s.clock + 1 then s else s.modPkt id fun q => { q with stage := .ready, at_ := s.clock }
      else if s.clock ≤ k.at_ || s.net.any (fun q => q.arrivalAt u n && (q.at_ < k.at_ || (q.at_ == k.at_ && lexLt q.arrivalPlace k.arrivalPlace))) then s
      else
        let s := s.dropPkt id
        let a : Arrival := { id := aid, gen := b.gen, src := src, op := op, value := v }
        let s := s.setBarrier u.part n { b with held := amSet b.held u.key (amGet [] b.held u.key ++ [a]) }.countHeld
        s.settleBarrier u.part n ((s.barrier u.part n).waiting + 1)
    | _ => s
  | none => s

/-- BARRIER_RELEASE (R387, R395, R409). -/
def State.barrierRelease (s : State) (c : CtxId) : State :=
  if (s.part c.core.part).live then
    s.modCtx c fun x => match x.released with
      | none => x
      | some v => { x with barPend := false, released := none, lastv := v.getD x.lastv, mixed := x.mixed || v.isNone }
  else s

/-- `Arrive` of R395 after its operands: every earlier access has been performed (R390), and the arrival is sent. -/
def arrive (i : Instr) (n : Word) (op : Option BredOp) (v : Word) : M Unit := do
  faultIf (31 < n.toNat) cIllegal (wordOf i)
  waitUnless !(← cx).barPend
  let c ← me
  let u := c.core.clu
  faultIf (((← st).barrier u.part n.toNat).countSet u.key == 0) cBarrier (barTval i 1 n.toNat)
  drained
  waitUnless ((← st).nbrLanded c.core)
  let (aid, s) := (← st).newId
  let (id, s) := s.newId
  modSt fun _ => { s with net := s.net ++ [{ id := id, part := u.part, cls := 3, src := .core c.core, dst := .barrier u, pseq := 0, len := 0
                                             trim := false, retx := false, tcnt := 0, dmark := 0, stage := .flying, at_ := s.clock, judged := none
                                             msg := .arrive u n.toNat aid c op v }] }
  modCx fun x => { x with barPend := true, barNo := n.toNat, barId := aid }

/-- A wait (R390, R395): the release received, and the acquire. A MIXED release faults once, and its instruction has popped nothing (R90):
it stands as in `s0`, where its context was `x0`. -/
def barWait (i : Instr) (s0 : State) (x0 : Ctx) (p : Plan) : M Unit := do
  let x ← cx
  waitUnless !x.barPend
  if x.mixed then
    waitUnless !x.resultsOut
    throw (.done (((← st).undoPops s0).takeFault s0.cur { x0 with mixed := false, waitBar := none } cBarrier (barTval i 2 x.barNo)))
  acquire
  putDest p x.lastv

/-- BARR (R395). -/
def execBarr (a : Reg) : State → Host.Outcome State Fault Refusal :=
  runWord do
    let i := Instr.barr a
    settleOp
    let (vs, _) ← operands i [a] none
    arrive i (vs.getD 0 0) none 0

/-- BWAIT (R395). -/
def execBwait (d : Reg) : State → Host.Outcome State Fault Refusal :=
  runWord do
    let i := Instr.bwait d
    let s0 ← st
    let x0 ← cx
    settleOp
    let (_, p) ← operands i [] (some d)
    barWait i s0 x0 p

/-- BSYNC and BRED (R395): the arrival is sent once; until the release has come the instruction has not issued, and it waits
again at the same PC. -/
def syncBody (i : Instr) (srcs : List Reg) (d : Reg) (op : Option BredOp) : M Unit := do
  let s0 ← st
  let x0 ← cx
  settleOp
  let (vs, p) ← operands i srcs (some d)
  if x0.waitBar = some x0.pc then
    barWait i s0 x0 p
    modCx fun x => { x with waitBar := none }
  else
    arrive i (vs.getD 0 0) op (vs.getD 1 0)
    let y ← cx
    let s ← st
    throw (.done ((s.undoPops s0).putCtx s0.cur
      { x0 with barPend := true, barNo := y.barNo, barId := y.barId, waitBar := some x0.pc }))

/-- BSYNC (R395). -/
def execBsync (d a : Reg) : State → Host.Outcome State Fault Refusal :=
  runWord (syncBody (.bsync d a) [a] d none)
/-- BRED (R391, R395). -/
def execBred (d a b : Reg) (op : BredOp) : State → Host.Outcome State Fault Refusal :=
  runWord (syncBody (.bred d a b op) [a, b] d (some op))

/-- The cluster has counted or held an arrival in the current generation, or one stands at its node (R396, R398). -/
def State.barrierBusy (s : State) (u : CluId) (n : Nat) : Bool :=
  let b := s.barrier u.part n
  !(amGet [] b.arrived u.key).isEmpty || (amGet [] b.held u.key).any (·.gen == b.gen) || s.net.any (·.arrivalAt u n)
/-- Set the count of a cluster (R396): at once, or, where it joins a generation that its die's or its package's node has completed, from the next
generation on. DEDUCED (log 149): its own node then counts under the new count from that generation on too. -/
def State.setCount (s : State) (u : CluId) (n k : Nat) : State :=
  let b := { s.barrier u.part n with setAt := s.clock + 1 }
  if b.count u.key = 0 ∧ s.levelDone b u.key then
    s.setBarrier u.part n { b with joins := if k = 0 then amErase b.joins u.key else amSet b.joins u.key k }
  else
    let s := s.setBarrier u.part n { b with counts := if k = 0 then amErase b.counts u.key else amSet b.counts u.key k, joins := amErase b.joins u.key }.countHeld
    s.settleBarrier u.part n (b.waiting + 1)

/-- BSET (R396). -/
def execBset (d a b : Reg) : State → Host.Outcome State Fault Refusal :=
  runWord do
    let i := Instr.bset d a b
    needPriv .supervisor i
    settleOp
    let (vs, p) ← operands i [a, b] (some d)
    let n := (vs.getD 0 0).toNat
    let k := (vs.getD 1 0).toNat
    faultIf (31 < n || 88 < k) cIllegal (wordOf i)
    let u := (← me).core.clu
    if (← st).barrierBusy u n then putDest p 1
    else
      onState fun s => s.setCount u n k
      putDest p 0

def execBarrierArrival (m : Nat) : State → Host.Outcome State Fault Refusal := runEvent (·.barrierArrival m)
def execBarrierRelease (c : CtxId) : State → Host.Outcome State Fault Refusal := runEvent (·.barrierRelease c)

end Sys2Proof.Machine
end

