-- ==== Sys2Proof/Machine/Integer.lean ====
section
/-! DEFINITION. Register integer instructions and immediates (04_scalar_issue.md R97-R102). -/
namespace Sys2Proof.Machine

/-- A shift count (R98). -/
def shAmt (y : Word) : Nat := y.toNat % 64

/-- TruncSigned division with the corners of R99. -/
def divS (x y : Word) : Word :=
  if y = 0 then BitVec.allOnes 64
  else if x = 0x8000000000000000#64 ∧ y = BitVec.allOnes 64 then x
  else BitVec.ofInt 64 (x.toInt.tdiv y.toInt)
def remS (x y : Word) : Word :=
  if y = 0 then x
  else if x = 0x8000000000000000#64 ∧ y = BitVec.allOnes 64 then 0
  else BitVec.ofInt 64 (x.toInt - x.toInt.tdiv y.toInt * y.toInt)
def divZ (x y : Word) : Word := if y = 0 then BitVec.allOnes 64 else wd (x.toNat / y.toNat)
def remZ (x y : Word) : Word := if y = 0 then x else wd (x.toNat % y.toNat)

/-- Significant bits of a number below 2^n. -/
def sigBits (x : Nat) : Nat → Nat
  | 0 => 0
  | n + 1 => if x / 2 ^ n % 2 = 1 then n + 1 else sigBits x n
/-- The latency of a division by its dividend's magnitude (R92). -/
def divLatency (mag : Nat) : Nat := max 10 (4 + (sigBits mag 64 + 1) / 2)
/-- A division (R92, R93, R99): it waits for the divide unit and holds it for its latency. -/
def divide (i : Instr) (signed : Bool) (d a b : Reg) (f : Word → Word → Word) : M Unit := do
  dividerFree
  let (vs, p) ← operands i [a, b] (some d)
  let x := vs.getD 0 0
  let n := divLatency (if signed then x.toInt.natAbs else x.toNat)
  takeDivider n
  putSlow p n (f x (vs.getD 1 0))

/-- Bits [127:64] of the products (R98). -/
def mulHs (x y : Word) : Word := BitVec.ofInt 64 ((x.toInt * y.toInt) / 2 ^ 64)
def mulHz (x y : Word) : Word := wd (x.toNat * y.toNat / 2 ^ 64)

/-- Leading and trailing zeros below bit `n`. -/
def clzGo (x : Word) : Nat → Nat
  | 0 => 0
  | n + 1 => if x.getLsbD n then 0 else clzGo x n + 1
def ctzGo (x : Word) : Nat → Nat
  | 0 => 0
  | n + 1 => if x.getLsbD (63 - n) then 0 else ctzGo x n + 1
def clzW (x : Word) : Word := wd (clzGo x 64)
def ctzW (x : Word) : Word := wd (ctzGo x 64)
def popW (x : Word) : Word := wd (popN x.toNat 64)
/-- Bit i to bit 63 − i; byte i to byte 7 − i. -/
def brevW (x : Word) : Word := x.reverse
def bswpW (x : Word) : Word := wd (ofBytes (toBytes x.toNat 8).reverse)

def extWidth : ExtW → Nat | .b => 8 | .h => 16 | .w => 32
/-- INS: bits of x placed at p of the old value, dropped past bit 63 (R98). -/
def insW (old x y : Word) (w : Nat) : Word :=
  let p := shAmt y
  let mask : Word := wd (2 ^ w - 1) <<< p
  (old &&& ~~~mask) ||| ((x <<< p) &&& mask)
/-- LIH: halfword k replaced (R102). -/
def lihW (old : Word) (k : Nat) (imm : BitVec 16) : Word :=
  (old &&& ~~~(0xFFFF#64 <<< (16 * k))) ||| (imm.zeroExtend 64 <<< (16 * k))

def bool01 (b : Bool) : Word := if b then 1 else 0

def execAdd (d a b : Reg) : State → Host.Outcome State Fault Refusal := runWord (alu2 (.add d a b) d a b (· + ·))
def execSub (d a b : Reg) : State → Host.Outcome State Fault Refusal := runWord (alu2 (.sub d a b) d a b (· - ·))
def execAnd (d a b : Reg) : State → Host.Outcome State Fault Refusal := runWord (alu2 (.and d a b) d a b (· &&& ·))
def execOr (d a b : Reg) : State → Host.Outcome State Fault Refusal := runWord (alu2 (.or d a b) d a b (· ||| ·))
def execXor (d a b : Reg) : State → Host.Outcome State Fault Refusal := runWord (alu2 (.xor d a b) d a b (· ^^^ ·))
def execAndn (d a b : Reg) : State → Host.Outcome State Fault Refusal := runWord (alu2 (.andn d a b) d a b fun x y => x &&& ~~~y)
def execOrn (d a b : Reg) : State → Host.Outcome State Fault Refusal := runWord (alu2 (.orn d a b) d a b fun x y => x ||| ~~~y)
def execSll (d a b : Reg) : State → Host.Outcome State Fault Refusal := runWord (alu2 (.sll d a b) d a b fun x y => x <<< shAmt y)
def execSrl (d a b : Reg) : State → Host.Outcome State Fault Refusal := runWord (alu2 (.srl d a b) d a b fun x y => x >>> shAmt y)
def execSra (d a b : Reg) : State → Host.Outcome State Fault Refusal :=
  runWord (alu2 (.sra d a b) d a b fun x y => x.sshiftRight (shAmt y))
def execRor (d a b : Reg) : State → Host.Outcome State Fault Refusal :=
  runWord (alu2 (.ror d a b) d a b fun x y => x.rotateRight (shAmt y))
def execMul (d a b : Reg) : State → Host.Outcome State Fault Refusal := runWord (alu2Slow 3 (.mul d a b) d a b (· * ·))
def execMulhs (d a b : Reg) : State → Host.Outcome State Fault Refusal := runWord (alu2Slow 3 (.mulhs d a b) d a b mulHs)
def execMulhz (d a b : Reg) : State → Host.Outcome State Fault Refusal := runWord (alu2Slow 3 (.mulhz d a b) d a b mulHz)
def execDivs (d a b : Reg) : State → Host.Outcome State Fault Refusal := runWord (divide (.divs d a b) true d a b divS)
def execDivz (d a b : Reg) : State → Host.Outcome State Fault Refusal := runWord (divide (.divz d a b) false d a b divZ)
def execRems (d a b : Reg) : State → Host.Outcome State Fault Refusal := runWord (divide (.rems d a b) true d a b remS)
def execRemz (d a b : Reg) : State → Host.Outcome State Fault Refusal := runWord (divide (.remz d a b) false d a b remZ)
def execMins (d a b : Reg) : State → Host.Outcome State Fault Refusal :=
  runWord (alu2 (.mins d a b) d a b fun x y => if x.slt y then x else y)
def execMaxs (d a b : Reg) : State → Host.Outcome State Fault Refusal :=
  runWord (alu2 (.maxs d a b) d a b fun x y => if x.slt y then y else x)
def execMinz (d a b : Reg) : State → Host.Outcome State Fault Refusal :=
  runWord (alu2 (.minz d a b) d a b fun x y => if x.ult y then x else y)
def execMaxz (d a b : Reg) : State → Host.Outcome State Fault Refusal :=
  runWord (alu2 (.maxz d a b) d a b fun x y => if x.ult y then y else x)
def execSlts (d a b : Reg) : State → Host.Outcome State Fault Refusal :=
  runWord (alu2 (.slts d a b) d a b fun x y => bool01 (x.slt y))
def execSltz (d a b : Reg) : State → Host.Outcome State Fault Refusal :=
  runWord (alu2 (.sltz d a b) d a b fun x y => bool01 (x.ult y))
def execClz (d a : Reg) : State → Host.Outcome State Fault Refusal := runWord (alu1 (.clz d a) d a clzW)
def execCtz (d a : Reg) : State → Host.Outcome State Fault Refusal := runWord (alu1 (.ctz d a) d a ctzW)
def execPopc (d a : Reg) : State → Host.Outcome State Fault Refusal := runWord (alu1 (.popc d a) d a popW)
def execBrev (d a : Reg) : State → Host.Outcome State Fault Refusal := runWord (alu1 (.brev d a) d a brevW)
def execBswp (d a : Reg) : State → Host.Outcome State Fault Refusal := runWord (alu1 (.bswp d a) d a bswpW)
def execExts (d a : Reg) (w : ExtW) : State → Host.Outcome State Fault Refusal :=
  runWord (alu1 (.exts d a w) d a fun x => sextW (lowBits x (extWidth w)) (extWidth w))
def execExtz (d a : Reg) (w : ExtW) : State → Host.Outcome State Fault Refusal :=
  runWord (alu1 (.extz d a w) d a fun x => wd (lowBits x (extWidth w)))

/-- INS reads its destination, after a and b (R91, log 14). -/
def execIns (d a b : Reg) (w : ExtW) : State → Host.Outcome State Fault Refusal := runWord do
  let (vs, p) ← operands (.ins d a b w) [a, b, d] (some d)
  putDest p (insW (vs.getD 2 0) (vs.getD 0 0) (vs.getD 1 0) (extWidth w))

def execIdx (d a b : Reg) (n : Fin 4) : State → Host.Outcome State Fault Refusal :=
  runWord (alu2 (.idx d a b n) d a b fun x y => x + (y <<< n.val))

/-! ### Immediates (R102) -/

def execAddi (d a : Reg) (imm : BitVec 16) : State → Host.Outcome State Fault Refusal :=
  runWord (alu1 (.addi d a imm) d a fun x => x + imm.signExtend 64)
def execAndi (d a : Reg) (imm : BitVec 16) : State → Host.Outcome State Fault Refusal :=
  runWord (alu1 (.andi d a imm) d a fun x => x &&& imm.signExtend 64)
def execOri (d a : Reg) (imm : BitVec 16) : State → Host.Outcome State Fault Refusal :=
  runWord (alu1 (.ori d a imm) d a fun x => x ||| imm.zeroExtend 64)
def execXori (d a : Reg) (imm : BitVec 16) : State → Host.Outcome State Fault Refusal :=
  runWord (alu1 (.xori d a imm) d a fun x => x ^^^ imm.zeroExtend 64)
def execSlli (d a : Reg) (sh : Fin 64) : State → Host.Outcome State Fault Refusal :=
  runWord (alu1 (.slli d a sh) d a fun x => x <<< sh.val)
def execSrli (d a : Reg) (sh : Fin 64) : State → Host.Outcome State Fault Refusal :=
  runWord (alu1 (.srli d a sh) d a fun x => x >>> sh.val)
def execSrai (d a : Reg) (sh : Fin 64) : State → Host.Outcome State Fault Refusal :=
  runWord (alu1 (.srai d a sh) d a fun x => x.sshiftRight sh.val)
def execSltsi (d a : Reg) (imm : BitVec 16) : State → Host.Outcome State Fault Refusal :=
  runWord (alu1 (.sltsi d a imm) d a fun x => bool01 (x.slt (imm.signExtend 64)))
def execSltzi (d a : Reg) (imm : BitVec 16) : State → Host.Outcome State Fault Refusal :=
  runWord (alu1 (.sltzi d a imm) d a fun x => bool01 (x.ult (imm.signExtend 64)))

/-- LIH reads its destination (R91, R102, log 14). -/
def execLih (d : Reg) (k : Fin 4) (imm : BitVec 16) : State → Host.Outcome State Fault Refusal := runWord do
  let (vs, p) ← operands (.lih d k imm) [d] (some d)
  putDest p (lihW (vs.getD 0 0) k.val imm)

def execPcrel (d : Reg) (imm : BitVec 16) : State → Host.Outcome State Fault Refusal := runWord do
  let (_, p) ← operands (.pcrel d imm) [] (some d)
  putDest p ((← cx).pc + (imm.signExtend 64 <<< 2))

end Sys2Proof.Machine
end

