-- ==== Sys2Proof/Machine/Branch.lean ====
section
/-! DEFINITION. Branches and calls (04_scalar_issue.md R103-R106; 02_encoding.md R38). -/
namespace Sys2Proof.Machine

/-- A branch target (R104). -/
def targetOf {w : Nat} (pc : Word) (off : BitVec w) : Word := pc + (off.signExtend 64 <<< 2)

/-- A conditional branch (R104): the operands stand in field order a, b. -/
def branch {w : Nat} (i : Instr) (a b : Reg) (off : BitVec w) (c : Word → Word → Bool) : M Unit := do
  let (vs, _) ← operands i [a, b] none
  if c (vs.getD 0 0) (vs.getD 1 0) then branchTo (targetOf (← cx).pc off)

def execBeq (a b : Reg) (off : BitVec 16) : State → Host.Outcome State Fault Refusal :=
  runWord (branch (.beq a b off) a b off fun x y => decide (x = y))
def execBne (a b : Reg) (off : BitVec 16) : State → Host.Outcome State Fault Refusal :=
  runWord (branch (.bne a b off) a b off fun x y => decide (x ≠ y))
def execBlt (a b : Reg) (off : BitVec 15) : State → Host.Outcome State Fault Refusal :=
  runWord (branch (.blt a b off) a b off fun x y => x.slt y)
def execBge (a b : Reg) (off : BitVec 15) : State → Host.Outcome State Fault Refusal :=
  runWord (branch (.bge a b off) a b off fun x y => !x.slt y)
def execBlo (a b : Reg) (off : BitVec 15) : State → Host.Outcome State Fault Refusal :=
  runWord (branch (.blo a b off) a b off fun x y => x.ult y)
def execBhs (a b : Reg) (off : BitVec 15) : State → Host.Outcome State Fault Refusal :=
  runWord (branch (.bhs a b off) a b off fun x y => !x.ult y)

/-- CALL (R104): the link is discarded when d = 0. -/
def execCall (d : Reg) (off : BitVec 21) : State → Host.Outcome State Fault Refusal := runWord do
  let (_, p) ← operands (.call d off) [] (some d)
  let pc := (← cx).pc
  putDest p (pc + 4)
  branchTo (targetOf pc off)

/-- JMPR (R105): the target is read once, before the link is written. -/
def execJmpr (d t : Reg) : State → Host.Outcome State Fault Refusal := runWord do
  let (vs, p) ← operands (.jmpr d t) [t] (some d)
  let target := vs.getD 0 0
  faultIf (target &&& 3 ≠ 0) cAlign target
  putDest p ((← cx).pc + 4)
  branchTo target

end Sys2Proof.Machine
end

