-- ==== Sys2Proof/Machine/Rings.lean ====
section
/-! DEFINITION. Rings and capped queues (15_rings.md R357-R370). -/
namespace Sys2Proof.Machine

/-- The cluster and block a handle names (R357). -/
def handleOf (part : Nat) (h : Word) : CluId × Nat := ({ part := part, pkg := fld h 14 6, clu := fld h 6 8 }, fld h 0 6)

/-- SlotVA (R366). -/
def RingBlk.slotVa (r : RingBlk) (i : Nat) : Nat := r.base + i * r.slotsz
/-- The side-array entry of a slot (R359). -/
def RingBlk.sideVa (r : RingBlk) (i : Nat) : Nat := r.base + r.slotsz * r.count + 8 * i

/-- A side-array entry (R359). -/
structure Side where
  tag : Nat
  exp : Nat
  got : Nat

def Side.word (e : Side) : Word := wd (e.tag * 2 ^ 48 + e.exp * 2 ^ 24 + e.got)
def sideOf (v : Word) : Side := { tag := fld v 48 2, exp := fld v 24 17, got := fld v 0 17 }

/-- The image of a block (R358). -/
def RingBlk.image (r : RingBlk) : List Byte :=
  toBytes r.base 8 ++ toBytes r.slotsz 4 ++ toBytes r.count 4 ++ toBytes r.head 4 ++ toBytes r.tail 4 ++ toBytes r.cap 4 ++
  toBytes r.accept 4 ++ toBytes r.divert 4 ++ toBytes r.ovf 28

/-- The block an image holds, if it keeps the limits of R358 and R360. -/
def blockOf (ix : Nat) (b : List Byte) : Option RingBlk :=
  let r : RingBlk := { base := dword b 0, slotsz := word32 b 2, count := word32 b 3, head := word32 b 4, tail := word32 b 5
                       cap := word32 b 6, accept := word32 b 7, divert := word32 b 8, ovf := ofBytes ((b.drop 36).take 1), soiled := false }
  let ok := r.base != 0 && r.base % 64 == 0 && r.base < 0x00FE000000000000 && r.slotsz % 64 == 0 && 64 ≤ r.slotsz && r.slotsz ≤ 65536 &&
    1 ≤ r.count && r.count ≤ 65536 && r.head < r.count && r.tail < r.count && r.ovf / 64 % 2 == 0 &&
    !(128 ≤ r.ovf && r.ovf % 64 == ix) && (b.drop 37).all (· == 0)
  if ok then some r else none

/-- Why a ring operation does not complete: it waits, perhaps for aborts it has begun or a walk, or faults at an address, where all that stays of it is
what is counted. -/
inductive RingStop where | wait | leave (f : State → State) | fault (count : State → State) (cause va : Nat)

/-- Ring operations at the unit, over a state. -/
abbrev RingM := StateT State (Except RingStop)

/-- For whom the ring unit acts: the core of the issuer, its level, and whether 2 us have passed since the operation arrived (R198, R369). -/
structure RingBy where
  core : CoreId
  priv : Priv
  late : Bool
  id : Nat           -- the message or the write it acts for

/-- The place of bytes the ring unit reads or writes, checked as its issuer's accesses are (R369). -/
def unitLoc (b : RingBy) (k : TKind) (va n : Nat) : RingM Loc := do
  let s ← get
  let c := b.core
  match s.resolve c (.data c) (some (.msg b.id)) k b.priv va n with
  | (.ok l, s) =>
    let a : Actor := { core := c, task := none }
    if b.late && l.repl.isSome && s.writeUnderWay l.pa n then throw (.fault id cReplica va)
    if s.mustWait a l.home l.pa n then throw .wait
    if s.conflictWaits c.part none (k != .read) l.pa n then throw (.leave fun s => s.stopVictims c.part none (k != .read) l.pa n)
    if s.refused c l.home (if k = .read then .rd else .wr) l.pa n then throw (.fault (·.countRefusal l.home) cWindow va)
    set s
    return l
  | (.fault f, _) => throw (.fault id f va)
  | (.miss, s) => throw (.leave fun t => t.startWalk c.clu c (fld (s.part c.part).atbl 48 16) va (.msg b.id))
  | (.wait, _) => throw .wait

/-- Read a side-array entry (R359): open once a store has reached the array. -/
def readSide (b : RingBy) (r : RingBlk) (i : Nat) : RingM Side := do
  let va := r.sideVa i
  let l ← unitLoc b .read va 8
  if (← get).poisoned l.pa 8 then throw (.fault (·.meetBad l.pa 8) cMemErr va)
  match (← get).readAt { core := b.core, task := none } l.home l.pa 8 with
  | (.data w, s) =>
    if r.soiled then
      let (v, s) := s.freeWord
      set s
      return sideOf v
    else
      set s
      return sideOf (wd (ofBytes w))
  | _ => throw .wait

/-- The place of a side-array entry that is to be written, checked before anything is. -/
def sideLoc (b : RingBy) (r : RingBlk) (i : Nat) : RingM Loc := unitLoc b .write (r.sideVa i) 8
/-- Write a side-array entry. -/
def putSide (b : RingBy) (l : Loc) (e : Side) : RingM Unit :=
  modify fun s => s.writeNow { core := b.core, task := none } l.home l.pa (toBytes e.word.toNat 8) false
/-- Check and write a side-array entry. -/
def writeSide (b : RingBy) (r : RingBlk) (i : Nat) (e : Side) : RingM Unit := do putSide b (← sideLoc b r i) e

/-- Change a block of a cluster. -/
def State.setBlock (s : State) (u : CluId) (ix : Nat) (r : RingBlk) : State :=
  s.modCluster u fun k => { k with blocks := amSet k.blocks ix r }

/-- Add one, saturating at 2^32 - 1 (R358). -/
def satInc (n : Nat) : Nat := min (n + 1) (2 ^ 32 - 1)

/-- The effect of a ring instruction at its unit (R366): the value for S[d]. -/
def ringRun (b : RingBy) (u : CluId) (ix : Nat) (op : RingOp) : RingM Word := do
  match amGet? ((← get).cluster u).blocks ix with
  | none => return 7
  | some r =>
    match op with
    | .acq n =>
      if r.slotsz < n then return 8
      if (← readSide b r r.tail).tag ≠ 0 then return 2
      writeSide b r r.tail { tag := 1, exp := n, got := 0 }
      modify fun s => s.setBlock u ix { r with tail := (r.tail + 1) % r.count }
      return wd (r.slotVa r.tail)
    | .com a | .rel a =>
      let com := match op with | .com _ => true | _ => false
      let i := (a - r.base) / r.slotsz
      if a < r.base ∨ (a - r.base) % r.slotsz ≠ 0 ∨ r.count ≤ i then return 3
      if (← readSide b r i).tag ≠ (if com then 1 else 3) then return 4
      writeSide b r i { tag := if com then 2 else 0, exp := 0, got := 0 }
      return 0
    | .peek take =>
      let e ← readSide b r r.head
      if e.tag ≠ 2 then return 1
      if take then
        writeSide b r r.head { e with tag := 3 }
        modify fun s => s.setBlock u ix { r with head := (r.head + 1) % r.count }
      return wd (r.slotVa r.head)
    | .disp x =>
      let capped := r.cap ≠ 0 ∧ r.cap ≤ r.accept
      if capped ∧ r.ovf < 128 then return 5
      let tx := if capped then r.ovf % 64 else ix
      match amGet? ((← get).cluster u).blocks tx with
      | none => return 7
      | some t =>
        if (← readSide b t t.tail).tag ≠ 0 then return 2
        let e ← sideLoc b t t.tail
        let l ← unitLoc b .write (t.slotVa t.tail) 8
        let x := if capped then Nat.lor x (2 ^ 63) else x
        modify fun s => s.writeNow { core := b.core, task := none } l.home l.pa (toBytes x 8) true
        putSide b e { tag := 2, exp := 0, got := 0 }
        modify fun s => s.setBlock u tx { t with tail := (t.tail + 1) % t.count, accept := satInc t.accept }
        if capped then modify fun s => s.setBlock u ix { r with divert := satInc r.divert }
        return if capped then 6 else 0
    | .rst =>
      modify fun s => s.setBlock u ix { r with accept := 0, divert := 0 }
      return 0

/-- A delivered ring operation and for whom the unit performs it. -/
def State.ringTurn (s : State) (id : Nat) : Option (Packet × RingBy × CluId × Nat × RingOp × CtxId × Nat) :=
  match s.deliverable id with
  | some k => match k.msg with
    | .ringReq src acc ix u op =>
      some (k, { core := src.core, priv := ((s.ctx? src).map (·.priv)).getD .program, late := k.at_ + 2000 * Config.ccPerNs ≤ s.clock, id := k.id }, u, ix, op, src, acc)
    | _ => none
  | none => none

/-- Another operation at the unit goes first (R191, R215, R358): one that arrived sooner, or in the same cycle from a lower place, and that
does not wait. -/
def State.ringBehind (s : State) (k : Packet) (src : CtxId) : Bool :=
  s.net.any fun q => q.id != k.id && q.dst == k.dst && match s.ringTurn q.id with
    | some (q, b, u, ix, op, src', _) =>
      (q.at_ < k.at_ || (q.at_ == k.at_ && lexLt [src'.core.pkg, src'.core.vc, src'.slot] [src.core.pkg, src.core.vc, src.slot])) &&
      (match (ringRun b u ix op).run s with | .error .wait | .error (.leave _) => false | _ => true)
    | none => false

/-- Change an outstanding access of a context. -/
def State.modAcc (s : State) (c : CtxId) (acc : Nat) (f : Access → Access) : State := s.modCtx c fun x => x.modAccess acc f

/-- RING_OPERATION (R358, R366, R369): once the cycle in which it arrived is over, so that all that came in it is known (R215), the unit performs the
operation and replies. Its checks are made then, before the issuer's next instruction (R31); only the reply is still to come. -/
def State.ringOperation (s : State) (id : Nat) : State :=
  match s.ringTurn id with
  | some (k, b, u, ix, op, src, acc) =>
    if s.clock ≤ k.at_ || s.ringBehind k src then s
    else match (ringRun b u ix op).run s with
      | .ok (v, s) =>
        let s := (s.dropPkt k.id).modAcc src acc fun a => { a with hold := false }
        s.send u.part 1 (.ring u) (.core src.core) 0 (if op = .rst then .ack src acc else .data src acc false (toBytes v.toNat 8))
      | .error .wait => s
      | .error (.leave f) => f s
      | .error (.fault count cause va) =>
        -- the ring is unchanged; the refusal carries the address that failed
        let s := (count s).leaveWalks fun w => w == .msg k.id
        ((s.dropPkt k.id).modAcc src acc fun a => { a with va := va }).send u.part 1 (.ring u) (.core src.core) 0 (.nack src acc cause)
  | none => s

/-- Send an operation to a ring unit. -/
def sendRing (u : CluId) (ix : Nat) (op : RingOp) (dest : Dest) : M Unit := do
  let x ← cx
  waitUnless (!x.loadHeld && !x.storeHeld)
  let e ← get
  let c := e.st.cur
  let n := e.cx.accCtr + 1
  let replies := op ≠ .rst
  let a : Access := { acc := n, seq := e.st.nextId, grp := n, home := none, target := .ring u, page := none, va := 0, loadLike := replies
                      storeLike := !replies, dest := dest, bytes := 8, pc := e.cx.pc, icount := e.cx.icount, hold := replies, buf := replies
                      posted := false, seqd := false, got := none, err := none, pend := none
                      before := if e.before = e.cx.streams then none else some e.before, popped := e.popped }
  set { e with st := e.st.send c.core.part 0 (.core c.core) (.ring u) 0 (.ringReq c n ix u op), cx := e.cx.addAccess a }

/-- A ring instruction (R357, R364-R369). `rel`: it releases; `acq`: it acquires. A speculative task holds the fault of a bad handle and
waits to settle with a good one (R368, R369). -/
def ringBody (i : Instr) (srcs : List Reg) (d : Reg) (la : Fin 16) (op : List Word → RingOp) (rel acq : Bool) : M Unit := do
  let (vs, p) ← operands i srcs (some d)
  let h := vs.getD 0 0
  let c ← me
  let (u, ix) := handleOf c.core.part h
  faultIf (fld h 20 44 ≠ 0 || !(← st).hasClu u) cAccess h
  settleOp
  if rel then
    drained
    waitUnless ((← st).nbrLanded c.core)
  needBuffers 1
  sendRing u ix (op vs) (destOf p false)
  let n := (← cx).accCtr
  claimPush p n
  openWindow d la
  if acq then modCx fun x => { x.refetchAll with allAfter := n }

/-- RACQ (R366). -/
def execRacq (d a b : Reg) (la : Fin 16) : State → Host.Outcome State Fault Refusal :=
  runWord (ringBody (.racq d a b la) [a, b] d la (fun vs => .acq (vs.getD 1 0).toNat) false true)
/-- RCOM (R366). -/
def execRcom (d a b : Reg) (la : Fin 16) : State → Host.Outcome State Fault Refusal :=
  runWord (ringBody (.rcom d a b la) [a, b] d la (fun vs => .com (vs.getD 1 0).toNat) true false)
/-- RPEEK (R366). -/
def execRpeek (d a : Reg) (la : Fin 16) : State → Host.Outcome State Fault Refusal :=
  runWord (ringBody (.rpeek d a la) [a] d la (fun _ => .peek false) false true)
/-- RPEEK with take (R366). -/
def execRpeekTake (d a : Reg) (la : Fin 16) : State → Host.Outcome State Fault Refusal :=
  runWord (ringBody (.rpeekTake d a la) [a] d la (fun _ => .peek true) false true)
/-- RREL (R366). -/
def execRrel (d a b : Reg) (la : Fin 16) : State → Host.Outcome State Fault Refusal :=
  runWord (ringBody (.rrel d a b la) [a, b] d la (fun vs => .rel (vs.getD 1 0).toNat) true false)
/-- RDISP (R366). -/
def execRdisp (d a b : Reg) (la : Fin 16) : State → Host.Outcome State Fault Refusal :=
  runWord (ringBody (.rdisp d a b la) [a, b] d la (fun vs => .disp (vs.getD 1 0).toNat) true false)

/-! ### Engine fills (R363) -/

/-- Count the engine bytes that fall into the slots of one ring: GOT rises, and reaching EXP makes the slot full. -/
def fillRing (b : RingBy) (u : CluId) (r : RingBlk) (va n : Nat) : RingM Unit := do
  if r.slotsz = 0 ∨ va + n ≤ r.base ∨ r.base + r.slotsz * r.count ≤ va then return
  let lo := max va r.base
  let hi := min (va + n) (r.base + r.slotsz * r.count)
  for i in (List.range ((hi - 1 - r.base) / r.slotsz + 1 - (lo - r.base) / r.slotsz)).map fun j => (lo - r.base) / r.slotsz + j do
    let e ← readSide b r i
    if e.tag = 1 ∧ e.exp ≠ 0 then
      -- a RCOM of the slot that has arrived goes first (R370)
      if (← get).net.any fun k => k.stage == .ready && match k.msg with
          | .ringReq _ _ _ v (.com a) => v == u && a == r.slotVa i
          | _ => false then throw .wait
      let got := e.got + (min hi (r.slotVa (i + 1)) - max lo (r.slotVa i))
      writeSide b r i (if e.exp ≤ got then { tag := 2, exp := e.exp, got := e.exp } else { e with got := got })
      if e.exp ≤ got then modify fun s => s.modCluster u fun k => { k with fillAt := s.clock + 1 }

/-- Bytes a CPY or EMBG job has written count toward the slots that hold them, in the instant of the write: where a tag cannot be had
yet, the write waits. DESIGN CHOICE (log 24): no rule names the level at which a fill reaches the tags; it is supervisor level. -/
def State.ringFill (s : State) (h part va n : Nat) : Except (State → State) State :=
  let blocks : List (CluId × RingBlk) := (s.clusters.filter fun k => (cluOfKey k.1).part == part).flatMap fun k => k.2.blocks.map fun b => (cluOfKey k.1, b.2)
  blocks.foldl (fun r b => match r with
    | .error f => .error f
    | .ok s =>
      let by_ : RingBy := { core := (s.cluCores b.1).headD { part := part, pkg := b.1.pkg, vc := 8 * b.1.clu }, priv := .supervisor, late := false, id := h }
      match (fillRing by_ b.1 b.2 va n).run s with
      | .ok (_, s) => .ok s
      | .error .wait => .error id
      | .error (.leave f) => .error f
      | .error (.fault _ _ _) => .ok s) (.ok s)

/-- The same for several spans of addresses and lengths. -/
def State.ringFills (s : State) (h part : Nat) (l : List (Nat × Nat)) : Except (State → State) State :=
  l.foldl (fun r x => match r with | .error f => .error f | .ok s => s.ringFill h part x.1 x.2) (.ok s)

/-! ### RCCMD and RCRST (R360, R361) -/

/-- A store of the instruction that completes before the context's next instruction issues (R360). -/
def storeHold (va : Nat) (b : List Byte) : M Unit := do
  let l ← locate .write va b.length 1
  autoMigrate l false
  fenceWait false true l.home
  let e ← get
  needBuffers (if l.home == .core e.st.cur.core then 0 else 1)
  trackM true l.pa b.length
  issue { l := l, op := .store b, dest := .none, grp := 0, posted := none, keepBuf := true, vec := true }
  modCx fun x => { x with out := x.out.map fun a => if a.acc == x.accCtr then { a with hold := true } else a }

/-- Operations have arrived at a ring unit that it has not performed. -/
def State.opsThere (s : State) (u : CluId) : Bool := s.net.any fun k => k.stage == .ready && k.dst == .ring u
/-- An RCCMD load (R360). -/
def rccmdLoad (addr : Word) (ix : Nat) : M Unit := do
  let e ← get
  let va := fld addr 6 50 * 64
  let b ← liftR (ctxRead e.st.cur e.cx false va 64)
  -- operations that have arrived complete first (R370)
  waitUnless !((← st).opsThere e.st.cur.core.clu)
  match blockOf ix b with
  | none => raise cAccess (wd va)
  | some r => modSt fun s => s.setBlock s.cur.core.clu ix r

/-- An RCCMD store (R360): of an unallotted block the bytes are open (log 8). -/
def rccmdStore (addr : Word) (ix : Nat) : M Unit := do
  let s ← st
  let (b, s) := match amGet? (s.cluster s.cur.core.clu).blocks ix with
    | some r => (r.image, s)
    | none => s.freeBytes 64
  modSt fun _ => s
  storeHold (fld addr 6 50 * 64) b

/-- An RCCMD release (R360). -/
def rccmdRelease (ix : Nat) : M Unit :=
  modSt fun s => s.modCluster s.cur.core.clu fun k => { k with blocks := amErase k.blocks ix }

/-- A write of RCRST (R358, R361, R368): an access to the ring unit of the writing core's cluster, in program order with its ring
instructions. -/
def rcrstWrite (ix : Nat) : M Unit := do
  settleOp
  sendRing (← me).core.clu ix .rst .none

/-- The write of RCRST by a context reaches the unit (R361). -/
def State.rcrstArrives (s : State) (c : CtxId) (ix : Nat) : State :=
  match s.net.find? fun k => (s.deliverable k.id).isSome && match k.msg with | .ringReq d _ j _ .rst => d == c && j == ix | _ => false with
  | some k => s.ringOperation k.id
  | none => s

/-- A step of a context that is part of an instruction: run for it, without retiring it. -/
def runAs (c : CtxId) (body : M Unit) (s : State) : Host.Outcome State Fault Refusal :=
  let s1 := { s with cur := c }
  match s.ctx? c with
  | none => .next s
  | some x =>
    match body.run { st := s1, cx := x, next := x.pc, before := x.streams } with
    | .ok (_, e) => .next { e.flush with cur := s.cur }
    | .error (.fault cause tval) => .next (s.takeFault c x cause tval)
    | .error (.faultIn s' cause tval) => .next { (s'.takeFault c x cause tval) with cur := s.cur }
    | .error (.walk u asid va) => .next (s.startWalk u c.core asid va (.ctx c x.icount))
    | .error (.leave f) => .next { f s1 with cur := s.cur }
    | .error (.waitIn s') => .next { (s'.putCtx c x) with cur := s.cur }
    | .error _ => .next s

def execRingOperation (m : Nat) : State → Host.Outcome State Fault Refusal := runEvent (·.ringOperation m)
def execRccmdLoad (c : CtxId) (addr : Word) (ix : Fin 64) : State → Host.Outcome State Fault Refusal := runAs c (rccmdLoad addr ix.val)
def execRccmdStore (c : CtxId) (addr : Word) (ix : Fin 64) : State → Host.Outcome State Fault Refusal := runAs c (rccmdStore addr ix.val)
def execRccmdRelease (c : CtxId) (ix : Fin 64) : State → Host.Outcome State Fault Refusal := runAs c (rccmdRelease ix.val)
def execRcrst (c : CtxId) (ix : Fin 64) : State → Host.Outcome State Fault Refusal := runEvent (·.rcrstArrives c ix.val)

end Sys2Proof.Machine
end

