-- ==== Sys2Proof/Machine/HomeEvents.lean ====
section
/-! DEFINITION. The steps of homes, replies, walkers and neighbour channels (07_memory_homes.md R189-R209; 16_network.md R376;
09_translation.md R237; 11_streams.md R283). -/
namespace Sys2Proof.Machine

/-- HOME_WRITE_PERFORM: every invalidation acknowledged, the home writes and acknowledges (R189, R197). Bytes of an engine job that fill a
ring slot are counted in the same step, and the write waits for the slot's tag (R363). -/
def State.homeWritePerform (s : State) (h : Nat) : State :=
  match s.homeWrites.find? (·.id == h) with
  | none => s
  | some w =>
    if !w.acks.isEmpty then s
    else
      let s' := ({ s with homeWrites := s.homeWrites.filter (·.id != h) }).applyWrite w.req
      match w.req.via with
      | .job _ _ _ true => match s'.ringFills h w.req.src.core.part (w.req.op.runs.map fun x => (w.req.va + x.1, x.2.length)) with
        | .ok t => t
        | .error f => f s
      | _ => s'

/-- TABLE_WALK (R235, R237): a walk that has one of its cluster's walkers reads its next entry, taking a landing buffer of its core (R376); a
place outside HBM is read at once (log 15). -/
def State.tableWalk (s : State) (id : Nat) : State :=
  match s.walks.find? (·.id == id) with
  | none => s
  | some w =>
    -- during a publish a walk that it made begin again waits for the swap (R228, R343)
    if !s.walking w || w.asked || s.heldBack w.clu.part (.clu w.clu) w.va then s
    else
      let pa := w.table + levelIndex w.lvl w.va * 8
      let hbm := match amGet? s.pkgs (pa / 2 ^ 46) with
        | some k => decide (pa % 2 ^ 46 < k.hbmTop)
        | none => false
      if !hbm then s.walkTurn w (if s.paExists pa && !s.poisoned pa 8 then some (Memory.readN s.mem pa 8) else none)
      else if 128 ≤ s.buffersHeld { core := w.core, slot := 0 } ((s.ctx? { core := w.core, slot := 0 }).getD (Ctx.blank w.core 0 .control)) then s
      else
        let h := Home.llc (pa / 2 ^ 46) (s.sliceOf pa)
        let r : Req := { src := { core := w.core, slot := 0 }, acc := w.lvl, va := w.va, pa := pa, home := h, op := .load 8, task := none
                         posted := none, aseq := 0, replicated := none, via := .walk w.id w.core }
        let s := { s with walks := s.walks.map fun (x : Walk) => if x.id == id then { x with asked := true } else x }
        s.send w.clu.part 0 (.core w.core) h.agent 0 (.req r)

/-- An answer to a job's read, by its number (R330, R339). -/
def State.jobAnswer (s : State) (id acc : Nat) (b : Option (List Byte)) (cause : Option Nat) : State :=
  { s with jobs := s.jobs.map fun (j : Job) => if j.id == id then
      { j with reads := j.reads.map fun (r : JobRead) => if r.no == acc then { r with bytes := b, cause := cause } else r } else j }
/-- Scoreboard entries of a job at cores whose local memory it has no write left for are released, once its last piece of work has been
laid out (R195). -/
def State.freeBoards (s : State) (id : Nat) : State :=
  match s.jobs.find? (·.id == id) with
  | none => s
  | some j =>
    if !j.worked && !(j.after.any fun a => a.worked || a.fault.isSome) then s
    else
    let left := (j.out ++ j.sent.filter (·.cause.isNone)).filterMap fun w => match s.region j.issuer.core w.va with | .store d _ => some d | _ => none
    { s with cores := s.cores.map fun (k, (c : Core)) =>
        if left.contains (coreOfKey k) then (k, c) else (k, { c with sboard := c.sboard.filter (·.1 != id) }) }

/-- An answer to a job's write: it is done, or has failed (R329, R332, R348). -/
def State.jobWritten (s : State) (id acc : Nat) (cause : Option Nat) : State :=
  let s := { s with jobs := s.jobs.map fun (j : Job) => if j.id == id then
      { j with sent := match cause with
          | none => j.sent.filter (·.no != acc)
          | some _ => j.sent.map fun (w : JobWrite) => if w.no == acc then { w with cause := cause } else w } else j }
  s.freeBoards id

/-- The answer to a fetch of an instruction sector (R96): the cache takes it in; a failure is kept for the context's next instruction, as an answer of
no bytes. -/
def State.codeAnswer (s : State) (c : CtxId) (acc va pa : Nat) (b : Option (List Byte)) (cause : Option Nat) : State :=
  let s := s.modCore c.core fun k => { k with codeAsked := k.codeAsked.filter (· != pa / 128) }
  match b, cause with
  | some b, _ => s.keepL1i c.core (pa / 128) b
  | none, some f => s.modCtx c fun x =>
      if x.icount = acc then { x with reads := { icount := acc, pc := x.pc, va := va, n := 0, bytes := [], cause := some f } :: x.reads } else x
  | none, none => s

/-- An answer that is not for a context reaches its walk, job or task unit (R235, R330, R148). -/
def State.viaAnswer (s : State) (via : Via) (acc : Nat) (b : Option (List Byte)) (cause : Option Nat) : State :=
  match via with
  | .ctx => s
  | .walk id _ => match s.walks.find? (·.id == id) with
    | some w =>
      if w.asked && w.lvl == acc then (match cause with
        | some f => if f = cMemErr then s.walkTurn w b else s.walkEnds w (.failed f)
        | none => s.walkTurn w b)
      else s
    | none => s
  | .code c va pa => s.codeAnswer c acc va pa b cause
  | .job id _ _ _ => s.jobAnswer id acc b cause
  | .done id => s.jobWritten id acc cause
  | .unit u =>
    match s.task? u.part (some acc), cause with
    | some t, none => if t.st == .spilled && t.asked then (s.modTask u.part acc fun t => { t with st := .queued, asked := false }).bump u 6 1 else s
    | some t, some c =>
      (s.modTask u.part acc fun t => { t with asked := false }).modCluster u fun k =>
        { k with unitTrap := some (c, wd (((s.part u.part).tcfg.ovf + 64 * t.ovf) % 2 ^ 64)), unitTaken := false, unitTry := false }
    | none, _ => s

/-- REPLY_LANDS for every agent. -/
def State.replyAny (s : State) (id : Nat) : State :=
  match s.deliverable id with
  | some k => match k.msg with
    | .jdata via acc err b => (s.dropPkt id).viaAnswer via acc (if err then none else some b) (if err then some cMemErr else none)
    | _ => s.replyLands id
  | none => s
/-- ACKNOWLEDGEMENT for every agent. -/
def State.ackAny (s : State) (id : Nat) : State :=
  match s.deliverable id with
  | some k => match k.msg with
    | .jack (.job j _ _ _) acc | .jack (.done j) acc => (s.dropPkt id).jobWritten j acc none
    | .jack _ _ => s.dropPkt id
    | _ => s.acknowledgement id
  | none => s
/-- A refusal of a request that is not a context's (R332, R339, R407). -/
def State.viaRefused (s : State) (via : Via) (acc cause : Nat) : State :=
  match via with
  | .job j _ _ _ => if s.jobs.any fun y => y.id == j && y.sent.any (·.no == acc) then s.jobWritten j acc (some cause) else s.viaAnswer via acc none (some cause)
  | _ => s.viaAnswer via acc none (some cause)

/-- NEGATIVE_ACKNOWLEDGEMENT for every agent. -/
def State.nackAny (s : State) (id : Nat) : State :=
  match s.deliverable id with
  | some k => match k.msg with
    | .jnack via acc cause => (s.dropPkt id).viaRefused via acc cause
    | _ => s.negativeAcknowledgement id
  | none => s

def execLoadRequest (m : Nat) : State → Host.Outcome State Fault Refusal := runEvent (·.loadRequest m)
def execStoreRequest (m : Nat) : State → Host.Outcome State Fault Refusal := runEvent (·.storeRequest m)
def execL1Invalidate (h : Nat) (c : CoreId) : State → Host.Outcome State Fault Refusal := runEvent (·.l1Invalidate h c)
def execHomeWritePerform (h : Nat) : State → Host.Outcome State Fault Refusal := runEvent (·.homeWritePerform h)
def execAtomicRequest (m : Nat) : State → Host.Outcome State Fault Refusal := runEvent (·.atomicRequest m)
def execReductionRequest (m : Nat) : State → Host.Outcome State Fault Refusal := runEvent (·.reductionRequest m)
def execRlogRecord (m : Nat) : State → Host.Outcome State Fault Refusal := runEvent (·.rlogRecord m)
def execReplicaTimeout (m : Nat) : State → Host.Outcome State Fault Refusal := runEvent (·.replicaTimeout m)
def execReplyLands (m : Nat) : State → Host.Outcome State Fault Refusal := runEvent (·.replyAny m)
def execAcknowledgement (m : Nat) : State → Host.Outcome State Fault Refusal := runEvent (·.ackAny m)
def execNegativeAcknowledgement (m : Nat) : State → Host.Outcome State Fault Refusal := runEvent (·.nackAny m)
def execTableWalk (w : Nat) : State → Host.Outcome State Fault Refusal := runEvent (·.tableWalk w)
def execNeighbourWordArrival (m : Nat) : State → Host.Outcome State Fault Refusal := runEvent (·.neighbourWordArrival m)

end Sys2Proof.Machine
end

