-- ==== Sys2Proof/Machine/Inval.lean ====
section
/-! DEFINITION. Invalidations: TLBINV, TLBSYNC, the agents that receive and acknowledge them (09_translation.md R240-R247;
14_copy_engines.md R347). -/
namespace Sys2Proof.Machine

/-- The cores of an instance of a scope (R221). -/
def State.instance_ (s : State) (c : CoreId) (sc : Scope) : List CoreId :=
  (s.partCores c.part).filter fun d =>
    match sc with
    | .ctx | .core => d == c
    | .clu => d.clu == c.clu
    | .die => d.pkg == c.pkg && s.dieOf d == s.dieOf c
    | .pkg => d.pkg == c.pkg
    | .dom => true

/-- The agents that serve the cores of an instance (R244). -/
def State.invAgents (s : State) (l : List CoreId) : List (InvAgent × InvStage) :=
  (l.map InvAgent.core ++ (dedup (l.map CoreId.clu)).map InvAgent.clu ++
    (dedup (l.map fun c => s.logPkg c.part c.pkg)).map InvAgent.engines).map fun a => (a, .sent)

/-- It overlaps a page of some size, in whatever ASID. -/
def Inval.touches (x : Inval) (va bits : Nat) : Bool :=
  if x.publish.isSome then x.pages.any fun p => va < p + 524288 && p < va + 2 ^ bits else 2 ≤ x.mode || (va < x.hi && x.lo < va + 2 ^ bits)
/-- It overlaps the largest page an address may stand in. -/
def Inval.near (x : Inval) (va : Nat) : Bool := x.touches (va / 2 ^ 30 * 2 ^ 30) 30

/-- The result of a walk is covered, or may come to be: its leaf, or where none is known yet any leaf it may find (R241). -/
def Inval.coversWalk (x : Inval) (w : Walk) : Bool :=
  match w.done with
  | some (.leaf e) => x.hits e
  | _ => x.covers (w.va / 2 ^ 30 * 2 ^ 30) 30 w.asid

/-- A walk begun again from its root (R241); an answer to what it had asked is nobody's any more. -/
def State.restartWalk (s : State) (w : Walk) : State :=
  let (id, s) := s.newId
  let again : Walk := { w with id := id, lvl := 0, table := w.root, asked := false, done := none }
  { s with walks := s.walks.map fun y => if y.id == w.id then again else y }

/-- What an agent removes when an invalidation reaches it, and the walks it starts again (R241, R247). -/
def State.invRemove (s : State) (x : Inval) : InvAgent → State
  | .core c => s.modCore c fun k => { k with itlb := k.itlb.filter fun e => !x.hits e, dtlb := k.dtlb.filter fun e => !x.hits e }
  | .clu u =>
    let s := s.modCluster u fun k => { k with tlb := k.tlb.filter fun e => !x.hits e, utlb := k.utlb.filter fun e => !x.hits e }
    (s.walks.filter fun y => y.clu == u && x.coversWalk y).foldl State.restartWalk s
  | .engines g =>
    { s with etlbs := s.etlbs.map fun t => if t.pkg == g then { t with tlb := t.tlb.filter fun e => !x.hits e } else t }

/-- Set the stage of an agent of an invalidation. -/
def Inval.mark (x : Inval) (g : Nat) (st : InvStage) : Inval :=
  { x with agents := match x.agents[g]? with | some a => x.agents.set g (a.1, st) | none => x.agents }

/-- The core an invalidation is sent from (R244, R343). -/
def State.invFrom (s : State) (x : Inval) : CoreId := x.core.getD (((s.publishes.find? fun y => x.publish == some y.id).map (·.core)).getD default)
/-- The agents of the network that stand for one an invalidation reaches (R244, R371). -/
def InvAgent.agents : InvAgent → List Agent
  | .core c => [.core c]
  | .clu u => [.task u]
  | .engines g => (List.range 32).map (Agent.engine g)
/-- An invalidation crosses the network to an agent, or its acknowledgement back (R372, R384). -/
def State.invCrossed (s : State) (x : Inval) (back : Bool) (a : InvAgent) : State :=
  let src : Agent := .core (s.invFrom x)
  a.agents.foldl (fun s d => if back then s.crossed x.part 2 d src else s.crossed x.part 2 src d) s

/-- TLB_INVALIDATION: an invalidation reaches its agent g (R241, R244). -/
def State.tlbInvalidation (s : State) (id g : Nat) : State :=
  match s.invals.find? (·.id == id) with
  | none => s
  | some x => match x.agents[g]? with
    | some (a, .sent) =>
      let s := (s.invCrossed x false a).invRemove x a
      { s with invals := s.invals.map fun y => if y.id == id then y.mark g (.draining s.nextId) else y }
    | _ => s

/-- A context still has an access sent before `snap` that the invalidation touches (R241). -/
def Ctx.mayUse (y : Ctx) (x : Inval) (snap : Nat) : Bool :=
  y.out.any fun a => a.seq < snap && a.got.isNone && a.err.isNone && (match a.page with | some p => x.touches p.1 p.2 | none => false)

/-- A request of an agent sent before `snap`, through a page the invalidation may touch, is still to be performed (R241). -/
def State.stillSent (s : State) (x : Inval) (snap : Nat) (mine : Req → Bool) : Bool :=
  ((s.net ++ (s.part x.part).reinject).any fun k => match k.msg with
    | .req r => k.id < snap && r.src.core.part == x.part && mine r && x.near r.va
    | _ => false) ||
  s.homeWrites.any fun h => h.pkt.id < snap && h.req.src.core.part == x.part && mine h.req && x.near h.req.va

/-- An EMBG has reads left to make (R347): they all belong to its first piece of work. -/
def Job.reading (j : Job) : Bool := !j.worked && j.after.isNone && j.pos == 0

/-- The agent has drained (R179, R241, R347): the accesses sent through the old mapping are performed, the TDEFER stores of its
tasks performed or dropped, and the embedding look-ups accepted before have read. -/
def State.invDrained (s : State) (x : Inval) (snap : Nat) : InvAgent → Bool
  | .core c =>
    (slotsOf c).all (fun k => !((s.ctx? k).any fun y => y.mayUse x snap)) &&
    !((s.part c.part).tasks.any fun t => (t.place.map CtxId.core) == some c && t.actions.any fun a => decide (a.1 ≤ snap) && match a.2 with
      | .defer _ _ _ (some p) _ => x.touches p.1 p.2
      | _ => false) && !s.stillSent x s.nextId fun r => (r.acc == 0 || r.via != .ctx) && r.src.core == c && r.ofCtx
  | .clu u => !s.stillSent x snap fun r => r.via == .unit u
  | .engines g =>
    !(s.stillSent x snap fun r => match r.via with | .job _ h _ _ => h == g | _ => false) &&
    !s.jobs.any fun j => j.pkg == g && j.issuer.core.part == x.part && j.id < snap && j.reading &&
      (match j.kind with | .embg _ => true | _ => false)

/-- INVALIDATION_ACK: the agent acknowledges (R241); with the last one the tracker is freed (R244). -/
def State.invalidationAck (s : State) (id g : Nat) : State :=
  match s.invals.find? (·.id == id) with
  | none => s
  | some x => match x.agents[g]? with
    | some (a, .draining snap) =>
      if s.invDrained x snap a then
        let s := s.invCrossed x true a
        let y := x.mark g .acked
        if y.publish.isNone && y.agents.all fun a => a.2 == .acked then { s with invals := s.invals.filter (·.id != id) }
        else { s with invals := s.invals.map fun z => if z.id == id then y else z }
      else s
    | _ => s

/-- Invalidations in progress that hold a tracker of a core (R244). -/
def State.trackersOf (s : State) (c : CoreId) : Nat := (s.invals.filter fun x => x.core == some c).length

/-- TLBINV (R243, R244). -/
def execTlbinv (a b : Reg) (sc : Scope) : State → Host.Outcome State Fault Refusal :=
  runWord do
    let i := Instr.tlbinv a b sc
    needPriv .supervisor i
    let (vs, _) ← operands i [a, b] none
    let v := vs.getD 1 0
    faultIf (fld v 37 9 ≠ 0) cIllegal (wordOf i)
    let mode := fld v 46 2
    let lo := (vs.getD 0 0).toNat / 524288 * 524288
    let hi := min (lo + fld v 0 37 * 524288) 0x00FE000000000000
    drained
    let c := (← me).core
    waitUnless ((← st).nbrLanded c)
    if mode < 2 && fld v 0 37 == 0 then pure ()
    else
      let s ← st
      waitUnless (s.trackersOf c < 4)
      let (id, s) := s.newId
      let x : Inval := { id := id, part := c.part, mode := mode, asid := fld v 48 16, lo := lo, hi := hi, pages := []
                         agents := s.invAgents (s.instance_ c sc), core := some c, publish := none }
      modSt fun _ => { s with invals := s.invals ++ [x] }
      modCx fun x => { x with trackers := x.trackers ++ [id] }

/-- TLBSYNC (R245). -/
def execTlbsync (sc : Scope) : State → Host.Outcome State Fault Refusal :=
  runWord do
    let i := Instr.tlbsync sc
    needPriv .supervisor i
    let s ← st
    waitUnless !((← cx).trackers.any fun id => s.invals.any (·.id == id))
    if scWide sc then waitUnless (s.nbrLanded s.cur.core)
    modCx fun x =>
      let x := { x with trackers := [] }
      if scWide sc then { x.refetchAll with ldAfterAll := x.accCtr, stAfterAll := x.accCtr } else x

def execTlbInvalidation (x g : Nat) : State → Host.Outcome State Fault Refusal := runEvent (·.tlbInvalidation x g)
def execInvalidationAck (x g : Nat) : State → Host.Outcome State Fault Refusal := runEvent (·.invalidationAck x g)

end Sys2Proof.Machine
end

