-- ==== Sys2Proof/Machine/Shadows.lean ====
section
/-! DEFINITION. The publish region: shadows, their frames, and publishing (14_copy_engines.md R340-R344). -/
namespace Sys2Proof.Machine

/-- The address of map entry `i` (R340). -/
def Part.mapAt (q : Part) (i : Nat) : Nat := q.regionBase + 4 * i
/-- The address of a region frame. -/
def Part.frameAt (q : Part) (f : Nat) : Nat := q.regionBase + f * 524288

/-- The region frame index map entry `i` holds. -/
def State.mapEntry (s : State) (p i : Nat) : Nat := ofBytes (Memory.readN s.mem ((s.part p).mapAt i) 4)
/-- The name a page has under a translation (R341). DESIGN CHOICE (log 124): the rule gives a leaf's FRAME one name, and of a larger leaf
only the first 512 KiB have it. -/
def Tlb.nameAt (e : Tlb) (page : Nat) : Option Nat := if e.va = page then e.name else none

/-- The pending shadow of a name (R342). -/
def Part.shadowOf (q : Part) (name : Nat) : Option Shadow := q.shadows.find? (·.name == name)
/-- A page of the list, an address and its name, has a pending shadow of another owner (R342). -/
def Part.foreign (q : Part) (owner : Option Nat) (pages : List (Nat × Nat)) : Bool :=
  pages.any fun x => (q.shadowOf x.2).any fun h => h.owner != owner

/-- Take a page into a shadow (R342): the frame is still to be filled; a shadow of the same owner is shared. -/
def Part.takeFrame (q : Part) (owner : Option Nat) (va name : Nat) : Part :=
  match q.shadowOf name with
  | some h =>
    if h.owner != owner || h.vas.contains va then q
    else { q with shadows := q.shadows.map fun (k : Shadow) => if k.name == name then { k with vas := k.vas ++ [va] } else k }
  | none => match q.poolFree with
    | [] => q
    | f :: rest => { q with poolFree := rest, shadows := { name := name, vas := [va], frame := f, owner := owner, filled := 0 } :: q.shadows }

/-- Take frames for every page of a job that has no pending shadow, or name how many frames are lacking (R342). -/
def Part.takeFrames (q : Part) (owner : Option Nat) (pages : List (Nat × Nat)) : Except Nat Part :=
  let need := dedup ((pages.filter fun x => (q.shadowOf x.2).isNone).map (·.2))
  if q.poolFree.length < need.length then .error (need.length - q.poolFree.length)
  else .ok (pages.foldl (fun q x => q.takeFrame owner x.1 x.2) q)
/-- The names of a job's pages whose shadows it writes (R342). -/
def Part.touched (q : Part) (owner : Option Nat) (pages : List (Nat × Nat)) : List Nat :=
  (pages.map (·.2)).filter fun n => (q.shadowOf n).any fun h => h.owner == owner

/-- Change a job. -/
def State.modJob (s : State) (id : Nat) (f : Job → Job) : State :=
  { s with jobs := s.jobs.map fun k => if k.id == id then f k else k }
/-- A job that ends faulted works no more (R339); a completion word sent before says so no longer, and another is stored after it (R332). -/
def Job.fail (j : Job) (cause val : Nat) : Job :=
  { j with fault := some (cause, val), worked := true, reads := [], out := [], after := none, told := false }

/-- A job of an owner that has not completed and works on a shadow of a set (R342). -/
def Job.shares (k : Job) (p : Nat) (owner : Option Nat) (names : List Nat) : Bool :=
  k.issuer.core.part == p && k.task == owner && k.fault.isNone && k.touched.any names.contains
/-- The names whose shadows go when some do (R342): a job that shares one is cancelled, and so faults itself and discards all of its own. -/
def State.namesGone (s : State) (p : Nat) (owner : Option Nat) : Nat → List Nat → List Nat
  | 0, names => names
  | n + 1, names => s.namesGone p owner n (dedup (names ++ (s.jobs.filter fun k => k.shares p owner names).flatMap (·.touched)))

/-- A job ends faulted (R342): every shadow it took or wrote is discarded, and the uncompleted jobs that share one are cancelled. -/
def State.jobFault (s : State) (id : Nat) (cause val : Nat) : State :=
  match s.jobs.find? (·.id == id) with
  | none => s
  | some j =>
    let p := j.issuer.core.part
    let names := s.namesGone p j.task s.jobs.length j.touched
    let mine := names.filter fun n => ((s.part p).shadowOf n).any fun h => h.owner == j.task
    let s := mine.foldl (fun s n => s.discardShadow p n) s
    { s with jobs := s.jobs.map fun k => if k.id == id then k.fail cause val else if k.shares p j.task mine then k.fail 0x33 0 else k }

/-- Begin a publish (R343) of names and of the pages it was asked for. -/
def State.startPublish (s : State) (p : Nat) (owner : Option Nat) (names vas : List Nat) (c : CoreId) (sc : Scope) : Nat × State :=
  let (id, s) := s.newId
  let hs := (s.part p).shadows.filter fun h => h.owner == owner && names.contains h.name
  (id, { s with publishes := s.publishes ++
    [{ id := id, part := p, names := hs.map (·.name), vas := vas, owner := owner, core := c, scope := sc, sent := false }] })

/-- The shadows a publish still has to swap. -/
def State.publishing (s : State) (x : Publish) : List Shadow :=
  (s.part x.part).shadows.filter fun h => h.owner == x.owner && x.names.contains h.name

/-- A job still writes a shadow of the set (R343 step 1, R356). -/
def State.stillWriting (s : State) (x : Publish) : Bool :=
  s.jobs.any fun j => j.issuer.core.part == x.part && j.task == x.owner && j.publish != some x.id &&
    j.pages.any fun y => x.names.contains y.2

/-- A publish under way has sent the invalidations of a name of an owner: who would share its shadow waits for the swap (R343). -/
def State.swapping (s : State) (p : Nat) (owner : Option Nat) (names : List Nat) : Bool :=
  s.publishes.any fun x => x.part == p && x.owner == owner && x.sent && x.names.any names.contains

/-- Take a shadow's frame into the map; the old frame returns to the pool (R343 step 3). -/
def State.swapOne (s : State) (p : Nat) (h : Shadow) : State :=
  let q := s.part p
  let old := s.mapEntry p h.name
  { s with mem := Memory.writeN s.mem (q.mapAt h.name) (toBytes h.frame 4) }.setPart p
    { q with poolFree := q.poolFree ++ [old], shadows := q.shadows.filter (·.name != h.name) }

/-- The end of a publish: whoever waits for it goes on (R349, R353). -/
def State.endPublish (s : State) (x : Publish) (n : Nat) : State :=
  let s := { s with publishes := s.publishes.filter (·.id != x.id), invals := s.invals.filter (·.publish != some x.id)
                    jobs := s.jobs.map fun (j : Job) => if j.publish == some x.id then { j with worked := true, publish := none } else j }
  s.ctxIds.foldl (fun (s : State) c => s.modCtx c fun y =>
    if (y.publ.map (·.1)) == some x.id then { y with publCount := n } else y) s

/-- PUBLISH_SWAP (R343): once no job writes the set, its invalidations go out; once every agent has acknowledged and no job writes the
set, the swap. -/
def State.publishSwap (s : State) (id : Nat) : State :=
  match s.publishes.find? (·.id == id) with
  | none => s
  | some x =>
    let set_ := s.publishing x
    if s.stillWriting x then s
    else if !x.sent then
      if set_.isEmpty then s.endPublish x 0
      else
        let (n, s) := s.newId
        let v : Inval := { id := n, part := x.part, mode := 1, asid := 0, lo := 0, hi := 0, pages := dedup (set_.flatMap (·.vas) ++ x.vas)
                           agents := s.invAgents (s.instance_ x.core x.scope), core := none, publish := some id }
        { s with invals := s.invals ++ [v]
                 publishes := s.publishes.map fun y => if y.id == id then { y with sent := true } else y }
    else if s.invals.any fun v => v.publish == some id && v.agents.all fun a => a.2 == .acked then
      (set_.foldl (fun s h => s.swapOne x.part h) s).endPublish x set_.length
    else s

def execPublishSwap (x : Nat) : State → Host.Outcome State Fault Refusal := runEvent (·.publishSwap x)

end Sys2Proof.Machine
end

