-- ==== Sys2Proof/Machine/Engines.lean ====
section
/-! DEFINITION. The copy engines: accesses of a job, copy records, copy, gather, compress and decompress jobs
(14_copy_engines.md R329-R339). A job works in pieces. A piece reads through requests, each answer kept until the piece has read all it
needs, lays out its writes granule by granule, and sends them. -/
namespace Sys2Proof.Machine

/-- Why a piece of a job's work does not go on: an answer is outstanding, or something must be changed first. -/
inductive JStop where | wait | leave (f : State → State)

/-- A piece at work: the state, the answers used so far, the writes laid out, and the number of the latest access. -/
structure JRun where
  st : State
  ix : Nat
  out : List JobWrite
  acc : Nat

abbrev JM := StateT JRun (Except JStop)

def jobWait {α : Type} : WalkM JM α := throwThe JStop .wait
def jobSt : WalkM JM State := do return (← get).st
def jobSet (s : State) : WalkM JM Unit := modify fun r => { r with st := s }

/-! ### Accesses of a job (R329, R339) -/

def Job.who (j : Job) : TlbWho := .engine j.pkg j.engine j.issuer.core
def Job.part (j : Job) : Nat := j.issuer.core.part
def Job.via (j : Job) (counted : Bool) : Via := .job j.id j.pkg j.engine counted
def Job.agent (j : Job) : Agent := .engine j.pkg j.engine
/-- An EMBG's reads of its table, lists and map are translated as at its acceptance (R347). -/
inductive JRead where | data | old | fill (name off : Nat)

/-- Reads an engine has outstanding, each with its landing buffer (R376). -/
def State.engineReads (s : State) (pkg e : Nat) : Nat :=
  ((s.jobs.filter fun j => j.pkg == pkg && j.engine == e).map fun j => (j.reads.filter fun r => r.bytes.isNone && r.cause.isNone).length).foldl (· + ·) 0

/-- The mapping of a page at a job's acceptance (R347), as its tables stood then. -/
def State.oldMapping (s : State) (j : Job) (k : TKind) (va : Nat) : RRes :=
  match j.old with
  | none => .miss
  | some (mem, atbl) =>
    if !bitAt atbl 0 then .fault cPage
    else match (walkAll j.part (fld atbl 48 16) va 4 0 (fld atbl 12 36 * 2 ^ 16) { s with mem := mem }).1 with
      | .absent => .fault cPage
      | .bad => .fault cTable
      | .failed f => .fault f
      | .leaf e =>
        if !e.permits k j.priv then .fault cProt
        else match s.homeOf j.issuer.core e va with
          | some l => .ok l
          | none => .fault cAccess

/-- Translate and check an address for a job (R339): as a load or store is, for an EMBG's reads by the mapping at its acceptance
(R347), for a fill the page's current frame (R342). -/
def State.jobLoc (s : State) (j : Job) (how : JRead) (k : TKind) (va n : Nat) : RRes × State :=
  let c := j.issuer.core
  if va % n ≠ 0 then (.fault cAlign, s)
  else match how with
    | .data => s.resolve c j.who (some (.job j.id)) k j.priv va n
    | .old =>
      match s.region c va with
      | .paged => match s.translate j.who (some (.job j.id)) k j.priv va with
        | (.miss, s) => (.miss, s)
        | (_, s') => (s.oldMapping j k va, s')
      | _ => s.resolve c j.who (some (.job j.id)) k j.priv va n
    | .fill name off =>
      match s.translate j.who (some (.job j.id)) .none_ j.priv va with
      | (.miss, s) => (.miss, s)
      | (.wait, s) => (.wait, s)
      | (.fault f, s) => (.fault f, s)
      | (.ok e, s) =>
        let frame := (s.part j.part).frameAt (s.mapEntry j.part name)
        match s.homeOf c { e with va := va - off, bits := 19, pa := frame } va with
        | some l => (.ok l, s)
        | none => (.fault cAccess, s)

/-- Send a job's read (R329, R376): its answer, or the cause of its fault, is kept. -/
def State.askJob (s : State) (id : Nat) (how : JRead) (track : Bool) (va n : Nat) : State :=
  match s.jobs.find? (·.id == id) with
  | none => s
  | some j =>
    if 2048 ≤ s.engineReads j.pkg j.engine then s
    else
      let no := j.accNo + 1
      let add (cause : Option Nat) (s : State) : State := s.modJob id fun k =>
        { k with accNo := no, reads := k.reads ++ [{ no := no, va := va, n := n, bytes := none, cause := cause }] }
      match s.jobLoc j how .read va n with
      | (.miss, s) => s.startWalk j.issuer.core.clu j.issuer.core (fld (s.part j.part).atbl 48 16) va (.job id)
      | (.wait, _) => s
      | (.fault f, s) => add (some f) s
      | (.ok l, s) =>
        let s := match track, j.task with
          | true, some t => (s.track j.issuer t false l.pa n).getD s
          | _, _ => s
        (add none s).send j.part 0 j.agent l.reader.agent 0
          (.req { src := j.issuer, acc := no, va := va, pa := l.pa, home := l.home, op := .load n, task := j.task, posted := none, aseq := 0
                  replicated := l.repl, via := j.via false })

/-- The next answer of a piece. -/
def jobGet (j : Job) (how : JRead) (track : Bool) (va n : Nat) : WalkM JM (List Byte) := do
  let r ← get
  match j.reads[r.ix]? with
  | some x =>
    if x.va = va ∧ x.n = n then
      set { r with ix := r.ix + 1 }
      match x.bytes, x.cause with
      | some b, _ => return b
      | none, some f => throw (f, va)
      | none, none => jobWait
    else throwThe JStop (.leave fun s => s.modJob j.id fun k => { k with reads := k.reads.take r.ix })
  | none => throwThe JStop (.leave fun s => s.askJob j.id how track va n)

/-- The granule a laid-out write belongs to, or the address it is sent to. -/
def JobWrite.base (w : JobWrite) : Nat := match w.op with | .masked _ => w.va / 8 * 8 | _ => w.va

/-- The bytes of a read, those over them that the job has laid out in program order. -/
def overlay (out : List JobWrite) : Nat → List Byte → List Byte
  | _, [] => []
  | va, b :: r =>
    let mine := out.findSome? fun w => match w.op with
      | .masked d => if w.base = va / 8 * 8 then (d[va % 8]?).join else none
      | _ => none
    mine.getD b :: overlay out (va + 1) r

/-- Read bytes for a job; a source read of a task's job is tracked (R153, R339). DEDUCED (log 125): R335 takes the elements in order, and a
read of a copy finds what an element before it wrote. -/
def jobRead (j : Job) (va n : Nat) : WalkM JM (List Byte) := do
  let b ← jobGet j .data true va n
  let r ← get
  return if j.pages.isEmpty then overlay r.out va b else b
def jobReadN (j : Job) (va n : Nat) : WalkM JM Nat := do return ofBytes (← jobRead j va n)
/-- A read of an EMBG's table, lists or map (R347). -/
def jobReadOld (j : Job) (va n : Nat) : WalkM JM Nat := do return ofBytes (← jobGet j .old true va n)

/-- The longest aligned piece of at most a sector. -/
def pieceAt (va n : Nat) : Nat :=
  if va % 128 = 0 ∧ 128 ≤ n then 128
  else if va % 8 = 0 ∧ 8 ≤ n then 8 else if va % 4 = 0 ∧ 4 ≤ n then 4 else if va % 2 = 0 ∧ 2 ≤ n then 2 else 1
/-- Reads of any length. -/
def jobReadSpan (j : Job) : Nat → Nat → Nat → WalkM JM (List Byte)
  | 0, _, _ => pure []
  | fuel + 1, va, n =>
    if n = 0 then pure []
    else do
      let k := pieceAt va n
      let b ← jobRead j va k
      return b ++ (← jobReadSpan j fuel (va + k) (n - k))

/-- Put the bits of a mask into a byte of a granule's write (R335); a bit no element covers is zero. -/
def putBits (old : Option Byte) (v mask : Nat) : Option Byte :=
  some (((old.getD 0) &&& ~~~(BitVec.ofNat 8 mask)) ||| (BitVec.ofNat 8 v &&& BitVec.ofNat 8 mask))

/-- Lay out one byte of an element whose first byte is at `first` (R218, R331): it joins the write of its granule. -/
def JRun.putByte (r : JRun) (counted : Bool) (first a v mask : Nat) : JRun :=
  let here (w : JobWrite) : Bool := w.base == a / 8 * 8 && (match w.op with | .masked _ => true | _ => false)
  let set_ (d : List (Option Byte)) : List (Option Byte) := d.set (a % 8) (putBits ((d[a % 8]?).join) v mask)
  if r.out.any here then
    { r with out := r.out.map fun w => if here w then { w with op := match w.op with | .masked d => .masked (set_ d) | o => o } else w }
  else
    let va := if first / 8 = a / 8 then first else a
    { r with acc := r.acc + 1
             out := r.out ++ [{ no := r.acc + 1, va := va, op := .masked (set_ (List.replicate 8 none)), counted := counted, home := none, cause := none }] }

/-- Lay out the bits of a mask over `n` bytes from an address. -/
def jobPut (counted : Bool) (va n v mask : Nat) : WalkM JM Unit :=
  modify fun r => (List.range n).foldl (fun r k => r.putByte counted va ((va + k) % 2 ^ 64) (v / 256 ^ k % 256) (mask / 256 ^ k % 256)) r
/-- Lay out bytes. -/
def jobWrite (counted : Bool) (va : Nat) (b : List Byte) : WalkM JM Unit := jobPut counted va b.length (ofBytes b) (256 ^ b.length - 1)
/-- Lay out another access (R346, R348). -/
def jobSend (va : Nat) (op : ReqOp) : WalkM JM Unit :=
  modify fun r => { r with acc := r.acc + 1, out := r.out ++ [{ no := r.acc + 1, va := va, op := op, counted := true, home := none, cause := none }] }

/-! ### Copy records (R333, R334) -/

/-- A copy record. -/
structure CpyRec where
  src : Nat
  dst : Nat
  mcnt : Nat
  seq : Bool
  keepSz : Bool
  shadow : Bool
  op : Nat
  nd : Nat                              -- ND: dimensions less one
  rnd : Nat
  dfmt : Nat
  sfmt : Nat
  seed : Nat
  aux : Nat
  sscale : Nat
  dscale : Nat
  padv : Nat
  order : List Nat
  mcast : List Nat
  compl : Nat
  dsize : List Nat
  ssize : List Nat
  sstr : List Int
  dstr : List Int

/-- The fields of a record's bytes. -/
def cpyRec (b : List Byte) : CpyRec :=
  let c := wd (dword b 2)
  let nd := fld c 20 4
  let dims := List.range (nd + 1)
  { src := dword b 0, dst := dword b 1, mcnt := fld c 32 3, seq := bitAt c 29, keepSz := bitAt c 28, shadow := bitAt c 27
    op := fld c 24 3, nd := nd, rnd := fld c 16 3, dfmt := fld c 8 5, sfmt := fld c 0 5, seed := dword b 3, aux := dword b 4
    sscale := dword b 5, dscale := dword b 6, padv := dword b 7
    order := (List.range (nd + 1)).map fun t => fld (wd (dword b 8)) (4 * t) 4
    mcast := (List.range 7).map fun m => ofBytes ((b.drop (0x48 + 2 * (m + 1))).take 2)
    compl := dword b 11
    dsize := dims.map fun k => word32 b (24 + 4 * k), ssize := dims.map fun k => word32 b (25 + 4 * k)
    sstr := dims.map fun k => sext (word32 b (26 + 4 * k)) 32, dstr := dims.map fun k => sext (word32 b (27 + 4 * k)) 32 }

/-- E: the elements of a record (R335). -/
def CpyRec.total (r : CpyRec) : Nat := r.dsize.foldl (· * ·) 1
def CpyRec.sf (r : CpyRec) : Fmt := (fmtOfNat r.sfmt).getD .f32
def CpyRec.df (r : CpyRec) : Fmt := (fmtOfNat r.dfmt).getD .f32

/-- In the core-store windows (R181). -/
def inWindows (va : Nat) : Bool := 0x00FF000000000000 ≤ va && va < 0x00FF004000000000

/-- The checks of R338 that need no memory. -/
def CpyRec.bad (s : State) (part : Nat) (r : CpyRec) (b : List Byte) : Bool :=
  let c := dword b 2
  let order := dword b 8
  let sf := r.sf
  let df := r.df
  let copyLike := r.op = 0 ∨ r.op = 3
  c / 2 ^ 35 != 0 || c / 2 ^ 30 % 4 != 0 || c / 2 ^ 19 % 2 != 0 || c / 2 ^ 13 % 8 != 0 || c / 2 ^ 5 % 8 != 0 || 4 ≤ r.op ||
  9 < r.nd || order / 2 ^ (4 * (r.nd + 1)) != 0 || ofBytes ((b.drop 0x48).take 2) != 0 ||
  ((b.drop (0x60 + 16 * (r.nd + 1))).any (· != 0)) || r.compl % 8 != 0 || 17 < r.sfmt || 17 < r.dfmt || r.rnd == 5 || r.rnd == 6 ||
  !((List.range (r.nd + 1)).all fun k => r.order.contains k) ||
  ((r.ssize.zip r.dsize).any fun x => x.2 < x.1) ||
  r.src % sf.elemBytes != 0 || r.dst % df.elemBytes != 0 ||
  (r.op == 0 && r.aux != 0) || (sf.block == 0 && r.sscale != 0) || (df.block == 0 && r.op != 1 && r.dscale != 0) ||
  (sf.block != 0 && (decide ¬copyLike || r.op != 0 || r.sscale == 0 || r.total % sf.block != 0)) ||
  (df.block != 0 && (r.op != 0 || r.dscale == 0 || r.total % df.block != 0)) ||
  (r.op == 3 && r.ssize.getD r.nd 0 != r.dsize.getD r.nd 0) ||
  (r.mcnt != 0 && (!inWindows r.dst || (r.mcast.take r.mcnt).any fun v => !s.hasVc part v)) ||
  (r.shadow && r.mcnt != 0) ||
  (r.op == 1 && (r.order != List.range (r.nd + 1) || r.dst != 0 || r.dstr.any (· != 0))) ||
  (r.op == 2 && (r.src != 0 || r.sstr.any (· != 0) || r.ssize != r.dsize))

/-- The format record suits a compress or decompress job (R337). -/
def CpyRec.suits (r : CpyRec) (f : FRec) : Bool :=
  f.levels.length == r.nd + 1 &&
  ((List.range (r.nd + 1)).all fun l => (f.level l).size == r.dsize.getD (r.nd - l) 0) &&
  f.vfmt.block == 0 &&
  (if r.op = 1 then f.vfmt == r.df && ((List.range r.nd).all fun l => (f.level l).kind == 0) &&
      ((f.level r.nd).kind == 1 || (f.level r.nd).kind == 2)
   else f.vfmt == r.sf)

/-! ### Elements (R335, R336) -/

/-- The index vector of ordinal e, by dimension (R335). -/
def CpyRec.index (r : CpyRec) (e : Nat) : List Nat :=
  let step (st : Nat × List (Nat × Nat)) (k : Nat) : Nat × List (Nat × Nat) :=
    let n := max 1 (r.dsize.getD k 1)
    (st.1 / n, (k, st.1 % n) :: st.2)
  let at_ := (r.order.foldl step (e, [])).2
  (List.range (r.nd + 1)).map fun k => ((at_.find? (·.1 == k)).map (·.2)).getD 0

def dot (i : List Nat) (st : List Int) : Int := (i.zip st).foldl (fun n x => n + (x.1 : Int) * x.2) 0

/-- The bytes of an element at bit `8 * base + w * i` (R335): their address, how many, and the bit the element starts at. -/
def bitPlace (base w : Nat) (i : Int) : Nat × Nat × Nat :=
  let bit := 8 * (base : Int) + w * i
  let byte := wrapN (bit / 8) 64
  let off := (bit % 8).toNat
  (byte, ceilDiv (off + w) 8, off)

/-- The code of a source element, read by bytes where it is narrower than a byte. -/
def readElem (j : Job) (base w : Nat) (i : Int) : WalkM JM Nat := do
  let (a, n, off) := bitPlace base w i
  if 8 ≤ w then jobReadN j a (w / 8)
  else
    let b ← (List.range n).mapM fun k => jobReadN j ((a + k) % 2 ^ 64) 1
    return (b.foldr (fun x m => x + 256 * m) 0) / 2 ^ off % 2 ^ w

/-- The ordinal is padding (R335). -/
def CpyRec.padded (r : CpyRec) (e : Nat) : Bool := ((r.index e).zip r.ssize).any fun x => x.2 ≤ x.1

/-- A source element: its code and its scale; nothing for padding (R335). -/
def CpyRec.source (r : CpyRec) (j : Job) (e : Nat) : WalkM JM (Option (Nat × Nat)) := do
  let i := r.index e
  if r.padded e then return none
  let s0 := dot i r.sstr
  let s1 ← if r.op = 3 then do
      let k := i.getD r.nd 0
      let x ← jobReadN j ((r.aux + 4 * k) % 2 ^ 64) 4
      pure (s0 - (k : Int) * r.sstr.getD r.nd 0 + (x : Int) * r.sstr.getD r.nd 0)
    else pure s0
  let code ← readElem j r.src r.sf.width s1
  let scale ← if r.sf.block = 0 then pure 0 else jobReadN j ((r.sscale + e / r.sf.block) % 2 ^ 64) 1
  return some (code, scale)

/-- The value of a source element, or of padding (R333, R65). -/
def CpyRec.value (r : CpyRec) (x : Option (Nat × Nat)) : FV :=
  match x with
  | some (c, sc) => decElem r.sf sc c
  | none => match r.sf.elem with
    | .flt _ => fp32.dec (r.padv % 2 ^ 32)
    | .int _ => FV.ofInt (sext r.padv 64)

/-- Where the multicast destinations lie from DST (R336). -/
def CpyRec.deltas (r : CpyRec) : List Int :=
  0 :: (r.mcast.take r.mcnt).map fun (v : Nat) => ((v : Int) - (r.dst / 2 ^ 20 % 4096 : Nat)) * 2 ^ 20
/-- Where the scale arrays lie from DSCALE (R336). -/
def CpyRec.scaleDeltas (r : CpyRec) : List Int :=
  if inWindows r.dscale && r.dscale / 2 ^ 20 == r.dst / 2 ^ 20 then r.deltas else [0]

def shiftVa (va : Nat) (d : Int) : Nat := wrapN ((va : Int) + d) 64

/-- Lay out an element's code at its destinations (R335, R336). -/
def CpyRec.emit (r : CpyRec) (e code : Nat) : WalkM JM Unit := do
  let w := r.df.width
  let (a, n, off) := bitPlace r.dst w (dot (r.index e) r.dstr)
  for d in r.deltas do jobPut true (shiftVa a d) n (code * 2 ^ off) ((2 ^ w - 1) * 2 ^ off)

/-- The rounding of ordinal e (R71, R335). -/
def CpyRec.modeAt (r : CpyRec) (j : Job) (e : Nat) : RMode := ⟨j.mode, wd (r.seed + e), j.srkey⟩

/-- One run of ordinals: an element, or a block of a block-scaled destination (R335). A block that is converted is encoded once all its
elements are read. -/
def CpyRec.run (r : CpyRec) (j : Job) (e : Nat) : WalkM JM Flags := do
  if r.df.block = 0 then
    let x ← r.source j e
    let (code, fl) := match x with
      | some (c, _) => if r.sfmt = r.dfmt then (c, 0) else r.df.elem.enc (r.modeAt j e) (r.value x)
      | none => r.df.elem.enc (r.modeAt j e) (r.value x)
    r.emit e code
    return fl
  else
    let es := (List.range r.df.block).map (e + ·)
    let scale (v : Nat) : WalkM JM Unit := do
      for d in r.scaleDeltas do jobWrite true (shiftVa r.dscale ((e / r.df.block : Nat) + d)) (toBytes v 1)
    if r.sfmt = r.dfmt ∧ !es.any r.padded then
      for k in es do
        let x := (← r.source j k).getD (0, 0)
        r.emit k x.1
        if k = e then scale x.2
      return 0
    else
      let xs ← es.mapM (r.source j)
      let out := encArray r.df (es.map (r.modeAt j)) (xs.map r.value)
      for x in es.zip out.codes do r.emit x.1 x.2
      scale (out.scales.headD 0)
      return orFlags out.flags

/-- Elements a run covers. -/
def CpyRec.step (r : CpyRec) : Nat := max 1 r.df.block

/-- The granules the run of an ordinal writes. -/
def CpyRec.granules (r : CpyRec) (e : Nat) : List Nat :=
  let w := r.df.width
  let elems := (List.range r.step).flatMap fun k =>
    let (a, n, _) := bitPlace r.dst w (dot (r.index (e + k)) r.dstr)
    r.deltas.flatMap fun d => [shiftVa a d / 8, shiftVa a (d + ((n : Nat) - 1)) / 8]
  elems ++ if r.df.block = 0 then [] else r.scaleDeltas.map fun d => shiftVa r.dscale ((e / r.df.block : Nat) + d) / 8

/-- Runs from ordinal e on, `n` of them: the flags, and the ordinal reached. A run that faults leaves every element of a lower ordinal laid
out (R339). -/
def CpyRec.runs (r : CpyRec) (j : Job) : Nat → Nat → Flags → WalkM JM (Flags × Nat)
  | 0, e, fl => pure (fl, e)
  | n + 1, e, fl =>
    if r.total ≤ e then pure (fl, e)
    else do
      let f ← r.run j e
      r.runs j n (e + r.step) (fl ||| f)

/-! ### The scoreboard (R195) -/

/-- The core stores a range of virtual addresses lies in, with offsets. -/
def localSpans (c : CoreId) (lo hi : Nat) : List (CoreId × Nat × Nat) :=
  let near : List (CoreId × Nat × Nat) :=
    if 0x00FE000000000000 ≤ hi && lo < 0x00FE000000100000 then
      [(c, max lo 0x00FE000000000000 % 2 ^ 20, min hi 0x00FE0000000FFFFF % 2 ^ 20)] else []
  let win : List (CoreId × Nat × Nat) :=
    if inWindows lo || inWindows hi then
      let a := (max lo 0x00FF000000000000 - 0x00FF000000000000) / 2 ^ 20
      let b := (min hi 0x00FF003FFFFFFFFF - 0x00FF000000000000) / 2 ^ 20
      (List.range (b + 1 - a)).map fun i =>
        let k := a + i
        let base := 0x00FF000000000000 + k * 2 ^ 20
        ({ part := c.part, pkg := k / 4096, vc := k % 4096 }, max lo base - base, min hi (base + 2 ^ 20 - 1) - base)
    else []
  near ++ win

/-- The lowest and highest byte of the elements a record writes, from DST (R342). -/
def CpyRec.extent (r : CpyRec) : Option (Nat × Nat) :=
  if r.total = 0 then none
  else
    let part (f : Int → Int) : Int := ((r.dsize.zip r.dstr).map fun x => f (((x.1 : Int) - 1) * x.2)).foldl (· + ·) 0
    let w := r.df.width
    some (wrapN ((8 * (r.dst : Int) + w * part (min 0)) / 8) 64, wrapN ((8 * (r.dst : Int) + w * part (max 0) + w - 1) / 8) 64)

/-- The ranges a copy writes. -/
def CpyRec.ranges (r : CpyRec) : List (Nat × Nat) :=
  match r.extent with
  | none => []
  | some (lo, hi) =>
    (r.deltas.map fun d => (shiftVa lo d, shiftVa hi d)) ++
    (if r.df.block = 0 then [] else r.scaleDeltas.map fun d => (shiftVa r.dscale d, shiftVa r.dscale (d + ((r.total / r.df.block : Nat) - 1))))

/-! ### Compress and decompress (R337, R301) -/

/-- R301's zero detector in the source format; padding by its own value. -/
def CpyRec.isZero (r : CpyRec) (x : Option (Nat × Nat)) : Bool :=
  let w := r.sf.width
  match x, r.sf.elem with
  | some (c, _), .int _ => c == 0
  | some (c, _), .flt _ => c == 0 || (c == 2 ^ (w - 1) && !r.keepSz)
  | none, .int _ => r.padv == 0
  | none, .flt _ => r.padv % 2 ^ 32 == 0 || (r.padv % 2 ^ 32 == 2 ^ 31 && !r.keepSz)

/-- What a compress job has done: values stored, flags, bitmap words. -/
structure CmpSt where
  count : Nat
  flags : Flags
  bits : Nat

/-- Store one value (R337). DESIGN CHOICE (log 126): R337 does not say which index a stored value draws by; it is the ordinal of its element
among all the elements (R71). -/
def CpyRec.putValue (r : CpyRec) (j : Job) (f : FRec) (st : CmpSt) (c : Nat) (x : Option (Nat × Nat)) (e : Nat) : WalkM JM CmpSt := do
  if r.dscale ≤ st.count then throw (0x32, r.dscale)
  let v := f.level r.nd
  let (code, fl) := if r.sfmt = r.dfmt ∧ x.isSome then ((x.getD (0, 0)).1, 0) else r.df.elem.enc (r.modeAt j e) (r.value x)
  if v.kind = 1 then jobWrite true (entryAt v.crd v.width st.count) (toBytes c v.width)
  let w := r.df.width
  let (a, n, off) := bitPlace f.vals w st.count
  jobPut true a n (code * 2 ^ off) ((2 ^ w - 1) * 2 ^ off)
  return { count := st.count + 1, flags := st.flags ||| fl, bits := st.bits + 2 ^ c }

/-- One fibre: its elements, its bitmap words, its POS entry. -/
def CpyRec.putFibre (r : CpyRec) (j : Job) (f : FRec) (st : CmpSt) (p : Nat) : WalkM JM CmpSt := do
  let v := f.level r.nd
  let n := r.dsize.getD 0 0
  let st ← (List.range n).foldlM (fun st c => do
    let e := p * n + c
    let x ← r.source j e
    if r.isZero x then pure st else r.putValue j f st c x e) { st with bits := 0 }
  if v.kind = 2 then
    for i in List.range v.nwords do
      jobWrite true (entryAt v.crd 8 (p * v.nwords + i)) (toBytes (st.bits / 2 ^ (64 * i)) 8)
  if 256 ^ v.width ≤ st.count then throw (0x32, st.count)
  jobWrite true (entryAt v.pos v.width (p + 1)) (toBytes st.count v.width)
  return st

/-- A compress job: the count of values stored and the flags. -/
def CpyRec.compress (r : CpyRec) (j : Job) (f : FRec) : WalkM JM (Nat × Flags) := do
  let v := f.level r.nd
  jobWrite true (entryAt v.pos v.width 0) (toBytes 0 v.width)
  let n := max 1 (r.dsize.getD 0 0)
  let st ← (List.range (r.total / n)).foldlM (r.putFibre j f) { count := 0, flags := 0, bits := 0 }
  return (st.count, st.flags)

/-- A part of a tree as far as it could be walked: present values by place and entry, and the fault met with the place it withholds from. -/
abbrev Leaves := List (Nat × Nat) × Option (Nat × Nat × Nat)

/-- The elements of a walk as far as it goes, and a fault with the coordinate it withholds from. -/
def walkList (j : Job) (w : Walker) : Nat → Nat → WSt → WalkM JM Leaves
  | 0, _, _ => pure ([], none)
  | fuel + 1, from_, st => do
    match ← ExceptT.lift (walkNext (jobReadN j) w st).run with
    | .ok (none, _) => return ([], none)
    | .ok (some e, st) =>
      let (l, f) ← walkList j w fuel (e.1 + 1) st
      return (e :: l, f)
    | .error x => return ([], some (from_, x.1, x.2))

/-- Places below one element of a level (R298). -/
def FRec.span (f : FRec) (l : Nat) : Nat := (f.levels.drop l).foldl (fun n v => n * v.size) 1

/-- The present values of a subtree, in the order of their places (R298, R299). -/
def leaves (j : Job) (f : FRec) : Nat → Nat → Nat → Nat → WalkM JM Leaves
  | 0, _, q, e => pure ([(e, q)], none)
  | depth + 1, l, p, e => do
    let w : Walker := { frec := f, parent := p, level := l, deliv := 2 }
    let base := e * (f.level l).size
    match ← ExceptT.lift (walkStart (jobReadN j) w).run with
    | .error x => return ([], some (base * f.span (l + 1), x.1, x.2))
    | .ok st =>
      let (es, bad) ← walkList j w ((f.level l).size + 1) 0 st
      let (got, fault) ← es.foldlM (fun (r : Leaves) x => match r.2 with
        | some _ => pure r
        | none => do
          let (m, g) ← leaves j f depth (l + 1) x.2 (base + x.1)
          return (r.1 ++ m, g)) ([], none)
      return (got, fault.or (bad.map fun b => ((base + b.1) * f.span (l + 1), b.2)))

/-- A decompress job (R337): each present value converted, each absent element the all-zero encoding. Level l is dimension
ND - l, so an element's place in the tree is its ordinal under the identity order. A defect ends the job at the first ordinal whose place it
withholds. -/
def CpyRec.decompress (r : CpyRec) (j : Job) (f : FRec) : WalkM JM (Nat × Flags) := do
  let (present, bad) ← leaves j f (r.nd + 1) 0 0 0
  let place (e : Nat) : Nat := ((r.index e).zip (r.dsize)).foldr (fun x n => n * x.2 + x.1) 0
  let fl ← (List.range r.total).foldlM (fun (fl : Flags) e => do
    match bad with
    | some (p, c, v) => if p ≤ place e then throw (c, v)
    | none => pure ()
    match present.find? fun x => x.1 == place e with
    | none =>
      r.emit e 0
      return fl
    | some (_, q) =>
      let c ← readElem j f.vals r.sf.width q
      let (code, g) := if r.sfmt = r.dfmt then (c, 0) else r.df.elem.enc (r.modeAt j e) (decElem r.sf 0 c)
      r.emit e code
      return fl ||| g) 0
  return (r.total, fl)

end Sys2Proof.Machine
end

