-- ==== Sys2Proof/Machine/Copy.lean ====
section
/-! DEFINITION. Accepting engine jobs, running copies, completing jobs, and the instructions that wait for them and publish
(14_copy_engines.md R329-R344, R349-R356). -/
namespace Sys2Proof.Machine

/-! ### Acceptance (R329, R330, R351) -/

/-- Code BADREC and its companions (R332). -/
def eNoShadow : Nat := 0x30
def eBadRec : Nat := 0x31
def eBadIndex : Nat := 0x34
def eLogFull : Nat := 0x35
def eNotPub : Nat := 0x36

/-- The status of a done and of a faulted job (R332). -/
def statusDone (fl : Flags) (count : Nat) : Word := wd (2 ^ 62 + fl.toNat * 2 ^ 48 + count % 2 ^ 48)
def statusFault (code val : Nat) : Word := wd (2 ^ 63 + code % 64 * 2 ^ 56 + val % 2 ^ 56)

/-- Read a record by the instruction itself, one access per sector (R351). -/
def readRecordAt (va n : Nat) : M (List Byte) := do
  let e ← get
  let pieces : List (Nat × Nat) := if va % 128 = 0 then (List.range (ceilDiv n 128)).map fun k => (va + 128 * k, min 128 (n - 128 * k))
    else (va, min 64 n) :: (List.range (ceilDiv (n - 64) 128)).map fun k => (va + 64 + 128 * k, min 128 (n - 64 - 128 * k))
  pieces.foldlM (fun b x => do return b ++ (← liftR (ctxRead e.st.cur e.cx false (x.1 % 2 ^ 64) x.2))) []

/-- The engine of a core (R329): its die, and the column of its cluster. -/
def State.engineOf (s : State) (c : CoreId) : Nat := let p := s.physCore c; p / 512 * 8 + p % 32 / 4
/-- Jobs an engine holds. -/
def State.placesUsed (s : State) (pkg e : Nat) : Nat := (s.jobs.filter fun j => j.pkg == pkg && j.engine == e).length

/-- Write a job table (R330): the entry of the oldest completed job is reused. DESIGN CHOICE (log 154): while an entry has never been used the new
job takes that one, and no status is lost. -/
def Ctx.addJob (x : Ctx) (status : Word) : Ctx :=
  let e : JobEntry := { tag := x.jobCtr, status := status }
  let jobs := if x.jobs.length < 16 then x.jobs
    else match x.jobs.find? fun y => fld y.status 62 2 != 0 with
      | some y => x.jobs.filter (·.tag != y.tag)
      | none => x.jobs
  { x with jobs := jobs ++ [e], jobCtr := (x.jobCtr + 1) % 2 ^ 64 }

/-- An access made for a job as it is accepted: its fault ends the job, not the instruction (R338, R342). -/
def judged {α : Type} (a : M (Except (Nat × Nat) α)) : WalkM M α := ExceptT.mk a

/-- Accept a CPY, EMBG or RMOVE (R329-R331, R338, R351): `judge` completes the job from its record, or names what ends it at once;
`compl` is the record's completion word. -/
def acceptJob (i : Instr) (d a : Reg) (size : Nat) (spec : List Byte → Bool) (kind : List Byte → JobKind)
    (compl : List Byte → Nat) (judge : Job → WalkM M Job) : M Unit := do
  let (vs, p) ← operands i [a] (some d)
  let va := (vs.getD 0 0).toNat
  faultIf (va % 64 ≠ 0) cAlign (wd va)
  let b ← readRecordAt va size
  if !spec b then settleOp
  let s ← st
  let x ← cx
  let c := s.cur
  let pkg := s.logPkg c.core.part c.core.pkg
  let eng := s.engineOf c.core
  waitUnless ((s.jobs.filter fun j => j.issuer == c).length < 16 && s.placesUsed pkg eng < 64)
  drained
  waitUnless (s.nbrLanded c.core)
  let (id, s) := s.newId
  modSt fun _ => s
  let w := compl b
  let job : Job :=
    { id := id, tag := x.jobCtr, issuer := c, pkg := pkg, engine := eng, kind := kind b, priv := x.priv, task := x.task
      recVa := va, recBytes := b, mode := x.frm.toNat, srkey := x.srkey, seqJob := false, compl := if w % 8 = 0 then w else 0
      started := false, worked := false, pos := 0, flags := 0, count := 0, fault := none, pages := [], touched := []
      publish := none, old := none, frec := none, note := [], accNo := 0, reads := [], out := [], sent := [], after := none, told := false }
  let r ← (if w % 8 ≠ 0 then throw (eBadRec, va) else judge job : WalkM M Job).run
  match r with
  | .ok j =>
    modSt fun s => { s with jobs := s.jobs ++ [j] }
    modCx fun x => x.addJob 0
  | .error (code, val) =>
    if job.compl = 0 then modCx fun x => x.addJob (statusFault code val)
    else
      modSt fun s => { s with jobs := s.jobs ++ [{ job with started := true, worked := true, fault := some (code, val) }] }
      modCx fun x => x.addJob 0
  putDest p (wd x.jobCtr)

/-! ### Shadowed destinations (R342) -/

/-- The names of the pages from lo to hi, in ascending order, through translations of `tr`; the first fault ends the job. -/
def pageNames {m : Type → Type} [Monad m] (tr : Nat → WalkM m Tlb) (lo : Nat) : List Nat → WalkM m (List (Nat × Option Nat))
  | [] => pure []
  | p :: r => do
    if 0x00FE000000000000 ≤ p * 524288 then return (p * 524288, none) :: (← pageNames tr lo r)
    let e ← tr (max lo (p * 524288))
    return (p * 524288, e.nameAt (p * 524288)) :: (← pageNames tr lo r)

/-- The covered pages with their names, or what ends the job: `first` is the job's lowest destination byte in a page. -/
def coverPages {m : Type → Type} [Monad m] (tr : Nat → WalkM m Tlb) (j : Job) (first : Nat → Nat) (lo hi : Nat) :
    WalkM m (List (Nat × Nat)) := do
  if hi < lo || 4096 ≤ hi / 524288 - lo / 524288 then throw (eBadRec, j.recVa)
  let l ← pageNames tr lo ((List.range (hi / 524288 - lo / 524288 + 1)).map (lo / 524288 + ·))
  match l.find? fun x => x.2.isNone with
  | some x => throw (eNotPub, first x.1)
  | none => return l.filterMap fun x => x.2.map fun n => (x.1, n)

/-- A translation of a job as it is accepted, through its engine (R342). -/
def acceptTr (j : Job) (va : Nat) : WalkM M Tlb := judged do
  let e ← get
  let c := e.st.cur
  match e.st.translate j.who (some (.ctx c e.cx.icount)) .write j.priv va with
  | (.fault f, s) =>
    set { e with st := s }
    return .error (f, va)
  | (.miss, _) => throw (.walk c.core.clu (fld (e.st.part j.part).atbl 48 16) va)
  | (.wait, _) => stall
  | (.ok t, s) =>
    set { e with st := s }
    return .ok t
/-- A translation of a job at work. -/
def workTr (j : Job) (va : Nat) : WalkM JM Tlb := do
  match (← jobSt).translate j.who (some (.job j.id)) .write j.priv va with
  | (.fault f, s) =>
    jobSet s
    throw (f, va)
  | (.miss, _) => throwThe JStop (.leave fun s => s.startWalk j.issuer.core.clu j.issuer.core (fld (s.part j.part).atbl 48 16) va (.job j.id))
  | (.wait, _) => jobWait
  | (.ok t, s) =>
    jobSet s
    return t

/-- The lowest and highest byte of each array a shadowed job writes (R342): for a compress job, those it can fill. -/
def CpyRec.shadowSpans (r : CpyRec) (f : Option FRec) : List (Nat × Nat) :=
  match f with
  | some f =>
    if r.op = 1 then
      let v := f.level r.nd
      let fibres := r.total / max 1 (r.dsize.getD 0 1)
      [(v.pos, v.pos + v.width * (fibres + 1)), (f.vals, f.vals + ceilDiv (r.df.width * r.dscale) 8),
       (v.crd, v.crd + (if v.kind = 1 then v.width * r.dscale else 8 * v.nwords * fibres))].filterMap fun x =>
        if x.1 < x.2 then some (x.1, x.2 - 1) else none
    else r.ranges
  | none => r.ranges
/-- The lowest byte in a page that a shadowed job writes: of a copy, that of its elements and scales; of a compress job, that of its arrays. -/
def CpyRec.firstIn (r : CpyRec) (f : Option FRec) (lo page : Nat) : Nat :=
  let inPage (a : Nat) : Bool := a / 524288 == page / 524288
  let bytes : List Nat :=
    if r.op = 1 then (r.shadowSpans f).map fun x => if x.1 ≤ page && page ≤ x.2 then page else x.1
    else (List.range r.total).flatMap fun e =>
      let (a, n, _) := bitPlace r.dst r.df.width (dot (r.index e) r.dstr)
      (List.range n).map fun k => (a + k) % 2 ^ 64
  let mine := (bytes ++ (if r.df.block = 0 || r.op = 1 then [] else (List.range (ceilDiv r.total r.df.block)).map (r.dscale + ·))).filter inPage
  mine.foldl min (if mine.isEmpty then max lo page else page + 524287)

/-- The format record at AUX as the instruction reads it, or what ends the job (R337, R338). DEDUCED (log 127): it is read as the job is
accepted, through the issuer. -/
def CpyRec.readAux (r : CpyRec) (j : Job) : WalkM M FRec := do
  let rd (va n : Nat) : WalkM M (List Byte) := judged do
    let e ← get
    tryR (ctxRead e.st.cur e.cx false va n)
  match ← readRecord rd r.aux with
  | some f => if r.suits f then return f else throw (eBadRec, j.recVa)
  | none => throw (eBadRec, j.recVa)

/-- The acceptance of a copy record (R338, R342). -/
def judgeCpy (j : Job) : WalkM M Job := do
  let r := cpyRec j.recBytes
  if r.bad (← (st : M State)) j.part j.recBytes then throw (eBadRec, j.recVa)
  let j := { j with mode := if r.rnd = 7 then j.mode else r.rnd, seqJob := r.seq }
  let f ← if r.op = 1 ∨ r.op = 2 then do let f ← r.readAux j; pure (some f) else pure none
  let j := { j with frec := f }
  match (if r.shadow then r.shadowSpans f else []) with
  | [] => return j
  | x :: l =>
    let (lo, hi) := l.foldl (fun m y => (min m.1 y.1, max m.2 y.2)) x
    let pages ← coverPages (acceptTr j) j (r.firstIn f lo) lo hi
    let s ← (st : M State)
    -- a swap under way takes the shadow first
    if s.swapping j.part j.task (pages.map (·.2)) then (stall : M Unit)
    match (s.part j.part).takeFrames j.task pages with
    | .error n => throw (eNoShadow, n)
    | .ok q =>
      (modSt fun s => s.setPart j.part q : M Unit)
      return { j with pages := pages, touched := q.touched j.task pages }

/-- The kind a copy record asks for. -/
def cpyKind (b : List Byte) : JobKind :=
  match (cpyRec b).op with | 1 => .compress | 2 => .decompress | 3 => .gather | _ => .copy

/-- CPY (R333, R351). -/
def execCpy (d a : Reg) : State → Host.Outcome State Fault Refusal :=
  runWord (acceptJob (.cpy d a) d a 256 (fun b => (cpyRec b).shadow) cpyKind (fun b => (cpyRec b).compl) judgeCpy)

/-! ### Starting, running and completing -/

/-- The job stands at a piece boundary (R335, R426): nothing of a piece is laid out, read or unanswered. -/
def Job.atBoundary (j : Job) : Bool := j.after.isNone && j.reads.isEmpty && !j.told && !j.sent.any (·.cause.isNone)
/-- The partition of a job is in its slice, or has stopped and lets the job finish its piece (R426). -/
def State.jobLive (s : State) (j : Job) : Bool :=
  let q := s.part j.issuer.core.part
  q.live || (q.onChip j.issuer.core.pkg && !j.atBoundary)

/-- JOB_START (R331, R342). -/
def State.jobStart (s : State) (id : Nat) : State :=
  match s.jobs.find? (·.id == id) with
  | none => s
  | some j =>
    let q := s.part j.part
    if j.started || j.worked || !s.jobLive j then s
    else if j.seqJob && s.jobs.any fun k => k.issuer == j.issuer && k.tag < j.tag then s
    else if q.foreign j.task j.pages || s.swapping j.part j.task (j.pages.map (·.2)) then s
    else match q.takeFrames j.task j.pages with
      | .ok q => (s.setPart j.part q).modJob id fun k => { k with started := true, touched := q.touched j.task j.pages }
      | .error n => (s.modJob id fun k => { k with started := true }).jobFault id eNoShadow n

/-! ### Scoreboard entries and sending (R195, R329) -/

/-- The ranges a job writes over its whole life, so far as its record gives them (R195). -/
def Job.reach (j : Job) : List (Nat × Nat) :=
  match j.kind with
  | .copy | .gather | .decompress => (cpyRec j.recBytes).ranges
  | .embg m =>
    let b := j.recBytes
    let n := word32 b 10 * fld (wd (dword b 1)) 0 16 * ((fmtOfNat (fld (wd (dword b 1)) 24 5)).getD .f32).elemBytes
    -- its hit counters are known once its first piece is laid out, before its first write
    let hits := ((j.after.map (·.note)).getD j.note).map fun x => (x.1, x.1 + 7)
    if m < 2 then (if n ≠ 0 then [(dword b 6, shiftVa (dword b 6) ((n : Int) - 1))] else []) ++ hits else []
  | _ => []

/-- Take a job's entry at a core before its first write there, or nothing where all 16 are held (R195), or where the core has performed an access of
its own in this cycle, which an entry taken in it would hold (R215). -/
def State.takeBoard (s : State) (j : Job) (c : CoreId) : Option State :=
  let k := s.core c
  if k.sboard.any (·.1 == j.id) then some s
  else if 16 ≤ k.sboard.length || k.ownAt == s.clock + 1 then none
  else
    let laid : List (Nat × Nat) := j.out.map fun (w : JobWrite) => (w.base, w.base + w.op.bytes - 1)
    let near := (j.reach ++ laid).flatMap fun (x : Nat × Nat) => localSpans j.issuer.core x.1 x.2
    let mine := (near.filter (·.1 == c)).map (·.2)
    let lo := mine.foldl (fun m x => min m x.1) (2 ^ 20)
    let hi := mine.foldl (fun m x => max m x.2) 0
    some (s.setCore c { k with sboard := (j.id, lo / 128, hi / 128) :: k.sboard })
/-- Release a job's entries. -/
def State.dropBoards (s : State) (id : Nat) : State :=
  { s with cores := s.cores.map fun (k, (c : Core)) => (k, { c with sboard := c.sboard.filter (·.1 != id) }) }

/-- The shadow a laid-out write of a job goes into (R342). -/
def State.shadowAt (s : State) (j : Job) (w : JobWrite) : Option Shadow :=
  (j.pages.find? fun x => x.1 == w.base / 524288 * 524288).bind fun x =>
    ((s.part j.part).shadowOf x.2).filter fun h => h.owner == j.task

/-- Send one laid-out write, if nothing stands in its way (R195, R205, R329, R377): into the job's shadow it is written at once, to a home it
goes as a request; where it cannot be translated it has failed. -/
def State.sendOne (s : State) (id : Nat) (w : JobWrite) : State :=
  match s.jobs.find? (·.id == id) with
  | none => s
  | some j =>
    let c := j.issuer.core
    let gone (s : State) : State := s.modJob id fun k => { k with out := k.out.filter (·.no != w.no) }
    let fail (cause : Nat) (s : State) : State := (gone s).modJob id fun k => { k with sent := k.sent ++ [{ w with cause := some cause }] }
    match s.shadowAt j w with
    | some h =>
      let frame := (s.part j.part).frameAt h.frame
      gone ((w.op.runs.foldl (fun s x => s.poke (frame + w.base % 524288 + x.1) x.2) s).thereAndBack j.part 0 1 j.agent
        (Home.llc (frame / 2 ^ 46) (s.sliceOf (frame + w.base % 524288))).agent)
    | none =>
      let kind : TKind := match w.op with | .masked _ => .write | _ => .rw
      match s.jobLoc j .data kind w.base w.op.bytes with
      | (.miss, s) => s.startWalk c.clu c (fld (s.part j.part).atbl 48 16) w.base (.job id)
      | (.wait, _) => s
      | (.fault f, s) => fail f s
      | (.ok l, s') =>
        match w.op, l.home with
        | .rlog _ _ _ _, .llc _ _ => fail cAccess s'
        | _, _ =>
          let board := match l.isLocal, l.home with
            | true, .core d => s'.takeBoard j d
            | _, _ => some s'
          match board with
          | none => s
          | some s' =>
            let flits := match w.op with | .masked _ => 1 | _ => 0
            let x := (s.ctx? j.issuer).getD (Ctx.blank c j.issuer.slot .held)
            if !s'.canSend j.agent l.home.agent flits || (w.op.seqd && 63 ≤ s'.unanswered j.issuer x l.home) then s
            else
              let k := s'.core c
              let s := if w.op.seqd then s'.setCore c (k.bumpAseq l.home) else s'
              ((gone s).modJob id fun k => { k with sent := k.sent ++ [{ w with home := some l.home }] }).send j.part 0 j.agent l.home.agent flits
                (.req { src := j.issuer, acc := w.no, va := w.base, pa := l.pa, home := l.home, op := w.op, task := j.task, posted := none
                        aseq := k.nextAseq l.home, replicated := none, via := j.via w.counted })

/-- A piece of work whose writes are all answered leaves what it leaves: the failure of the lowest write, refused records counted (R348), the
fault the piece met, or its progress (R339). -/
def State.pieceDone (s : State) (j : Job) (a : JobAfter) : State :=
  let bad := j.sent.filter fun w => w.cause.any (· != cLogFull)
  let end_ (code val : Nat) : State := (s.jobFault j.id code val).dropBoards j.id
  match bad with
  | w :: r =>
    -- granules held back for later elements hold lower ones too, which are written first (R339)
    if !a.keep.isEmpty then s.modJob j.id fun k => { k with out := a.keep, after := some { a with keep := [] } }
    else
      let w := r.foldl (fun m w => if w.no < m.no then w else m) w
      end_ (w.cause.getD 0) w.va
  | [] =>
    if j.sent.length ≠ 0 then end_ eLogFull j.sent.length
    else match a.fault with
      | some (code, val) => end_ code val
      | none =>
        let s := s.modJob j.id fun k =>
          { k with pos := a.pos, flags := a.flags, count := a.count, worked := a.worked, note := a.note, reads := [], out := a.keep, after := none }
        if a.worked then s.dropBoards j.id else s

/-- Send what a piece has laid out; once all is answered, the piece is done. -/
def State.jobSend (s : State) (j : Job) (a : JobAfter) : State :=
  let s := j.out.foldl (fun s w => s.sendOne j.id w) s
  match s.jobs.find? (·.id == j.id) with
  | none => s
  | some j => if !j.out.isEmpty || j.sent.any (·.cause.isNone) then s else s.pieceDone j a

/-- What a piece leaves that has only come so far. -/
def Job.go (j : Job) : JobAfter :=
  { pos := j.pos, flags := j.flags, count := j.count, worked := false, fault := none, note := j.note, keep := [] }

/-- Fill a shadow of the job further from its page's current frame, by reads that are not tracked (R342). -/
def fillPiece (h : Shadow) (j : Job) : WalkM JM JobAfter := do
  let page := ((j.pages.find? fun x => x.2 == h.name).map (·.1)).getD 0
  let bs ← (List.range 8).mapM fun k => jobGet j (.fill h.name (h.filled + 128 * k)) false (page + h.filled + 128 * k) 128
  let s ← jobSt
  match (s.part j.part).shadowOf h.name with
  | some g =>
    if g.filled = h.filled && g.frame = h.frame then
      jobSet ((s.poke ((s.part j.part).frameAt h.frame + h.filled) bs.flatten).modPart j.part fun q =>
        { q with shadows := q.shadows.map fun (k : Shadow) => if k.name == h.name then { k with filled := k.filled + 1024 } else k })
  | none => pure ()
  return j.go

/-- The shadow of a job that is still to be filled (R342). -/
def State.toFill (s : State) (j : Job) : Option Shadow :=
  (s.part j.part).shadows.find? fun h => h.owner == j.task && j.touched.contains h.name && h.filled < 524288

/-- Let a running job work: send what its piece has laid out, else fill its shadows, else do the next piece of its own work. -/
def State.jobWork (s : State) (id : Nat) (ok : JobKind → Bool) (f : Job → WalkM JM JobAfter) : State :=
  match s.jobs.find? (·.id == id) with
  | none => s
  | some j =>
    if !(j.started && !j.worked && j.publish.isNone && ok j.kind && s.jobLive j) then s
    else match j.after with
      | some a => s.jobSend j a
      | none =>
        let piece := match s.toFill j with
          | some h => fillPiece h j
          | none => f j
        match piece.run.run { st := s, ix := 0, out := j.out, acc := j.accNo } with
        | .error .wait => s
        | .error (.leave g) => g s
        | .ok (r, x) =>
          let a := match r with
            | .ok a => a
            | .error f => { j.go with fault := some f }
          let s := x.st.modJob id fun k => { k with reads := [], out := x.out.filter (fun w => !a.keep.any (·.no == w.no)), accNo := x.acc, after := some a }
          match s.jobs.find? (·.id == id) with
          | some k => if k.out.isEmpty then s.pieceDone k a else s
          | none => s

/-- Some elements of a copy or gather (R335). A granule that later elements write too waits for them (R218). -/
def copyWork (n : Nat) (j : Job) : WalkM JM JobAfter := do
  let r := cpyRec j.recBytes
  let (fl, e) ← r.runs j (max 1 (ceilDiv n r.step)) j.pos j.flags
  let later := (List.range (ceilDiv (r.total - e) r.step)).flatMap fun k => r.granules (e + k * r.step)
  let keep := (← get).out.filter fun w => later.contains (w.base / 8)
  return { j.go with pos := e, flags := fl, count := r.total, worked := r.total ≤ e, keep := keep }

/-- COPY_JOB (R335, R336). -/
def State.copyJob (s : State) (id n : Nat) : State := s.jobWork id (· == .copy) (copyWork n)
/-- GATHER_JOB (R335). -/
def State.gatherJob (s : State) (id n : Nat) : State := s.jobWork id (· == .gather) (copyWork n)

/-- COMPRESS_JOB (R337). -/
def State.compressJob (s : State) (id : Nat) : State :=
  s.jobWork id (· == .compress) fun j => do
    match j.frec with
    | none => throw (eBadRec, j.recVa)
    | some f =>
      let (n, fl) ← (cpyRec j.recBytes).compress j f
      return { j.go with count := n, flags := fl, worked := true }

/-- DECOMPRESS_JOB (R337). -/
def State.decompressJob (s : State) (id : Nat) : State :=
  s.jobWork id (· == .decompress) fun j => do
    match j.frec with
    | none => throw (eBadRec, j.recVa)
    | some f =>
      let (n, fl) ← (cpyRec j.recBytes).decompress j f
      return { j.go with count := n, flags := fl, worked := true }

/-- The job's final status reaches the job table (R330, R332); its engine place is free. -/
def State.finishJob (s : State) (j : Job) (w : Word) : State :=
  (({ s with jobs := s.jobs.filter (·.id != j.id) }.dropBoards j.id).leaveWalks fun b => b == Waiter.job j.id).modCtx j.issuer fun x =>
    { x with jobs := x.jobs.map fun (e : JobEntry) => if e.tag == j.tag then { e with status := w } else e }

/-- A job's status word (R332). -/
def Job.status (j : Job) : Word :=
  match j.fault with
  | some (code, val) => statusFault code val
  | none => statusDone j.flags j.count
/-- The completion store failed (R332): a job that would have been done has faulted; the first fault of another stays. -/
def State.tellFailed (s : State) (j : Job) (cause : Nat) : State :=
  if j.fault.isSome then s.finishJob j j.status else (s.jobFault j.id cause j.compl).finishJob j (statusFault cause j.compl)

/-- Send the completion word, a store of the issuing context (R332). One that finds no undo record waits until its task settles (R156). -/
def State.tellJob (s : State) (j : Job) : State :=
  let c := j.issuer.core
  match s.resolve c (.data c) (some (.job j.id)) .write j.priv j.compl 8 with
  | (.miss, s) => s.startWalk c.clu c (fld (s.part j.part).atbl 48 16) j.compl (.job j.id)
  | (.wait, _) => s
  | (.fault f, s) => s.tellFailed j f
  | (.ok l, s') =>
    let tracked := match j.task with
      | none => some s'
      | some t => s'.track j.issuer t true l.pa 8
    match tracked with
    | none => match j.task with
      | some t => s'.logFull j.part t
      | none => s
    | some s =>
      let op := ReqOp.store (toBytes j.status.toNat 8)
      let no := j.accNo + 1
      (s.modJob j.id fun k =>
        { k with told := true, accNo := no, sent := [{ no := no, va := j.compl, op := op, counted := false, home := some l.home, cause := none }] }).send
        j.part 0 (.core c) l.home.agent 0
        (.req { src := j.issuer, acc := no, va := j.compl, pa := l.pa, home := l.home, op := op, task := j.task, posted := none, aseq := 0
                replicated := none, via := .done j.id })

/-- JOB_COMPLETION (R332): once every write the status reports is performed, the completion word is stored, and then the status changes. -/
def State.jobCompletion (s : State) (id : Nat) : State :=
  match s.jobs.find? (·.id == id) with
  | none => s
  | some j =>
    if !j.worked || !s.jobLive j || j.sent.any (·.cause.isNone) then s
    else if j.compl = 0 then s.finishJob j j.status
    else if !j.told then s.tellJob j
    else match j.sent with
      | [] => s.finishJob j j.status
      | w :: _ => s.tellFailed j (w.cause.getD 0)

def execJobStart (j : Nat) : State → Host.Outcome State Fault Refusal := runEvent (·.jobStart j)
def execCopyJob (j n : Nat) : State → Host.Outcome State Fault Refusal := runEvent (·.copyJob j n)
def execGatherJob (j n : Nat) : State → Host.Outcome State Fault Refusal := runEvent (·.gatherJob j n)
def execCompressJob (j : Nat) : State → Host.Outcome State Fault Refusal := runEvent (·.compressJob j)
def execDecompressJob (j : Nat) : State → Host.Outcome State Fault Refusal := runEvent (·.decompressJob j)
def execJobCompletion (j : Nat) : State → Host.Outcome State Fault Refusal := runEvent (·.jobCompletion j)

/-! ### CPYWAIT and CPYQ (R352) -/

/-- What a tag shows (R352). -/
def Ctx.jobStatus (x : Ctx) (tag : Nat) : Word :=
  if tag = 0 then
    match x.jobs.find? fun e => fld e.status 62 2 == 2 with
    | some e => e.status
    | none => ((x.jobs.getLast?).map (·.status)).getD (wd (2 ^ 62))
  else ((x.jobs.find? (·.tag == tag)).map (·.status)).getD (wd (3 * 2 ^ 62))

/-- Show a status, acquiring where it shows completion (R229, R352). -/
def showStatus (p : Plan) (w : Word) : M Unit := do
  if fld w 62 2 = 1 ∨ fld w 62 2 = 2 then acquire
  putDest p w

/-- CPYWAIT (R352). -/
def execCpywait (d a : Reg) : State → Host.Outcome State Fault Refusal :=
  runWord do
    let (vs, p) ← operands (.cpywait d a) [a] (some d)
    let t := (vs.getD 0 0).toNat
    let x ← cx
    let out (e : JobEntry) : Bool := fld e.status 62 2 == 0 && (t == 0 || e.tag == t)
    waitUnless !(x.jobs.any out)
    showStatus p (x.jobStatus t)

/-- CPYQ (R352). -/
def execCpyq (d a : Reg) : State → Host.Outcome State Fault Refusal :=
  runWord do
    let (vs, p) ← operands (.cpyq d a) [a] (some d)
    showStatus p ((← cx).jobStatus (vs.getD 0 0).toNat)

/-! ### PUBL (R353) -/

/-- The pages of a PUBL, translated in ascending order with kind none, and the names among them (R353). -/
def publNames (va : Nat) : List Nat → M (List Nat × List Nat)
  | [] => pure ([], [])
  | k :: r => do
    let e ← get
    let c := e.st.cur
    let a := (va + k * 524288) % 2 ^ 64
    match e.st.region c.core a with
    | .none_ | .mxq _ => raise cAccess (wd a)
    | .store d off => if e.cx.priv = .program && e.st.l2Base d ≤ off then raise cAccess (wd a) else publNames va r
    | .paged =>
      match e.st.translate (.data c.core) (some (.ctx c e.cx.icount)) .none_ e.cx.priv a with
      | (.miss, s) => throw (.walk c.core.clu (fld (s.part c.core.part).atbl 48 16) a)
      | (.wait, _) => stall
      | (.fault f, s) => throw (.faultIn s f (wd a))
      | (.ok t, s) =>
        set { e with st := s }
        let (pages, names) ← publNames va r
        return (a :: pages, (t.nameAt a).toList ++ names)

/-- PUBL (R343, R353). -/
def execPubl (d a b : Reg) : State → Host.Outcome State Fault Refusal :=
  runWord do
    let i := Instr.publ d a b
    let s0 ← st
    let x0 ← cx
    settleOp
    let (vs, p) ← operands i [a, b] (some d)
    let va := (vs.getD 0 0).toNat
    let v := vs.getD 1 0
    let n := fld v 0 13
    faultIf (n = 0 || 4096 < n || 5 < fld v 16 3 || v &&& ~~~(0x71FFF#64) != 0) cIllegal (wordOf i)
    faultIf (va % 524288 ≠ 0) cAlign (wd va)
    match x0.publ with
    | some (id, pc) =>
      if pc = x0.pc then
        waitUnless !((← st).publishes.any (·.id == id))
        modCx fun x => { x with publ := none }
        putDest p (wd x0.publCount)
        return
    | none => pure ()
    let (pages, names) ← publNames va (List.range n)
    drained
    waitUnless ((← st).nbrLanded (← me).core)
    let s ← st
    let (id, s) := s.startPublish s.cur.core.part none names pages s.cur.core ((Scope.ofCode (fld v 16 3)).getD .dom)
    throw (.done ((s.undoPops s0).putCtx s0.cur { x0 with publ := some (id, x0.pc) }))

/-! ### RMOVE (R349) -/

/-- A move record. -/
structure MoveRec where
  map : Nat
  list : Nat
  count : Nat
  rowb : Nat
  scope : Nat

def moveRec (b : List Byte) : MoveRec :=
  { map := dword b 0, list := dword b 1, count := dword b 2, rowb := dword b 3, scope := dword b 4 }

/-- The record breaks its table. -/
def MoveRec.bad (r : MoveRec) (b : List Byte) : Bool :=
  r.count == 0 || 4096 < r.count || r.rowb % 8 != 0 || 65536 < r.rowb || 5 < r.scope || (b.drop 40).any (· != 0)

/-- The acceptance of a move record. -/
def judgeMove (j : Job) : WalkM M Job := do
  if (moveRec j.recBytes).bad j.recBytes then throw (eBadRec, j.recVa)
  return j

/-- RMOVE (R349, R351). -/
def execRmove (d a : Reg) : State → Host.Outcome State Fault Refusal :=
  runWord do
    needPriv .supervisor (.rmove d a)
    acceptJob (.rmove d a) d a 64 (fun _ => false) (fun _ => .rmove) (fun _ => 0) judgeMove

/-- The pieces of a move: the copies; the pages of the map and their shadows; the new addresses into the shadows; the publish. -/
def moveWork (j : Job) : WalkM JM JobAfter := do
  let r := moveRec j.recBytes
  match j.pos with
  | 0 =>
    let es ← (List.range r.count).mapM fun k => do
      let w ← jobReadN j ((r.list + 16 * k) % 2 ^ 64) 8
      let new_ ← jobReadN j ((r.list + 16 * k + 8) % 2 ^ 64) 8
      if 2 ^ 32 ≤ w then throw (eBadRec, j.recVa)
      let old ← jobReadN j ((r.map + 8 * w) % 2 ^ 64) 8
      let b ← jobReadSpan j (r.rowb + 1) old r.rowb
      jobWrite false new_ b
      pure ((r.map + 8 * w) % 2 ^ 64, new_)
    return { j.go with pos := 1, note := es }
  | 1 =>
    let lo := j.note.foldl (fun m e => min m e.1) (2 ^ 64)
    let hi := j.note.foldl (fun m e => max m (e.1 + 7)) 0
    let first (page : Nat) : Nat := ((j.note.map (·.1)).filter fun a => a / 524288 == page / 524288).foldl min (page + 524287)
    let pages ← coverPages (workTr j) j first lo hi
    let s ← jobSt
    if (s.part j.part).foreign j.task pages || s.swapping j.part j.task (pages.map (·.2)) then jobWait
    match (s.part j.part).takeFrames j.task pages with
    | .error n => throw (eNoShadow, n)
    | .ok q =>
      jobSet ((s.setPart j.part q).modJob j.id fun y => { y with pages := pages, touched := q.touched j.task pages })
      return { j.go with pos := 2 }
  | 2 =>
    for e in j.note do jobWrite false e.1 (toBytes e.2 8)
    return { j.go with pos := 3 }
  | _ =>
    let (id, s) := (← jobSt).startPublish j.part j.task (j.pages.map (·.2)) (j.pages.map (·.1)) j.issuer.core ((Scope.ofCode r.scope).getD .dom)
    jobSet (s.modJob j.id fun y => { y with publish := some id })
    return { j.go with pos := 4, count := r.count }

/-- RMOVE_JOB (R349). -/
def State.rmoveJob (s : State) (id : Nat) : State := s.jobWork id (· == .rmove) moveWork

def execRmoveJob (j : Nat) : State → Host.Outcome State Fault Refusal := runEvent (·.rmoveJob j)

end Sys2Proof.Machine
end

