-- ==== Sys2Proof/Machine/ScalarFp.lean ====
section
/-! DEFINITION. Scalar floating point (04_scalar_issue.md R107-R115; 03_numbers.md R59-R74). -/
namespace Sys2Proof.Machine

/-- The operand of a precision in a register (R107). -/
def fpArg (p : Prec) (v : Word) : FV := p.ffmt.dec (lowBits v p.ffmt.width)

/-- The latency of FDIV and FSQRT (R92). -/
def fpDivLatency : Prec → Nat | .s => 14 | .d => 24 | _ => 10

/-- A rounding operation (R108): the exact result rounded once; flags to FFLAGS, SRCTR advanced under SR. `unit` takes the divide unit
(R93). -/
def fpOp (i : Instr) (unit : Bool) (d : Reg) (srcs : List Reg) (p : Prec) (r : Rnd) (f : Bool → List FV → Exact × Flags) : M Unit := do
  if unit then dividerFree
  let (vs, pl) ← operands i srcs (some d)
  let x ← cx
  let m := x.mode r
  let (c, fl) := p.ffmt.deliver m (f (m.code == 3) (vs.map (fpArg p)))
  modCx fun x => (x.orFlags fl).advance m.code 1
  if unit then takeDivider (fpDivLatency p)
  putSlow pl (if unit then (fpDivLatency p) else 4) (wd c)

def fv (l : List FV) (n : Nat) : FV := l.getD n (.nan false)

def execFadd (d a b : Reg) (p : Prec) (r : Rnd) : State → Host.Outcome State Fault Refusal :=
  runWord (fpOp (.fadd d a b p r) false d [a, b] p r fun rdn l => exAdd rdn (fv l 0) (fv l 1))
def execFsub (d a b : Reg) (p : Prec) (r : Rnd) : State → Host.Outcome State Fault Refusal :=
  runWord (fpOp (.fsub d a b p r) false d [a, b] p r fun rdn l => exAdd rdn (fv l 0) (fv l 1).neg)
def execFmul (d a b : Reg) (p : Prec) (r : Rnd) : State → Host.Outcome State Fault Refusal :=
  runWord (fpOp (.fmul d a b p r) false d [a, b] p r fun _ l => exMul (fv l 0) (fv l 1))
def execFdiv (d a b : Reg) (p : Prec) (r : Rnd) : State → Host.Outcome State Fault Refusal :=
  runWord (fpOp (.fdiv d a b p r) true d [a, b] p r fun _ l => exDiv (fv l 0) (fv l 1))
def execFsqrt (d a : Reg) (p : Prec) (r : Rnd) : State → Host.Outcome State Fault Refusal :=
  runWord (fpOp (.fsqrt d a p r) true d [a] p r fun _ l => exSqrt (fv l 0))
def execFmad (d a b c : Reg) (p : Prec) (r : Rnd) : State → Host.Outcome State Fault Refusal :=
  runWord (fpOp (.fmad d a b c p r) false d [a, b, c] p r fun rdn l => exFma rdn (fv l 0) (fv l 1) (fv l 2))

/-- FMIN and FMAX (R109, R63). -/
def fpMinMax (i : Instr) (isMax : Bool) (d a b : Reg) (p : Prec) : M Unit := do
  let (vs, pl) ← operands i [a, b] (some d)
  let (c, fl) := p.ffmt.minMax isMax (lowBits (vs.getD 0 0) p.ffmt.width) (lowBits (vs.getD 1 0) p.ffmt.width)
  modCx fun x => x.orFlags fl
  putSlow pl 4 (wd c)

def execFmin (d a b : Reg) (p : Prec) : State → Host.Outcome State Fault Refusal := runWord (fpMinMax (.fmin d a b p) false d a b p)
def execFmax (d a b : Reg) (p : Prec) : State → Host.Outcome State Fault Refusal := runWord (fpMinMax (.fmax d a b p) true d a b p)

/-- Comparisons and their flags (R63, R110): ordered comparisons are invalid for any NaN, equality for a signalling one. -/
def fpCompare (k : CmpKind) (a b : FV) : Bool × Flags :=
  let nan := a.isNan || b.isNan
  let sig := a.sigFlag ||| b.sigFlag
  match k with
  | .eq => (a.eqv b, sig)
  | .ne => (!a.eqv b, sig)
  | .lt => (!nan && a.lt b, if nan then fNV else 0)
  | .le => (!nan && (a.lt b || a.eqv b), if nan then fNV else 0)

def fpCmp (i : Instr) (k : CmpKind) (d a b : Reg) (p : Prec) : M Unit := do
  let (vs, pl) ← operands i [a, b] (some d)
  let (v, fl) := fpCompare k (fpArg p (vs.getD 0 0)) (fpArg p (vs.getD 1 0))
  modCx fun x => x.orFlags fl
  putSlow pl 4 (bool01 v)

def execFeq (d a b : Reg) (p : Prec) : State → Host.Outcome State Fault Refusal := runWord (fpCmp (.feq d a b p) .eq d a b p)
def execFlt (d a b : Reg) (p : Prec) : State → Host.Outcome State Fault Refusal := runWord (fpCmp (.flt d a b p) .lt d a b p)
def execFle (d a b : Reg) (p : Prec) : State → Host.Outcome State Fault Refusal := runWord (fpCmp (.fle d a b p) .le d a b p)

/-- The class bit of R111. -/
def fpClass (f : FFmt) (w : Nat) : Nat :=
  match f.dec w with
  | .inf s => if s then 0 else 7
  | .nan sig => if sig then 8 else 9
  | .fin s m _ =>
    if m = 0 then (if s then 3 else 4)
    else if m < 2 ^ f.mbits then (if s then 2 else 5)
    else (if s then 1 else 6)

def execFcls (d a : Reg) (p : Prec) : State → Host.Outcome State Fault Refusal :=
  runWord (alu1 (.fcls d a p) d a fun x => wd (2 ^ fpClass p.ffmt (lowBits x p.ffmt.width)))

/-- FSGN (R112): the magnitude bits of x under the sign of a kind. -/
def fpSign (f : FFmt) (k : SgnKind) (x y : Nat) : Nat :=
  let s := 2 ^ (f.width - 1)
  let sy := y / s % 2
  let sx := x / s % 2
  x % s + s * (match k with | .copy => sy | .neg => 1 - sy | .xor => (sx + sy) % 2)

def execFsgn (d a b : Reg) (p : Prec) (k : SgnKind) : State → Host.Outcome State Fault Refusal :=
  runWord (alu2 (.fsgn d a b p k) d a b fun x y => wd (fpSign p.ffmt k (lowBits x p.ffmt.width) (lowBits y p.ffmt.width)))

/-- The value of an FCVT source (R113). -/
def cvtArg (t : FType) (v : Word) : FV :=
  match t with
  | .h => fpArg .h v | .b => fpArg .b v | .s => fpArg .s v | .d => fpArg .d v
  | .ls => FV.ofInt v.toInt
  | .lz => FV.ofInt v.toNat

/-- The encoding of an FCVT result (R72-R74, R113). -/
def cvtRes (t : FType) (m : RMode) (v : FV) : Word × Flags :=
  let toF (f : FFmt) : Word × Flags := let (c, fl) := f.conv m v; (wd c, fl)
  let toI (sg : Bool) : Word × Flags := let (z, fl) := convInt 64 sg m v; (BitVec.ofInt 64 z, fl)
  match t with
  | .h => toF fp16 | .b => toF bf16 | .s => toF fp32 | .d => toF fp64
  | .ls => toI true
  | .lz => toI false

def execFcvt (d a : Reg) (dst src : FType) (r : Rnd) : State → Host.Outcome State Fault Refusal := runWord do
  let (vs, pl) ← operands (.fcvt d a dst src r) [a] (some d)
  let x ← cx
  let m := x.mode r
  let (v, fl) := cvtRes dst m (cvtArg src (vs.getD 0 0))
  modCx fun x => (x.orFlags fl).advance m.code 1
  putSlow pl 4 v

end Sys2Proof.Machine
end

