-- ==== Sys2Proof/Machine/Vector.lean ====
section
/-! DEFINITION. The vector register pool and the register-to-register vector instructions (10_vector_pool.md R248-R264;
03_numbers.md R75, R78). -/
namespace Sys2Proof.Machine

/-- Every register an instruction names is granted (R248), and none awaits a load (R255). -/
def useVecs (i : Instr) (rs : List Nat) : M Unit := do
  let x ← cx
  faultIf (rs.any fun r => x.grant ≤ r) cGrant (wordOf i)
  let now := (← st).clock
  waitUnless !((x.out.any fun a => match a.dest with | .vec r _ => rs.contains r | _ => false) ||
    x.vlat.any fun e => rs.contains e.1 && decide (now < e.2))

/-- The results in vector registers may be used `n` cc from now (R255). -/
def vecLate (rs : List Nat) (n : Nat) : M Unit := do
  let s ← st
  modCx fun x => { x with
    vlat := rs.map (fun r => (r, s.ccAfter s.cur.core n)) ++ x.vlat.filter fun e => !rs.contains e.1 && decide (s.clock < e.2) }

/-- Elements of a register (R252). -/
def lanesOf (t : VType) (v : VWord) : List Nat := unpack v.toNat t.width t.lanes
/-- A register from its elements. -/
def ofLanes (w : Nat) (l : List Nat) : VWord := BitVec.ofNat 512 (packAll w l)

/-! ### The pool (R249, R258) -/

/-- Registers held by the contexts of a core, the issuing one as it stands. -/
def State.vheld (s : State) (c : CtxId) (x : Ctx) : Nat :=
  x.grant + ((slotsOf c.core).filter (· != c)).foldl (fun n k => n + ((s.ctx? k).map (·.grant)).getD 0) 0
/-- VPCFG.FREE (R249). -/
def State.vfree (s : State) (c : CtxId) (x : Ctx) : Nat := 16 - s.vheld c x / 8
/-- VPCFG.HELD0 (R249). -/
def State.vheld0 (s : State) (c : CtxId) (x : Ctx) : Nat :=
  (if c.slot = 0 then x.grant else ((s.ctx? { c with slot := 0 }).map (·.grant)).getD 0) / 8

/-- Registers cleared from one number on, below another (R253). -/
def Ctx.clearVecs (x : Ctx) (lo hi : Nat) : Ctx :=
  { x with vregs := Vector.ofFn fun i : Fin 64 => if lo ≤ i.val ∧ i.val < hi then 0 else x.vregs.get i
           vtags := Vector.ofFn fun i : Fin 64 => if lo ≤ i.val ∧ i.val < hi then VTag.clear else x.vtags.get i }

/-- The count of VGRANT and VRETN (R258). -/
def vecCount (i : Instr) (n : Word) : M Nat := do
  faultIf (n.toNat % 8 ≠ 0 || decide (64 < n.toNat)) cIllegal (wordOf i)
  return n.toNat

def execVgrant (d a : Reg) : State → Host.Outcome State Fault Refusal :=
  runWord do
    let i : Instr := .vgrant d a
    let (vs, p) ← operands i [a] (some d)
    let n ← vecCount i (vs.getD 0 0)
    let e ← get
    let c := e.st.cur
    let g := e.cx.grant
    if g < n then
      let keep := if c.slot = 0 then 0 else (e.st.core c.core).vpResv - e.st.vheld0 c e.cx
      if (n - g) / 8 ≤ e.st.vfree c e.cx - keep then modCx fun x => { x.clearVecs g n with grant := n }
    putDest p (wd (← cx).grant)

def execVretn (d a : Reg) : State → Host.Outcome State Fault Refusal :=
  runWord do
    let i : Instr := .vretn d a
    let (vs, p) ← operands i [a] (some d)
    let n ← vecCount i (vs.getD 0 0)
    let x ← cx
    if n < x.grant then
      let now := (← st).clock
      waitUnless !((x.out.any fun a => match a.dest with | .vec r _ => decide (n ≤ r) | _ => false) ||
        x.vlat.any fun e => decide (n ≤ e.1) && decide (now < e.2))
      modCx fun x => { x.clearVecs n x.grant with grant := n }
    putDest p (wd (← cx).grant)

/-! ### Moves and selection (R261) -/

def execVind (vd vb : VReg) (a : Reg) : State → Host.Outcome State Fault Refusal :=
  runWord do
    let i : Instr := .vind vd vb a
    let (vs, _) ← operands i [a] none
    let r := vb.val + (vs.getD 0 0).toNat
    useVecs i [vd.val, r]
    modCx fun x => x.setVec vd.val (x.vec r) (x.vtags.get (Fin.ofNat 64 r))

/-- The type is an integer type (R46). -/
def vInt (t : VType) : Bool := match t with | .i32 | .i16 | .i8 => true | _ => false

def execVmvs (d : Reg) (va : VReg) (b : Reg) (t : VType) : State → Host.Outcome State Fault Refusal :=
  runWord do
    let i : Instr := .vmvs d va b t
    let (vs, p) ← operands i [b] (some d)
    useVecs i [va.val]
    let e := (lanesOf t ((← cx).vec va.val)).getD ((vs.getD 0 0).toNat % t.lanes) 0
    putDest p (if vInt t then sextW e t.width else wd e)

def execVmsv (vd : VReg) (a b : Reg) (t : VType) : State → Host.Outcome State Fault Refusal :=
  runWord do
    let i : Instr := .vmsv vd a b t
    let (vs, _) ← operands i [a, b] none
    useVecs i [vd.val]
    modCx fun x =>
      let l := (lanesOf t (x.vec vd.val)).set ((vs.getD 1 0).toNat % t.lanes) (lowBits (vs.getD 0 0) t.width)
      x.setVec vd.val (ofLanes t.width l) VTag.clear

def execVbcast (vd : VReg) (a : Reg) (t : VType) : State → Host.Outcome State Fault Refusal :=
  runWord do
    let i : Instr := .vbcast vd a t
    let (vs, _) ← operands i [a] none
    useVecs i [vd.val]
    modCx fun x => x.setVec vd.val (ofLanes t.width (List.replicate t.lanes (lowBits (vs.getD 0 0) t.width))) VTag.clear

def execVperm (vd va vb : VReg) (t : VType) : State → Host.Outcome State Fault Refusal :=
  runWord do
    useVecs (.vperm vd va vb t) [vd.val, va.val, vb.val]
    modCx fun x =>
      let l := lanesOf t (x.vec va.val)
      x.setVec vd.val (ofLanes t.width ((lanesOf t (x.vec vb.val)).map fun j => l.getD (j % t.lanes) 0)) VTag.clear
    vecLate [vd.val] 2

def execVsel (vd va vb : VReg) (t : VType) : State → Host.Outcome State Fault Refusal :=
  runWord do
    useVecs (.vsel vd va vb t) [vd.val, va.val, vb.val]
    modCx fun x =>
      let m := lanesOf t (x.vec vd.val)
      let ab := (lanesOf t (x.vec va.val)).zip (lanesOf t (x.vec vb.val))
      x.setVec vd.val (ofLanes t.width ((m.zip ab).map fun (k, p) => if k ≠ 0 then p.1 else p.2)) VTag.clear

/-! ### Arithmetic (R262, R263) -/

/-- An integer result in an element: wrapped, WR when it does not fit (R57, R262). -/
def intElem (w : Nat) (v : Int) : Nat × Flags :=
  (wrapN v w, if v < -(2 ^ (w - 1) : Int) ∨ (2 ^ (w - 1) : Int) ≤ v then fWR else 0)

/-- Write the elements and flags a vector instruction computed, with its rounding mode (R253) and latency (R255). -/
def writeLanes (vd : VReg) (w : Nat) (es : List (Nat × Flags)) (rnd lat : Nat) : M Unit := do
  modCx fun x => x.setVec vd.val (ofLanes w (es.map (·.1))) (tagOf (es.map (·.2)) rnd)
  vecLate [vd.val] lat

/-- An operation element by element on V[a], V[b] and the old V[d]: rounded under FRM for floating types (R75), exact and
wrapped for integers. DESIGN CHOICE (log 153): RND holds the mode where the operation rounds, though every result was exact (R253). -/
def vecArith (i : Instr) (vd va vb : VReg) (t : VType) (fl : Bool → FV → FV → FV → Exact × Flags) (int : Int → Int → Int → Int) :
    M Unit := do
  useVecs i [vd.val, va.val, vb.val]
  let x ← cx
  let a := lanesOf t (x.vec va.val)
  let b := lanesOf t (x.vec vb.val)
  let d := lanesOf t (x.vec vd.val)
  let at_ (l : List Nat) (k : Nat) : Nat := l.getD k 0
  match t.fmt.elem with
  | .flt f =>
    let code := x.frm.toNat
    writeLanes vd t.width ((List.range t.lanes).map fun k =>
      f.deliver (x.modeAt code k) (fl (code == 3) (f.dec (at_ a k)) (f.dec (at_ b k)) (f.dec (at_ d k)))) code 4
    modCx fun x => x.advance code t.lanes
  | .int w =>
    writeLanes vd w ((List.range t.lanes).map fun k =>
      intElem w (int (sext (at_ a k) w) (sext (at_ b k) w) (sext (at_ d k) w))) 0 4

def execVadd (vd va vb : VReg) (t : VType) : State → Host.Outcome State Fault Refusal :=
  runWord (vecArith (.vadd vd va vb t) vd va vb t (fun r a b _ => exAdd r a b) fun a b _ => a + b)
def execVsub (vd va vb : VReg) (t : VType) : State → Host.Outcome State Fault Refusal :=
  runWord (vecArith (.vsub vd va vb t) vd va vb t (fun r a b _ => exAdd r a b.neg) fun a b _ => a - b)
def execVmul (vd va vb : VReg) (t : VType) : State → Host.Outcome State Fault Refusal :=
  runWord (vecArith (.vmul vd va vb t) vd va vb t (fun _ a b _ => exMul a b) fun a b _ => a * b)
def execVfma (vd va vb : VReg) (t : VType) : State → Host.Outcome State Fault Refusal :=
  runWord (vecArith (.vfma vd va vb t) vd va vb t exFma fun a b d => a * b + d)

/-- The lesser or greater of two elements (R63). -/
def elemMinMax (e : Elem) (isMax : Bool) (x y : Nat) : Nat × Flags :=
  match e with
  | .flt f => f.minMax isMax x y
  | .int w => (if (sext x w < sext y w) != isMax then x else y, 0)

def vecMinMax (i : Instr) (isMax : Bool) (vd va vb : VReg) (t : VType) : M Unit := do
  useVecs i [vd.val, va.val, vb.val]
  let x ← cx
  writeLanes vd t.width (((lanesOf t (x.vec va.val)).zip (lanesOf t (x.vec vb.val))).map fun p => elemMinMax t.fmt.elem isMax p.1 p.2) 0 4

def execVmax (vd va vb : VReg) (t : VType) : State → Host.Outcome State Fault Refusal :=
  runWord (vecMinMax (.vmax vd va vb t) true vd va vb t)
def execVmin (vd va vb : VReg) (t : VType) : State → Host.Outcome State Fault Refusal :=
  runWord (vecMinMax (.vmin vd va vb t) false vd va vb t)

/-- A function of one floating element, rounded once (R262). -/
def vecUnary (i : Instr) (vd va : VReg) (t : VType) (fl : FV → Exact × Flags) : M Unit := do
  useVecs i [vd.val, va.val]
  let x ← cx
  let code := x.frm.toNat
  match t.fmt.elem with
  | .flt f =>
    writeLanes vd t.width ((List.range t.lanes).map fun k =>
      f.deliver (x.modeAt code k) (fl (f.dec ((lanesOf t (x.vec va.val)).getD k 0)))) code 12
    modCx fun x => x.advance code t.lanes
  | .int _ => raise cIllegal (wordOf i)

def execVexp (vd va : VReg) (t : VType) : State → Host.Outcome State Fault Refusal :=
  runWord (vecUnary (.vexp vd va t) vd va t exExp)
def execVrcp (vd va : VReg) (t : VType) : State → Host.Outcome State Fault Refusal :=
  runWord (vecUnary (.vrcp vd va t) vd va t exRecip)
def execVrsq (vd va : VReg) (t : VType) : State → Host.Outcome State Fault Refusal :=
  runWord (vecUnary (.vrsq vd va t) vd va t exRsqrt)

/-- One combination of VRED (R78). -/
def redStep (k : RedKind) (e : Elem) (x y : Nat) : Nat × Flags :=
  match k with
  | .add => (match e with
    | .flt f => f.deliver rneMode (exAdd false (f.dec x) (f.dec y))
    | .int w => intElem w (sext x w + sext y w))
  | .min => elemMinMax e false x y
  | .max => elemMinMax e true x y

/-- The tree of R78: halves combined until one element is left, the flags gathered. -/
def redTree (k : RedKind) (e : Elem) : Nat → List Nat → Flags → Nat × Flags
  | 0, l, fl => (l.headD 0, fl)
  | n + 1, l, fl =>
    let h := l.length / 2
    if h = 0 then (l.headD 0, fl)
    else
      let r := ((l.take h).zip (l.drop h)).map fun p => redStep k e p.1 p.2
      redTree k e n (r.map (·.1)) (fl ||| orFlags (r.map (·.2)))

def execVred (vd va : VReg) (k : RedKind) (t : VType) : State → Host.Outcome State Fault Refusal :=
  runWord do
    useVecs (.vred vd va k t) [vd.val, va.val]
    let (v, fl) := redTree k t.fmt.elem 7 (lanesOf t ((← cx).vec va.val)) 0
    writeLanes vd t.width [(v, fl)] 0 8

def execVcmp (vd va vb : VReg) (k : CmpKind) (t : VType) : State → Host.Outcome State Fault Refusal :=
  runWord do
    useVecs (.vcmp vd va vb k t) [vd.val, va.val, vb.val]
    let x ← cx
    let one (a b : Nat) : Nat × Flags :=
      let (r, fl) : Bool × Flags := match t.fmt.elem with
        | .flt f => fpCompare k (f.dec a) (f.dec b)
        | .int w =>
          let (p, q) := (sext a w, sext b w)
          (match k with | .eq => p == q | .ne => p != q | .lt => decide (p < q) | .le => decide (p ≤ q), 0)
      (if r then 2 ^ t.width - 1 else 0, fl)
    writeLanes vd t.width (((lanesOf t (x.vec va.val)).zip (lanesOf t (x.vec vb.val))).map fun p => one p.1 p.2) 0 2

/-! ### Conversion (R264) -/

/-- Registers a side of a conversion takes: the block side and the 32-bit side of a block-scaled conversion take two. -/
def vcvtSpan (blocked : Bool) (f : Fmt) : Nat := if blocked && (f.block ≠ 0 || f.width == 32) then 2 else 1

/-- Two registers as one number. -/
def pairNat (x : Ctx) (r : Nat) : Nat := (x.vec r).toNat + 2 ^ 512 * (x.vec (r + 1)).toNat

/-- The exact values of the source elements (R65, R264). -/
def vcvtSource (x : Ctx) (f : Fmt) (r n : Nat) : List FV :=
  if f.block = 0 then
    let v := if n * f.width ≤ 512 then (x.vec r).toNat else pairNat x r
    (unpack v f.width n).map f.elem.dec
  else
    (List.range n).map fun i =>
      decElem f (packGet (x.vec (r + 1)).toNat 8 (i / f.block)) (packGet (x.vec r).toNat f.width i)

/-- VCVT (R264). DESIGN CHOICE (log 153): where a side is floating, RND holds the mode though every result was exact (R253). -/
def execVcvt (vd va : VReg) (dst src : Fmt) (r : Rnd) : State → Host.Outcome State Fault Refusal :=
  runWord do
    let bl := dst.block ≠ 0 || src.block ≠ 0
    let n := if bl then 32 else 512 / max src.width dst.width
    let regs (v : VReg) (f : Fmt) : List Nat := (List.range (vcvtSpan bl f)).map fun k => v.val + k
    useVecs (.vcvt vd va dst src r) (regs va src ++ regs vd dst)
    let x ← cx
    let code := rndCode r x.frm
    let out := encArray dst ((List.range n).map fun k => x.modeAt code k) (vcvtSource x src va.val n)
    -- between integers nothing is rounded (R72)
    let whole := match dst.elem, src.elem with | .int _, .int _ => true | _, _ => false
    let tag := tagOf out.flags (if whole then 0 else code)
    let body := packAll dst.width out.codes
    modCx fun x =>
      let x := x.setVec vd.val (BitVec.ofNat 512 body) tag
      if vcvtSpan bl dst = 2 then
        x.setVec (vd.val + 1) (if dst.block = 0 then BitVec.ofNat 512 (body / 2 ^ 512) else ofLanes 8 out.scales) tag
      else x
    modCx fun x => x.advance code n
    vecLate (regs vd dst) 4

end Sys2Proof.Machine
end

