-- ==== Sys2Proof/Machine/Matrix.lean ====
section
/-! DEFINITION. The matrix unit: pushing, executing and refusing commands, and the instructions that observe it
(13_matrix_unit.md R306-R325; 03_numbers.md R76, R77; 08_consistency.md R227-R230). -/
namespace Sys2Proof.Machine

/-! ### Registers -/

/-- MXS (R309). -/
def Ctx.mxs (x : Ctx) : Word :=
  wd (x.mxPushed * 2 ^ 32 + (if x.mxRefCnt = 0 then 0 else x.mxRefSeq) * 2 ^ 16 + x.mxRefCnt * 2 ^ 12 + x.mxReason * 2 ^ 8 + x.mxOut)
/-- MXRINGn (R308). -/
def MRing.word (r : MRing) : Word :=
  wd (b2n r.defd * 2 ^ 63 + r.fill * 2 ^ 47 + r.head * 2 ^ 39 + r.count * 2 ^ 30 + r.slot * 2 ^ 23 + r.base / 64 * 64)

/-! ### Commands (R315) -/

/-- The kinds of command. -/
inductive MxKind where | mma | accz | accld | accst | define | append | qfence
  deriving DecidableEq, Repr

def MxCmd.dw (q : MxCmd) (i : Nat) : Word := wd (dword q.bytes i)
/-- A field of doubleword 0. -/
def MxCmd.f0 (q : MxCmd) (lo n : Nat) : Nat := fld (q.dw 0) lo n
def MxCmd.tile (q : MxCmd) : Fin 4 := Fin.ofNat 4 (q.f0 8 2)
def MxCmd.ra (q : MxCmd) : Fin 4 := Fin.ofNat 4 (q.f0 12 2)
def MxCmd.rb (q : MxCmd) : Fin 4 := Fin.ofNat 4 (q.f0 16 2)

/-- The kind of a command: none for KIND 0 and 7 to 15. -/
def MxCmd.kind (q : MxCmd) : Option MxKind :=
  match q.f0 0 4 with
  | 1 => some .mma | 2 => some .accz | 3 => some .accld | 4 => some .accst
  | 5 => some (if q.f0 16 1 = 0 then .define else .append) | 6 => some .qfence | _ => none

/-- Bits of doublewords 0, 1 and 2 that a kind's layout assigns. -/
def MxKind.masks : MxKind → List Word
  | .mma => [0x3F1F1F73330F, 0, 0]
  | .accz => [0x30F, 0, 0]
  | .accld => [0x1F00030F, 0xFFFFF, 0]
  | .accst => [0x171F00030F, 0xFFFFF, 0xFFFFFFFF]
  | .define => [0x1300F, 0xFFFFF, 0x1FF0000FFFF]
  | .append => [0x1300F, 0x1FF, 0]
  | .qfence => [0xF, 0xFFFFF, BitVec.allOnes 64]

/-- Every assigned field is in its stated range and every other bit is zero (BADFIELD). -/
def MxCmd.fieldsOk (q : MxCmd) (k : MxKind) : Bool :=
  ((List.range 8).all fun i => q.dw i &&& ~~~((k.masks)[i]?.getD 0) == 0) &&
  (match k with
    | .define =>
      let sz := fld (q.dw 2) 0 16
      let n := fld (q.dw 2) 32 9
      sz % 64 == 0 && decide (64 ≤ sz) && decide (sz ≤ 4096) && decide (1 ≤ n) && decide (n ≤ 256)
    | .append => let n := fld (q.dw 1) 0 9; decide (1 ≤ n) && decide (n ≤ 256)
    | _ => true)

/-- A slot owns a tile or ring under MXOWN (R307): `i` counts tiles 0-3, then rings 0-3. -/
def Core.owns (k : Core) (slot i : Nat) : Bool := (k.mxown.toNat / 16 ^ i) % 16 == slot

/-- The pushing slot owns all the command names (R310). -/
def Core.ownsCmd (k : Core) (slot : Nat) (q : MxCmd) : Bool :=
  match q.kind with
  | some .mma => k.owns slot q.tile.val && k.owns slot (4 + q.ra.val) && k.owns slot (4 + q.rb.val)
  | some .accz | some .accld | some .accst => k.owns slot q.tile.val
  | some .define | some .append => k.owns slot (4 + q.ra.val)
  | _ => true

/-- TileBytes (R319). -/
def tileBytes (f : Fmt) : Nat := 32 * f.width + (if f.block = 0 then 0 else 256 / f.block)

/-- Push a command (R310): by a 64-byte VST to the queue. -/
def mxPush (bytes : List Byte) : M Unit := do
  settleOp
  drained
  let s ← st
  let x ← cx
  let c := s.cur
  let k := s.core c.core
  waitUnless (decide (k.mxq.length < 16) && s.nbrLanded c.core)
  let q : MxCmd := { slot := c.slot, bytes := bytes, owned := false, frm := x.frm.toNat, srkey := x.srkey
                     pushed := (x.mxPushed + 1) % 2 ^ 16, stores := [] }
  let q := { q with owned := k.ownsCmd c.slot q }
  -- an ACCST whose own fields refuse it writes nothing (R312)
  let early := match q.kind, fmtOfNat (q.f0 24 5) with
    | some .accst, some f =>
      let a := fld (q.dw 1) 0 20
      if q.fieldsOk .accst && q.owned && q.f0 32 3 != 5 && q.f0 32 3 != 6 && a % 64 == 0 then [(x.owner, a, a + tileBytes f + 8, false)] else []
    | _, _ => []
  modSt fun s => s.modCore c.core fun k => { k with mxq := k.mxq ++ [q], early := k.early ++ early }
  modCx fun x => { x with mxPushed := q.pushed, mxOut := x.mxOut + 1 }

/-! ### Execution (R311, R312) -/

/-- What a command does: it waits, is refused with a code, or takes effect, each with the state it leaves. -/
inductive MxRes where | wait (s : State) | refuse (s : State) (code : Nat) | ok (s : State)

/-- The first range of an owner from an address whose ACCST has not been executed: it has been now, or was refused (R230). -/
def earlyDone (refused : Bool) (owner a : Nat) : List (Nat × Nat × Nat × Bool) → List (Nat × Nat × Nat × Bool)
  | [] => []
  | e :: r =>
    if e.1 == owner && !e.2.2.2 && e.2.1 == a then (if refused then r else (e.1, e.2.1, e.2.2.1, true) :: r)
    else e :: earlyDone refused owner a r

/-- Take the head of the queue away (R311, R312). -/
def State.mxPop (s : State) (c : CoreId) (q : MxCmd) (refused : Option Nat) : State :=
  let owner := ((s.ctx? { core := c, slot := q.slot }).map Ctx.owner).getD 0
  let s := s.modCore c fun k =>
    { k with mxq := k.mxq.drop 1
             early := if q.kind = some .accst then earlyDone refused.isSome owner (fld (q.dw 1) 0 20) k.early else k.early }
  s.modCtx { core := c, slot := q.slot } fun x =>
    let x := { x with mxOut := x.mxOut - 1 }
    match refused with
    | none => x
    | some r =>
      let x := if x.mxRefCnt = 0 then { x with mxRefSeq := q.pushed, mxReason := r } else x
      { x with mxRefCnt := min 15 (x.mxRefCnt + 1) }

/-- Whom the MXU acts for (R311). -/
def State.mxActor (s : State) (c : CoreId) (q : MxCmd) : Actor :=
  { core := c, task := (s.ctx? { core := c, slot := q.slot }).bind (·.task) }

/-- The ranges (offset, bytes) a command touches must wait (R159, R195, R311). -/
def State.mxWaits (s : State) (c : CoreId) (q : MxCmd) (write : Bool) (ranges : List (Nat × Nat)) : Bool :=
  ranges.any fun r => s.heldUp (s.mxActor c q) (.core c) write (s.storePa c r.1) r.2
/-- A command that waits stops the tasks it will abort (R159). -/
def State.mxStops (s : State) (c : CoreId) (q : MxCmd) (write : Bool) (ranges : List (Nat × Nat)) : State :=
  ranges.foldl (fun s r => s.stopFor (s.mxActor c q) (.core c) write (s.storePa c r.1) r.2) s

/-- A command that would read an uncorrectable granule reads nothing, and the event is counted (R196, R312). -/
def State.mxBad (s : State) (c : CoreId) (ranges : List (Nat × Nat)) : Option State :=
  (ranges.find? fun r => s.poisoned (s.storePa c r.1) r.2).map fun r => s.meetBad (s.storePa c r.1) r.2
/-- Read a range of the core store for a command (R311). -/
def State.mxRead (s : State) (c : CoreId) (q : MxCmd) (off n : Nat) : State × List Byte :=
  let pa := s.storePa c off
  (s.conflict c.part (s.mxActor c q).task false pa n, Memory.readN s.mem pa n)

/-- Bytes whose granules a store raced with a result hold either value (R230). -/
def State.mixRaced (s : State) (c : CoreId) (q : MxCmd) (off : Nat) (b : List Byte) : State × List Byte :=
  let hit (i : Nat) : Bool := let g := (off + i) / 8 * 8; q.stores.any fun r => g < r.2 && r.1 < g + 8
  if (List.range b.length).any hit then
    let pa := s.storePa c off
    let old := Memory.readN s.mem pa b.length
    keepGranules s (fun a => hit (a - pa)) pa old b
  else (s, b)

/-- Write a range of the core store for a command (R311). -/
def State.mxWrite (s : State) (c : CoreId) (q : MxCmd) (off : Nat) (b : List Byte) : State :=
  s.writeNow (s.mxActor c q) (.core c) (s.storePa c off) b false

/-! ### Operands (R313, R314, R317) -/

/-- Columns of one step (R314). -/
def stepK (f : Fmt) : Nat := if f.isMx then 32 else 16
/-- Scale bytes of a slot (R314). -/
def slotScales (f : Fmt) : Nat := if f.isMx then 16 else if f = .nx4 then 32 else 0
/-- Element bytes of a slot (R314). -/
def slotElems (f : Fmt) : Nat := 16 * stepK f * f.width / 8
/-- The least slot in bytes (R314): a multiple of 64. -/
def slotLeast (f : Fmt) : Nat := ceilDiv (slotElems f + slotScales f) 64 * 64

/-- Matrix operand formats: 0, 1, 2 and 5 to 17 (R317). -/
def mxFmt (n : Nat) : Option Fmt := if n = 3 ∨ n = 4 then none else fmtOfNat n
def isIntFmt (f : Fmt) : Bool := f == .i8 || f == .i4
/-- A pair of formats an MMA allows (R317). -/
def pairOk (a b : Fmt) : Bool := (isIntFmt a && isIntFmt b) || (!isIntFmt a && !isIntFmt b && stepK a == stepK b)

/-- Element (line, k) of a slot: line is the row of A or the column of B (R314). -/
def slotIx (isA : Bool) (line k : Nat) : Nat := k / 16 * 256 + (if isA then line * 16 + k % 16 else k % 16 * 16 + line)

/-- The exact values of a slot, by line and k (R65, R314). -/
def slotVals (f : Fmt) (isA : Bool) (b : List Byte) : List (List FV) :=
  let n := ofBytes (b.take (slotElems f))
  let sc := (b.drop (slotElems f)).map (·.toNat)
  (List.range 16).map fun line => (List.range (stepK f)).map fun k =>
    let scale := if f.isMx then sc.getD line 0 else if f = .nx4 then sc.getD (2 * line + k / 8) 0 else 0
    decElem f scale (packGet n f.width (slotIx isA line k))

/-- The integers of a slot. -/
def slotInts (f : Fmt) (isA : Bool) (b : List Byte) : List (List Int) :=
  let n := ofBytes (b.take (slotElems f))
  (List.range 16).map fun line => (List.range 16).map fun k => sext (packGet n f.width (slotIx isA line k)) f.width

/-! ### Sums (R76, R77) -/

/-- A group's exact sum with its flags. -/
def groupSum (as bs : List FV) : Exact × Flags :=
  let ps := (as.zip bs).map fun p => exMul p.1 p.2
  let (e, fl) := exSum (ps.map (·.1.toFV))
  (e, fl ||| orFlags (ps.map (·.2)))

/-- MatrixSum over the groups of one element (R76). -/
def matrixSum : List (List FV × List FV) → Bool → Nat → Flags → Nat × Flags
  | [], _, acc, fl => (acc, fl)
  | (as, bs) :: r, first, acc, fl =>
    let (sum, fs) := groupSum as bs
    let (v, fv) := if first then fp32.deliver rneMode (sum, 0) else fp32.deliver rneMode (exAdd false (fp32.dec acc) sum.toFV)
    matrixSum r false v (fl ||| fs ||| fv)

/-- IntegerSum over the group sums of one element: the running total is not wrapped (R77). -/
def integerSum : List Int → Bool → Int → Bool → Nat × Flags
  | [], _, tot, wr => (wrapN tot 32, if wr then fWR else 0)
  | g :: r, first, tot, wr =>
    let t := if first then g else tot + g
    integerSum r false t (wr || decide (t < -(2 ^ 31 : Int)) || decide ((2 ^ 31 : Int) ≤ t))

/-- A list cut into groups of 16. -/
def groups16 {α : Type} (l : List α) : List (List α) := chunks 16 (l.length + 1) l

/-! ### The commands -/

/-- Checks every command passes first (R312 orders 1-3). -/
def MxCmd.early3 (q : MxCmd) (k : MxKind) : Option Nat :=
  if !q.fieldsOk k then some 8 else if !q.owned then some 1 else none

/-- The region of a ring lies in local memory. -/
def State.ringLocal (s : State) (c : CoreId) (r : MRing) : Bool := s.inLocal c r.base (r.slot * 64 * r.count)

/-- The slots an MMA reads of a ring: offsets and sizes (R313). -/
def MRing.reads (r : MRing) (n : Nat) : List (Nat × Nat) :=
  (List.range n).map fun i => (r.base + (r.head + i) % max 1 r.count * (r.slot * 64), r.slot * 64)

/-- Read several ranges. -/
def State.mxReads (s : State) (c : CoreId) (q : MxCmd) : List (Nat × Nat) → State × List (List Byte)
  | [] => (s, [])
  | r :: l =>
    let (s, b) := s.mxRead c q r.1 r.2
    let (s, bs) := s.mxReads c q l
    (s, b :: bs)

/-- Free words (log 8). -/
def State.freeWords (s : State) : Nat → List Word × State
  | 0 => ([], s)
  | n + 1 => let (w, s) := s.freeWord; let (r, s) := State.freeWords s n; (w :: r, s)

/-- A tile whose values are unpredictable (R230): words, flags and marks are free values. -/
def State.freeTile (s : State) : Tile × State :=
  let (ws, s) := s.freeWords 256
  let (f, s) := s.freeWord
  ({ words := ws.map (·.truncate 32), flags := f.truncate 8
     marks := (List.range 256).filter fun e => bitAt (ws.getD e 0) 63, bad := false }, s)

/-- The tile an MMA leaves (R316). -/
def mmaTile (t : Tile) (fa fb : Fmt) (ovw : Bool) (sa sb : List (List Byte)) : Tile :=
  let res : List (Nat × Flags) :=
    if isIntFmt fa then
      let la := sa.map (slotInts fa true)
      let lb := sb.map (slotInts fb false)
      (List.range 256).map fun e =>
        let gs := (la.zip lb).map fun p =>
          (((p.1.getD (e / 16) []).zip (p.2.getD (e % 16) [])).map fun q => q.1 * q.2).foldl (· + ·) 0
        integerSum gs ovw (sext ((t.words.getD e 0).toNat) 32) false
    else
      let la := sa.map (slotVals fa true)
      let lb := sb.map (slotVals fb false)
      (List.range 256).map fun e =>
        let as := groups16 (la.flatMap fun l => l.getD (e / 16) [])
        let bs := groups16 (lb.flatMap fun l => l.getD (e % 16) [])
        matrixSum (as.zip bs) ovw ((t.words.getD e 0).toNat) 0
  let old := if ovw then [] else t.marks
  { words := res.map fun r => BitVec.ofNat 32 r.1
    flags := orFlags (res.map (·.2)) ||| (if ovw then 0 else t.flags)
    marks := (List.range 256).filter fun e => old.contains e || (res.getD e (0, 0)).2 != 0
    bad := if ovw then false else t.bad }

def Core.setTile (k : Core) (t : Fin 4) (x : Tile) : Core := { k with tiles := k.tiles.set t x }
def Core.setRing (k : Core) (r : Fin 4) (x : MRing) : Core := { k with rings := k.rings.set r x }

/-- A ring after an MMA has read `n` slots (R316). -/
def MRing.advance (r : MRing) (n : Nat) : MRing := { r with head := (r.head + n) % max 1 r.count, fill := r.fill - n }

/-- MMA (R316). -/
def State.runMma (s : State) (c : CoreId) (q : MxCmd) : MxRes :=
  let k := s.core c
  match q.early3 .mma with
  | some r => .refuse s r
  | none =>
    match mxFmt (q.f0 24 5), mxFmt (q.f0 32 5) with
    | some fa, some fb =>
      let (a, b) := (k.rings.get q.ra, k.rings.get q.rb)
      let n := q.f0 40 6 + 1
      let t := k.tiles.get q.tile
      let ovw := q.f0 20 1 == 1
      if !pairOk fa fb then .refuse s 3
      else if !a.defd || !b.defd || q.ra == q.rb || a.slot * 64 < slotLeast fa || b.slot * 64 < slotLeast fb then .refuse s 4
      else if !s.ringLocal c a || !s.ringLocal c b then .refuse s 7
      else if a.fill < n || b.fill < n then .refuse s 5
      else
        let (ra, rb) := (a.reads n, b.reads n)
        if s.mxWaits c q false (ra ++ rb) then .wait (s.mxStops c q false (ra ++ rb))
        else match s.mxBad c (ra ++ rb) with
          | some s => .refuse s 9
          | none =>
            if t.bad && !ovw then .refuse (s.eccCore 1 c) 9
            else
              let (s, sa) := s.mxReads c q ra
              let (s, sb) := s.mxReads c q rb
              let raced := (ra ++ rb).any fun r => q.stores.any fun w => w.1 < r.1 + r.2 && r.1 < w.2
              let (t', s) := if raced then s.freeTile else (mmaTile t fa fb ovw sa sb, s)
              .ok (s.modCore c fun k =>
                let k := k.setTile q.tile t'
                let k := if q.f0 21 1 = 0 then k.setRing q.ra (a.advance n) else k
                if q.f0 22 1 = 0 then k.setRing q.rb (b.advance n) else k)
    | _, _ => .refuse s 3

/-- ACCZ (R318). -/
def State.runAccz (s : State) (c : CoreId) (q : MxCmd) : MxRes :=
  match q.early3 .accz with
  | some r => .refuse s r
  | none => .ok (s.modCore c fun k => k.setTile q.tile Tile.zero)

/-- ACCLD (R318). -/
def State.runAccld (s : State) (c : CoreId) (q : MxCmd) : MxRes :=
  match q.early3 .accld with
  | some r => .refuse s r
  | none =>
    let f := q.f0 24 5
    let src := fld (q.dw 1) 0 20
    let n := if f = 1 ∨ f = 2 then 512 else 1024
    if 3 < f then .refuse s 3
    else if src % 64 ≠ 0 || !s.inLocal c src n then .refuse s 7
    else if s.mxWaits c q false [(src, n)] then .wait (s.mxStops c q false [(src, n)])
    else match s.mxBad c [(src, n)] with
      | some s => .refuse s 9
      | none =>
        let (s, b) := s.mxRead c q src n
        let v := ofBytes b
        let es : List (Nat × Flags) := match f with
          | 1 => (unpack v 16 256).map fun w => fp32.conv rneMode (fp16.dec w)
          | 2 => (unpack v 16 256).map fun w => fp32.conv rneMode (bf16.dec w)
          | _ => (unpack v 32 256).map fun w => (w, 0)
        .ok (s.modCore c fun k => k.setTile q.tile
          { words := es.map fun e => BitVec.ofNat 32 e.1, flags := orFlags (es.map (·.2))
            marks := (List.range 256).filter fun e => (es.getD e (0, 0)).2 != 0, bad := false })

/-- The bytes ACCST writes: the tile, and its status word (R319, R82). -/
def accstBytes (t : Tile) (f : Fmt) (int : Bool) (mode seed : Nat) (key : Word) : List Byte :=
  let xs := t.words.map fun w => if int then FV.ofInt w.toInt else fp32.dec w.toNat
  let out := encArray f ((List.range 256).map fun e => ⟨mode, wd (seed * 256 + e), key⟩) xs
  let nf := ((List.range 256).filter fun e =>
    match decElem f (if f.block = 0 then 0 else out.scales.getD (e / f.block) 0) (out.codes.getD e 0) with
    | .fin _ _ _ => false
    | _ => true).length
  let first := (List.range 256).find? fun e => t.marks.contains e || out.flags.getD e 0 != 0
  toBytes (packAll f.width out.codes) (32 * f.width) ++ out.scales.map (BitVec.ofNat 8 ·) ++
    toBytes (statusWord first nf f.code mode (t.flags ||| orFlags out.flags)).toNat 8

/-- ACCST (R319). -/
def State.runAccst (s : State) (c : CoreId) (q : MxCmd) : MxRes :=
  match q.early3 .accst with
  | some r => .refuse s r
  | none =>
    let rnd := q.f0 32 3
    let dst := fld (q.dw 1) 0 20
    match fmtOfNat (q.f0 24 5) with
    | none => .refuse s 3
    | some f =>
      let t := (s.core c).tiles.get q.tile
      let n := tileBytes f + 8
      if rnd = 5 ∨ rnd = 6 then .refuse s 3
      else if dst % 64 ≠ 0 || !s.inLocal c dst n then .refuse s 7
      else if s.mxWaits c q true [(dst, n)] then .wait (s.mxStops c q true [(dst, n)])
      else if t.bad then .refuse (s.eccCore 1 c) 9
      else
        let b := accstBytes t f (q.f0 36 1 == 1) (if rnd = 7 then q.frm else rnd) (fld (q.dw 2) 0 32) q.srkey
        let (s, b) := s.mixRaced c q dst b
        .ok (s.mxWrite c q dst b)

/-- RINGDEF define (R320). -/
def State.runDefine (s : State) (c : CoreId) (q : MxCmd) : MxRes :=
  match q.early3 .define with
  | some r => .refuse s r
  | none =>
    let base := fld (q.dw 1) 0 20
    let r : MRing := { defd := true, fill := 0, head := 0, count := fld (q.dw 2) 32 9, slot := fld (q.dw 2) 0 16 / 64, base := base }
    if base % 64 ≠ 0 || !s.ringLocal c r then .refuse s 7 else .ok (s.modCore c fun k => k.setRing q.ra r)

/-- RINGDEF append (R320). -/
def State.runAppend (s : State) (c : CoreId) (q : MxCmd) : MxRes :=
  match q.early3 .append with
  | some r => .refuse s r
  | none =>
    let r := (s.core c).rings.get q.ra
    let n := fld (q.dw 1) 0 9
    if !r.defd then .refuse s 4
    else if !s.ringLocal c r then .refuse s 7
    else if r.count < r.fill + n then .refuse s 6
    else .ok (s.modCore c fun k => k.setRing q.ra { r with fill := r.fill + n })

/-- QFENCE (R321). -/
def State.runQfence (s : State) (c : CoreId) (q : MxCmd) : MxRes :=
  match q.early3 .qfence with
  | some r => .refuse s r
  | none =>
    let a := fld (q.dw 1) 0 20
    if a % 8 ≠ 0 || !s.inLocal c a 8 then .refuse s 7
    else if s.mxWaits c q true [(a, 8)] then .wait (s.mxStops c q true [(a, 8)])
    else .ok (s.mxWrite c q a (toBytes (q.dw 2).toNat 8))

/-- The head of the queue executes, if it is of the kind named; one of no kind is refused (R311, R312). The commands a forced chip has saved wait
for the next slice (R328, R428). -/
def State.mxStep (s : State) (c : CoreId) (kind : MxKind) (run : State → CoreId → MxCmd → MxRes) : State :=
  match (if (s.part c.part).onChip c.pkg then (s.core c).mxq else []) with
  | [] => s
  | q :: _ =>
    match q.kind with
    | none => s.mxPop c q (some 2)
    | some k =>
      if k ≠ kind then s
      else match run s c q with
        | .wait s => s
        | .refuse s r => s.mxPop c q (some r)
        | .ok s => s.mxPop c q none

def execMma (c : CoreId) : State → Host.Outcome State Fault Refusal := runEvent (·.mxStep c .mma State.runMma)
def execAccz (c : CoreId) : State → Host.Outcome State Fault Refusal := runEvent (·.mxStep c .accz State.runAccz)
def execAccld (c : CoreId) : State → Host.Outcome State Fault Refusal := runEvent (·.mxStep c .accld State.runAccld)
def execAccst (c : CoreId) : State → Host.Outcome State Fault Refusal := runEvent (·.mxStep c .accst State.runAccst)
def execRingdefDefine (c : CoreId) : State → Host.Outcome State Fault Refusal := runEvent (·.mxStep c .define State.runDefine)
def execRingdefAppend (c : CoreId) : State → Host.Outcome State Fault Refusal := runEvent (·.mxStep c .append State.runAppend)
def execQfence (c : CoreId) : State → Host.Outcome State Fault Refusal := runEvent (·.mxStep c .qfence State.runQfence)

/-! ### MXWAIT, MXSTAT, MXSPC (R324) -/

/-- An MXWAIT covers every ACCST of its context, at whatever core it pushed it (R230, R322). -/
def State.covered (s : State) (x : Ctx) : State :=
  let mine : List (CoreId × List (Nat × Nat)) := (s.cores.filter fun i => (coreOfKey i.1).part == s.cur.core.part).map fun i =>
    (coreOfKey i.1, (i.2.early.filter fun e => e.1 == x.owner).map fun e => (e.2.1, e.2.2.1))
  (mine.filter fun i => !i.2.isEmpty).foldl (fun s i =>
    (s.readLate i.1 i.2).modCore i.1 fun k => { k with early := k.early.filter fun e => e.1 != x.owner }) s

def execMxwait (d : Reg) : State → Host.Outcome State Fault Refusal :=
  runWord do
    let (_, p) ← operands (.mxwait d) [] (some d)
    let x ← cx
    waitUnless (x.mxOut == 0)
    modSt fun s => s.covered x
    acquire
    putDest p x.mxs

/-- MXSTAT (R324). DESIGN CHOICE (log 25): a sample with OUT = 0 acquires what the commands wrote, but it ends no unpredictable read; an MXWAIT alone
does (R230, R322). -/
def execMxstat (d a : Reg) : State → Host.Outcome State Fault Refusal :=
  runWord do
    let i : Instr := .mxstat d a
    let (vs, p) ← operands i [a] (some d)
    let c := vs.getD 0 0
    faultIf (c >>> 1 != 0) cIllegal (wordOf i)
    let x ← cx
    if x.mxOut = 0 then acquire
    if bitAt c 0 then modCx fun x => { x with mxRefSeq := 0, mxReason := 0, mxRefCnt := 0 }
    putDest p x.mxs

def execMxspc (d : Reg) : State → Host.Outcome State Fault Refusal :=
  runWord do
    let (_, p) ← operands (.mxspc d) [] (some d)
    let s ← st
    putDest p (wd (16 - (s.core s.cur.core).mxq.length))

end Sys2Proof.Machine
end

