-- ==== Sys2Proof/Machine/VecMem.lean ====
section
/-! DEFINITION. Vector loads and stores, gathers and scatters (10_vector_pool.md R256, R259, R260). -/
namespace Sys2Proof.Machine

/-- A vector access to a piece of memory, translated and checked (R256, R259): Access, then Window. -/
def vecLocate (k : TKind) (va n align : Nat) : M Loc := do
  let l ← locate k va n align
  let s ← st
  if s.refused s.cur.core l.home (if k = .read then .rd else .wr) l.pa n then
    throw (.faultIn (s.countRefusal l.home) cWindow (wd va))
  return l

/-- The places of an access of several pieces, with the faults of all in the order of R264 and R431: translation, Access. -/
def vecPlaces (k : TKind) (ps : List (Nat × Nat)) : M (List Loc) := do
  let rs ← ps.mapM fun p => do
    let e ← get
    let c := e.st.cur
    match e.st.resolve c.core (.data c.core) (some (.ctx c e.cx.icount)) k e.cx.priv p.1 p.2 with
    | (.ok l, s) => do set { e with st := s }; return (some l, p.1, 0)
    | (.fault f, s) => do set { e with st := s }; return (none, p.1, f)
    | (.wait, _) => stall
    | (.miss, s) => throw (.walk c.core.clu (fld (s.part c.core.part).atbl 48 16) p.1)
  let s ← st
  match rs.find? (fun r => r.1.isNone && r.2.2 != cAccess), rs.find? (·.1.isNone) with
  | some r, _ => throw (.faultIn s r.2.2 (wd r.2.1))
  | none, some r => throw (.faultIn s r.2.2 (wd r.2.1))
  | none, none => return rs.filterMap (·.1)

/-- The same with the home's windows after them (R264). -/
def vecLocates (k : TKind) (ps : List (Nat × Nat)) : M (List Loc) := do
  let ls ← vecPlaces k ps
  let s ← st
  match (ls.zip ps).find? fun q => s.refused s.cur.core q.1.home (if k = .read then .rd else .wr) q.1.pa q.2.2 with
  | some q => throw (.faultIn (s.countRefusal q.1.home) cWindow (wd q.1.va))
  | none => return ls

/-- The pieces of 64 bytes by sector: address, offset, bytes (R218, R259). -/
def vecPieces (va : Nat) : List (Nat × Nat × Nat) :=
  let n0 := 128 - va % 128
  if 64 ≤ n0 then [(va, 0, 64)] else [(va, 0, n0), ((va + n0) % 2 ^ 64, n0, 64 - n0)]

/-- The queue address of R181. -/
def mxqBase : Nat := 0x00FE000000100000

def execVld (vd : VReg) (a b : Reg) (t : VType) : State → Host.Outcome State Fault Refusal :=
  runWord do
    let i : Instr := .vld vd a b t
    let (vs, _) ← operands i [a, b] none
    useVecs i [vd.val]
    let va := (sumW vs).toNat
    faultIf (va % (t.width / 8) ≠ 0) cAlign (wd va)
    let ps := vecPieces va
    let ls := ps.zip (← vecLocates .read (ps.map fun p => (p.1, p.2.2)))
    for (_, l) in ls do fenceWait true false l.home
    let e ← get
    needBuffers (ls.filter fun q => !e.near q.2 true q.1.2.2).length
    for (p, l) in ls do trackM false l.pa p.2.2
    let g := (← cx).accCtr + 1
    for (p, l) in ls do
      issue { l := l, op := .load p.2.2, dest := .vec vd.val p.2.1, grp := g, posted := none }
    finishM g

/-- Store 64 bytes in located pieces; each holds a landing buffer while its home is remote (R259). -/
def vecStore (ls : List ((Nat × Nat × Nat) × Loc)) (b : List Byte) : M Unit := do
  for (_, l) in ls do fenceWait false true l.home
  let e ← get
  needBuffers (ls.filter fun q => q.2.home != .core e.st.cur.core).length
  for (p, l) in ls do trackM true l.pa p.2.2
  for (p, l) in ls do
    issue { l := l, op := .store ((b.drop p.2.1).take p.2.2), dest := .none, grp := 0, posted := none, keepBuf := true, vec := true }

def execVst (vd : VReg) (a b : Reg) (t : VType) : State → Host.Outcome State Fault Refusal :=
  runWord do
    let i : Instr := .vst vd a b t
    let (vs, _) ← operands i [a, b] none
    useVecs i [vd.val]
    let x ← cx
    let va := (sumW vs).toNat
    let bytes := toBytes (x.vec vd.val).toNat 64
    faultIf (va % (t.width / 8) ≠ 0) cAlign (wd va)
    if va = mxqBase then mxPush bytes
    else
      faultIf (x.swst && va % 64 ≠ 0) cAlign (wd va)
      let ps := vecPieces va
      let ls ← vecLocates .write (ps.map (fun p => (p.1, p.2.2)) ++ if x.swst then [((va + 64) % 2 ^ 64, 8)] else [])
      vecStore (ps.zip ls) bytes
      match ls[ps.length]? with
      | none => pure ()
      | some l =>
        fenceWait false true l.home
        trackM true l.pa 8
        issue { l := l, op := .store (toBytes (vecStatus t (x.vec vd.val) (x.vtags.get vd)).toNat 8), dest := .none, grp := 0
                posted := none }

/-- The element addresses of a gather or scatter (R260). -/
def gatherAddrs (t : VType) (base : Word) (ix : VWord) : List Nat :=
  (lanesOf t ix).map fun e => (base + sextW e t.width * wd (t.width / 8)).toNat

def execVldx (vd : VReg) (a : Reg) (vb : VReg) (t : VType) : State → Host.Outcome State Fault Refusal :=
  runWord do
    let i : Instr := .vldx vd a vb t
    let (vs, _) ← operands i [a] none
    useVecs i [vd.val, vb.val]
    let n := t.width / 8
    let as := gatherAddrs t (vs.getD 0 0) ((← cx).vec vb.val)
    let ls ← as.mapM fun va => vecLocate .read va n n
    for l in ls do fenceWait true false l.home
    let e ← get
    needBuffers (ls.filter fun l => !e.near l true n).length
    for l in ls do trackM false l.pa n
    let g := (← cx).accCtr + 1
    for (l, k) in ls.zip (List.range t.lanes) do
      issue { l := l, op := .load n, dest := .vec vd.val (k * n), grp := g, posted := none }
    finishM g

def execVstx (vd : VReg) (a : Reg) (vb : VReg) (t : VType) : State → Host.Outcome State Fault Refusal :=
  runWord do
    let i : Instr := .vstx vd a vb t
    let (vs, _) ← operands i [a] none
    useVecs i [vd.val, vb.val]
    let x ← cx
    let n := t.width / 8
    let ls ← (gatherAddrs t (vs.getD 0 0) (x.vec vb.val)).mapM fun va => vecLocate .write va n n
    for l in ls do fenceWait false true l.home
    for l in ls do trackM true l.pa n
    for (l, e) in ls.zip (lanesOf t (x.vec vd.val)) do
      issue { l := l, op := .store (toBytes e n), dest := .none, grp := 0, posted := none, vec := true }

end Sys2Proof.Machine
end

