-- ==== Sys2Proof/Machine/StreamInstr.lean ====
section
/-! DEFINITION. The stream instructions (11_streams.md R278-R292) and FCHK (12_fibre_trees.md R303-R305). -/
namespace Sys2Proof.Machine

/-- The register of a stream (R266). -/
def qReg (q : Fin 8) : Reg := Fin.ofNat 32 (24 + q.val)

/-- A load that the instruction itself makes (R279); `inline` is explained at `ctxReadIn`. -/
def readM (inline : Bool) (va n : Nat) : M (List Byte) := do
  let e ← get
  liftR (ctxRead e.st.cur e.cx inline va n)

/-! ### Binding (R268, R279-R284) -/

/-- A binding instruction issues only when the slots its kind needs, beyond those its register frees, are available (R268). -/
def needSlots (q : Fin 8) (k : SKind) : M Unit := do
  let e ← get
  let c := e.st.cur
  let own := ((e.cx.streams.get q).map (·.kind.slots)).getD 0
  let free := e.st.qfreeSlots c e.cx + own
  let keep := if c.slot = 0 then 0 else (e.st.core c.core).qsResv - e.st.qheld0 c e.cx
  waitUnless (decide (k.slots + keep ≤ free))

/-- Make a binding, the old one ended (R269, R270). -/
def bindM (q : Fin 8) (t : Stream) : M Unit := modCx fun x => x.setStream q (some t)

/-- The pattern of a descriptor, if R280 admits it. -/
def patternOf (b : List Byte) : Option Pattern :=
  let c := wd (dword b 1)
  let size := 2 ^ fld c 0 2
  let wr := bitAt c 3
  let nd := fld c 4 2 + 1
  let dims : List (Nat × Int) := (List.range nd).map fun i => (word32 b (4 + i), sext (dword b (4 + i)) 64)
  if fld c 7 57 ≠ 0 || (wr && (bitAt c 2 || bitAt c 6)) || dword b 0 % size ≠ 0 || dims.any fun d => d.2 % size ≠ 0 then none
  else some { base := dword b 0, size := size, sgn := bitAt c 2, wr := wr, mark := bitAt c 6, dims := dims }

/-- Check the alignment of a descriptor or image (R291). -/
def alignM (va n : Nat) : M Unit := faultIf (va % n ≠ 0) cAlign (wd va)

/-- A pattern stream from its descriptor (R280). -/
def patStream (i : Instr) (inline : Bool) (q : Fin 8) (va : Nat) : M Stream := do
  alignM va 64
  match patternOf (← readM inline va 64) with
  | none => raiseStream i 4 q
  | some p => return { Stream.fresh (if p.wr then .patWrite else .patRead) with desc := va, pat := p }

/-- A fibre stream from its walk descriptor (R281). -/
def fibStream (i : Instr) (inline : Bool) (q : Fin 8) (va : Nat) : M Stream := do
  alignM va 32
  let e ← get
  let rd := ctxRead e.st.cur e.cx inline
  match ← liftR (do let b ← rd va 32; readWalker rd true b) with
  | none => raiseStream i 4 q
  | some w => return { Stream.fresh .fibre with desc := va, wa := w }

/-- A combined stream from its two walk descriptors (R282). -/
def pairStream (i : Instr) (inline : Bool) (q : Fin 8) (k : SKind) (va : Nat) : M Stream := do
  alignM va 64
  let e ← get
  let rd := ctxRead e.st.cur e.cx inline
  let (a, b) ← liftR (do
    let d ← rd va 64
    let a ← readWalker rd true (d.take 32)
    let b ← readWalker rd true (d.drop 32)
    return (a, b))
  match a, b with
  | some a, some b => return { Stream.fresh k with desc := va, wa := a, wb := b }
  | _, _ => raiseStream i 4 q

/-- A neighbour stream (R283): a neighbour there must be, and no other context of the core may have bound the direction. -/
def nbrStream (i : Instr) (q : Fin 8) (d : Dir) : M Stream := do
  settleOp
  let s ← st
  let c := s.cur
  if (s.neighbour c.core d).isNone then raiseStream i 6 q
  let busy := (slotsOf c.core).any fun k => k != c &&
    ((s.ctx? k).map fun x => x.streams.toList.any fun t => (t.map fun t => t.kind == .nbr && t.dir == d).getD false).getD false
  if busy then raiseStream i 7 q
  return { Stream.fresh .nbr with dir := d }

/-- The address operand of a binding instruction, its own register interlocked too. -/
def addrOf (i : Instr) (q : Fin 8) (a : Reg) : M Nat := do
  let (vs, _) ← operands i [a] none [qReg q]
  return (vs.getD 0 0).toNat

def execQbind (q : Fin 8) (a : Reg) : State → Host.Outcome State Fault Refusal :=
  runWord do
    let i : Instr := .qbind q a
    needSlots q .patRead
    bindM q (← patStream i false q (← addrOf i q a))
def execQfib (q : Fin 8) (a : Reg) : State → Host.Outcome State Fault Refusal :=
  runWord do
    let i : Instr := .qfib q a
    needSlots q .fibre
    bindM q (← fibStream i false q (← addrOf i q a))
def execQisect (q : Fin 8) (a : Reg) : State → Host.Outcome State Fault Refusal :=
  runWord do
    let i : Instr := .qisect q a
    needSlots q .isect
    bindM q (← pairStream i false q .isect (← addrOf i q a))
def execQunion (q : Fin 8) (a : Reg) : State → Host.Outcome State Fault Refusal :=
  runWord do
    let i : Instr := .qunion q a
    needSlots q .union
    bindM q (← pairStream i false q .union (← addrOf i q a))
def execQnbr (q : Fin 8) (dir : Dir) : State → Host.Outcome State Fault Refusal :=
  runWord do
    let i : Instr := .qnbr q dir
    needSlots q .nbr
    let _ ← operands i [] none [qReg q]
    bindM q (← nbrStream i q dir)

/-- End a binding (R269, R270, R285). -/
def Ctx.unbind (x : Ctx) (q : Fin 8) : Ctx := if (x.streams.get q).isSome then x.setStream q none else x

def execQfree (q : Fin 8) : State → Host.Outcome State Fault Refusal :=
  runWord do
    let _ ← operands (.qfree q) [] none [qReg q]
    modCx fun x => x.unbind q

/-! ### Using a stream (R286-R289) -/

/-- The binding named, or Stream NOTBOUND. -/
def boundOr (i : Instr) (q : Fin 8) : M Stream := do
  match (← cx).streams.get q with
  | some t => return t
  | none => raiseStream i 1 q

/-- The sources of a stream instruction, and the pops that reading them makes. -/
def sourcesOf (i : Instr) (srcs : List Reg) : M (List Word) := do
  let x ← cx
  let vs ← readSources i srcs []
  for q in (popsOf x srcs) do popStream q 1
  return vs

/-- The coordinate of the next element or pair that is still to be fetched, none at END, its values unread (R286): what has been read of
the walks is kept. -/
def nextCrd (c : CtxId) (x : Ctx) (t : Stream) : WalkM RM (Option Nat × Stream) := do
  let rd := ctxReadN c x false
  if t.fEnd then return (none, t)
  if let some (k, _) := t.pendB then return (some k, t)
  match t.kind with
  | .fibre =>
    let (e, st) ← walkPeek rd t.wa (← fetchSt rd t.wa t.stA t.fA)
    return (e.map (·.1), { t with stA := some st })
  | .union =>
    let (ea, sa) ← walkPeek rd t.wa (← fetchSt rd t.wa t.stA t.fA)
    let (eb, sb) ← walkPeek rd t.wb (← fetchSt rd t.wb t.stB t.fB)
    let k := match ea, eb with
      | some a, some b => some (min a.1 b.1)
      | some a, none => some a.1
      | none, some b => some b.1
      | none, none => none
    return (k, { t with stA := some sa, stB := some sb })
  | .isect =>
    -- a part of each walk that is known to end ends the stream, whatever the other would read (R277)
    match ← tryWalk (fetchSt rd t.wa t.stA t.fA), ← tryWalk (fetchSt rd t.wb t.stB t.fB) with
    | .ok sa, .ok sb =>
      match ← isectNext rd t.wa t.wb (2 ^ 34) sa sb t.fA t.fB with
      | (none, _) => return (none, t)
      | (some (k, qa, qb), sa, sb, na, nb) =>
        return (some k, { t with fA := na - 1, fB := nb - 1, stA := some { sa with peek := some (k, qa) }
                                 stB := some { sb with peek := some (k, qb) } })
    | .error e, .ok sb => match ← walkPeek rd t.wb sb with
      | (none, _) => return (none, t)
      | _ => throw e
    | .ok sa, .error e => match ← walkPeek rd t.wa sa with
      | (none, _) => return (none, t)
      | _ => throw e
    | .error e, .error _ => throw e
  | _ => return (none, t)

/-- Drop the head: it is neither popped nor counted as popped (R286, R289). -/
def Stream.dropHead (t : Stream) : Stream := { t.pop with ord := t.ord }

/-- Drop elements with coordinates below `k` (R286): each of them is read, since a fault among them is raised, and the one it stops at is not. -/
def skipTo (c : CtxId) (x : Ctx) (k : Nat) : Nat → Stream → WalkM RM Stream
  | 0, t => pure t
  | fuel + 1, t => do
    match t.buf with
    | .ctl _ :: _ => pure t
    | .data _ crd _ _ _ :: _ => if crd < k then skipTo c x k fuel t.dropHead else pure t
    | [] =>
      match ← nextCrd c x t with
      | (none, t) => pure t
      | (some crd, t) => if crd < k then do skipTo c x k fuel (← fetchMore c x false t) else pure t

def execQskip (q : Fin 8) (a : Reg) : State → Host.Outcome State Fault Refusal :=
  runWord do
    let i : Instr := .qskip q a
    interlock [a, qReg q]
    if !(← boundOr i q).kind.isFibre then raiseStream i 3 q
    let vs ← sourcesOf i [a]
    let t ← boundOr i q
    let e ← get
    let t ← liftR (skipTo e.st.cur e.cx (vs.getD 0 0).toNat (2 ^ 40) t)
    modCx fun x => x.modStream q fun _ => t

def execQcrd (d : Reg) (q : Fin 8) (la : Fin 16) : State → Host.Outcome State Fault Refusal :=
  runWord do
    let i : Instr := .qcrd d q la
    interlock [d, qReg q]
    let t ← boundOr i q
    if t.kind = .nbr then raiseStream i 3 q
    destCheck i d
    let v ← if t.kind = .patWrite then pure (wd t.ord) else do
      match ← headOf i q t 0 with
      | .ctl _ => pure (BitVec.allOnes 64)
      | .data _ crd _ _ _ => pure (wd crd)
    putDest (← planDest i d) v
    openWindow d la

/-- The word of a control value as delivered by stream q (R272). -/
def ctlWord (w : Word) (q : Fin 8) : Word := (w &&& ~~~(7#64 <<< 8)) ||| wd (q.val * 256)

def execQend (d : Reg) (q : Fin 8) (la : Fin 16) : State → Host.Outcome State Fault Refusal :=
  runWord do
    let i : Instr := .qend d q la
    interlock [d, qReg q]
    let t ← boundOr i q
    if t.kind = .patWrite then raiseStream i 2 q
    destCheck i d
    match ← headOf i q t 0 with
    | .data _ _ _ _ _ => putDest (← planDest i d) 0
    | .ctl w =>
      let p ← planDest i d
      popStream q 1
      putDest p (ctlWord w q)
    openWindow d la

/-- KIND of an image (R290). -/
def SKind.code : SKind → Nat | .patRead => 1 | .patWrite => 2 | .fibre => 3 | .isect => 4 | .union => 5 | .nbr => 6

/-- A finished stream (R290). -/
def Stream.finished (t : Stream) : Bool :=
  match t.kind with
  | .nbr => false
  | .patWrite => t.fin || (t.pat.total ≠ 0 && decide (t.pat.total ≤ t.ord))
  | _ => t.fin

/-- The first doubleword of an image (R290). -/
def Stream.word0 (t : Stream) : Nat :=
  t.kind.code + 16 * b2n t.finished + 32 * b2n t.pairB + 64 * b2n t.markD +
    (if t.kind == .nbr then 256 * (dirIx t.dir).val else 0)

/-- Elements buffered for a binding (R289): a neighbour stream's stand in the core's queue. -/
def State.buffered (s : State) (c : CoreId) (t : Stream) : Nat :=
  match t.kind with
  | .nbr => ((s.core c).nbrq.get (dirIx t.dir)).length
  | _ => t.buf.length

/-- A selector of QCTL applies to a kind of stream (R289). -/
def SKind.takes (k : SKind) (sel : Nat) : Bool :=
  match sel with
  | 2 => k.isPair
  | 3 => k == .nbr
  | _ => k != .nbr && k != .patWrite

def execQctl (d : Reg) (q : Fin 8) (a : Reg) (la : Fin 16) : State → Host.Outcome State Fault Refusal :=
  runWord do
    let i : Instr := .qctl d q a la
    interlock [a, d, qReg q]
    let vs ← sourcesOf i [a]
    let sel := (vs.getD 0 0).toNat
    faultIf (decide (4 < sel)) cIllegal (wordOf i)
    if sel ≤ 1 then
      let p ← planDest i d
      let v ← match (← cx).streams.get q with
        | none => pure 0
        | some t =>
          if sel = 0 then do let s ← st; pure (t.word0 + min 31 (s.buffered s.cur.core t) * 2 ^ 16)
          else pure t.ord
      putDest p (wd v)
    else
      let t ← boundOr i q
      if !t.kind.takes sel then raiseStream i 3 q
      destCheck i d
      match sel with
      | 2 =>
        match ← headOf i q t 0 with
        | .ctl _ =>
          -- DESIGN CHOICE (log 35): no presence is stated at a control value; a free one
          let (w, s) := (← st).freeWord
          modSt fun _ => s
          putDest (← planDest i d) (w &&& 3)
        | .data _ _ pres _ _ => putDest (← planDest i d) (wd pres)
      | 3 =>
        settleOp
        let s ← st
        match (if t.broken then none else s.neighbour s.cur.core t.dir) with
        | none => raiseStream i 6 q
        | some n =>
          let p ← planDest i d
          waitUnless (s.nbrCount n (dirOpp t.dir) < 16 && !(← cx).storeHeld)
          modSt fun s => s.pushNbr s.cur.core n t.dir true ctlNend
          putDest p 0
      | _ =>
        let p ← planDest i d
        modCx fun x => x.modStream q Stream.refetch
        putDest p 0
    openWindow d la

/-! ### Saving and restoring (R290) -/

/-- The image of a binding. -/
def Stream.image (t : Stream) : List Byte :=
  toBytes t.word0 8 ++ toBytes t.desc 8 ++ toBytes t.ord 8 ++ toBytes (if t.kind.isFibre then t.posA else 0) 8 ++
    toBytes (if t.kind.isPair then t.posB else 0) 8 ++ toBytes 0 24

def imageOf (t : Option Stream) : List Byte := match t with | none => toBytes 0 64 | some t => t.image

def execQsave (q : Fin 8) (a : Reg) : State → Host.Outcome State Fault Refusal :=
  runWord do
    let i : Instr := .qsave q a
    let va ← addrOf i q a
    alignM va 64
    let l ← vecLocate .write va 64 64
    autoMigrate l false
    fenceWait false true l.home
    let e ← get
    needBuffers (if l.home == .core e.st.cur.core then 0 else 1)
    trackM true l.pa 64
    issue { l := l, op := .store (imageOf (e.cx.streams.get q)), dest := .none, grp := 0, posted := none, keepBuf := true, vec := true }

/-- An image whose reserved bits, kind, and fields that do not belong to its kind are as R290 has them. -/
def imageOk (b : List Byte) : Bool :=
  let w := wd (dword b 0)
  let k := fld w 0 4
  k ≤ 6 && fld w 10 54 = 0 && !bitAt w 7 && dword b 5 = 0 && dword b 6 = 0 && dword b 7 = 0

/-- The kind an image names. -/
def imageKind (b : List Byte) : Option SKind :=
  match fld (wd (dword b 0)) 0 4 with
  | 1 => some .patRead | 2 => some .patWrite | 3 => some .fibre | 4 => some .isect | 5 => some .union | 6 => some .nbr | _ => none

/-- Put a saved position into a fresh binding (R290). -/
def Stream.resume (t : Stream) (b : List Byte) : Stream :=
  let w := wd (dword b 0)
  { t with ord := dword b 2, posA := dword b 3, posB := dword b 4, fin := bitAt w 4, pairB := bitAt w 5, markD := bitAt w 6 }.refetch

/-- The binding an image names, from its descriptor read again: none for an image of KIND 0. -/
def loadImage (i : Instr) (inline : Bool) (q : Fin 8) (b : List Byte) : M (Option Stream) := do
  let w := wd (dword b 0)
  let va := dword b 1
  let t ← match fld w 0 4 with
    | 0 => return none
    | 1 | 2 => patStream i inline q va
    | 3 => fibStream i inline q va
    | 4 => pairStream i inline q .isect va
    | 5 => pairStream i inline q .union va
    | _ => nbrStream i q (dirOfNat (fld w 8 2))
  if t.kind.code ≠ fld w 0 4 then raiseStream i 4 q
  return some (t.resume b)

def execQload (q : Fin 8) (a : Reg) : State → Host.Outcome State Fault Refusal :=
  runWord do
    let i : Instr := .qload q a
    let va ← addrOf i q a
    alignM va 64
    let b ← readM false va 64
    if !imageOk b then raiseStream i 8 q
    if let some k := imageKind b then needSlots q k
    match ← loadImage i false q b with
    | none => modCx fun x => x.unbind q
    | some t => bindM q t

/-! ### FCHK (R304, R305) -/

/-- A report word (R304). -/
def fchkReport (kind lvl va : Nat) : Nat := 2 ^ 63 + kind * 2 ^ 60 + lvl * 2 ^ 56 + va % 2 ^ 56

/-- How far a check has come: entries and steps counted, the fibre counts known by level, and the level at which the limit was
reached, when only the next entry is still sought. -/
structure FSt where
  work : Nat
  counts : AMap Nat
  limit : Option Nat

/-- The monad of a check: it ends with a report. -/
abbrev FM := ExceptT Nat (StateT FSt (WalkM RM))

/-- Read one entry, counted (R304). -/
def fchkRead (rd : Nat → Nat → WalkM RM Nat) (lvl a w : Nat) : FM Nat := do
  let f ← getThe FSt
  match f.limit with
  | some l => throw (fchkReport 5 l a)
  | none =>
    if 4096 < f.work + 1 then throw (fchkReport 5 lvl a)
    let v ← ExceptT.lift (StateT.lift (rd a w))
    set { f with work := f.work + 1 }
    return v

/-- F_l, each POS entry that fixes it read once (R297, R304). -/
def fchkCount (rd : Nat → Nat → WalkM RM Nat) (r : FRec) (at_ : Nat) : Nat → FM Nat
  | 0 => pure 1
  | l + 1 => do
    match amGet? (← getThe FSt).counts (l + 1) with
    | some n => return n
    | none =>
      let v := r.level l
      let n ← fchkCount rd r at_ l
      let m ← match v.kind with
        | 0 => pure (n * v.size)
        | 3 => pure n
        | _ => fchkRead rd at_ (entryAt v.pos v.width n) v.width
      modifyThe FSt fun f => { f with counts := amSet f.counts (l + 1) m }
      return m

/-- Coordinates of a compressed fibre (R298, R299). -/
def fchkCrds (rd : Nat → Nat → WalkM RM Nat) (v : Level) (l : Nat) : Nat → Nat → Option Nat → FM Unit
  | 0, _, _ => pure ()
  | n + 1, q, prev => do
    let a := entryAt v.crd v.width q
    let c ← fchkRead rd l a v.width
    if (match prev with | some b => decide (c ≤ b) | none => false) then throw (fchkReport 2 l a)
    if v.size ≤ c then throw (fchkReport 3 l a)
    fchkCrds rd v l n (q + 1) (some c)

/-- Words of a bitmap fibre. -/
def fchkWords (rd : Nat → Nat → WalkM RM Nat) (v : Level) (l : Nat) : Nat → Nat → FM Nat
  | 0, _ => pure 0
  | n + 1, i => do
    let w ← fchkRead rd l (entryAt v.crd 8 i) 8
    let r ← fchkWords rd v l n (i + 1)
    return w + 2 ^ 64 * r

/-- Runs of a run-length fibre: each run's position and length. -/
def fchkRuns (rd : Nat → Nat → WalkM RM Nat) (v : Level) (l : Nat) : Nat → Nat → Option Nat → FM (List (Nat × Nat))
  | 0, _, _ => pure []
  | n + 1, r, prev => do
    let a := entryAt v.crd v.width r
    let c ← fchkRead rd l a v.width
    if (match prev with | some b => decide (c ≤ b) | none => false) then throw (fchkReport 2 l a)
    if v.size ≤ c then throw (fchkReport 3 l a)
    let x ← fchkRead rd l (entryAt v.aux v.width r) v.width
    if v.size ≤ c + x then throw (fchkReport 3 l a)
    return (r, x + 1) :: (← fchkRuns rd v l n (r + 1) (some (c + x)))

/-- The children of a fibre, in delivery order: consecutive positions from one, or one position several times. -/
inductive Kids where | span (q n : Nat) | runs (l : List (Nat × Nat))

/-- Read and check the entries of fibre `p` of level `l` (R298, R299, R304). DESIGN CHOICE (log 151): the rules do not say when the count of a
bitmap is known to be wrong; it is judged once all of its words have been read. -/
def fchkFibre (rd : Nat → Nat → WalkM RM Nat) (v : Level) (l p n : Nat) : FM Kids := do
  let pos : FM (Nat × Nat) := do
    let lo ← fchkRead rd l (entryAt v.pos v.width p) v.width
    let hi ← fchkRead rd l (entryAt v.pos v.width (p + 1)) v.width
    if hi < lo then throw (fchkReport 1 l (entryAt v.pos v.width (p + 1)))
    return (lo, hi)
  match v.kind with
  | 0 =>
    -- past the limit a fibre that overflows only ends the search for a next entry
    if 2 ^ 64 ≤ n * v.size then throw (if (← getThe FSt).limit.isSome then 0 else fchkReport 1 l v.desc)
    return .span (p * v.size) v.size
  | 1 =>
    let (lo, hi) ← pos
    fchkCrds rd v l (hi - lo) lo none
    return .span lo (hi - lo)
  | 2 =>
    let (lo, hi) ← pos
    let bits ← fchkWords rd v l v.nwords (p * v.nwords)
    if bits / 2 ^ v.size ≠ 0 then throw (fchkReport 3 l (entryAt v.crd 8 (p * v.nwords + v.nwords - 1)))
    if popN bits (64 * v.nwords) ≠ hi - lo then throw (fchkReport 4 l (entryAt v.crd 8 (p * v.nwords)))
    return .span lo (hi - lo)
  | 3 =>
    let a := entryAt v.crd v.width p
    let c ← fchkRead rd l a v.width
    if v.size ≤ c then throw (fchkReport 3 l a)
    return .span p 1
  | _ =>
    let (lo, hi) ← pos
    return .runs (← fchkRuns rd v l (hi - lo) lo none)

/-- Do something for `n` positions from `q` upward, at most `fuel` of them. -/
def forSpan (f : Nat → FM Unit) : Nat → Nat → Nat → FM Unit
  | 0, _, _ => pure ()
  | fuel + 1, q, n => if n = 0 then pure () else do f q; forSpan f fuel (q + 1) (n - 1)

/-- Do something `n` times for one position; once, while only the next entry is sought. -/
def forRun (f : Nat → FM Unit) (q : Nat) : Nat → FM Unit
  | 0 => pure ()
  | n + 1 => do
    let seeking := (← getThe FSt).limit.isSome
    f q
    if seeking then pure () else forRun f q n

/-- Do something for each run: a position and how often. -/
def forRuns (f : Nat → FM Unit) : List (Nat × Nat) → FM Unit
  | [] => pure ()
  | (q, n) :: r => do
    forRun f q (min n 5000)
    forRuns f r

/-- `Check(l, p)` of R304 over the levels left. Every child check counts a step, so 5,000 children outlast the limit. -/
def fchkGo (rd : Nat → Nat → WalkM RM Nat) (r : FRec) : Nat → Nat → Nat → FM Unit
  | 0, _, _ => pure ()
  | left + 1, l, p => do
    modifyThe FSt fun f => { f with work := f.work + 1, limit := if f.limit.isNone && 4096 < f.work + 1 then some l else f.limit }
    let n ← fchkCount rd r l l
    -- levels that hold no entries have no next entry
    if n ≤ p || ((← getThe FSt).limit.isSome && (r.levels.drop l).all fun v => v.kind == 0) then return
    let kids ← fchkFibre rd (r.level l) l p n
    match left with
    | 0 => pure ()
    | _ =>
      let f ← getThe FSt
      if f.limit.isSome && (amGet? f.counts (l + 1)).isSome && (r.levels.drop (l + 1)).all fun v => v.kind == 0 then return
      match kids with
      | .span q n => forSpan (fun q => fchkGo rd r left (l + 1) q) (min n 5000) q n
      | .runs rs => forRuns (fun q => fchkGo rd r left (l + 1) q) rs

def execFchk (d a : Reg) (la : Fin 16) : State → Host.Outcome State Fault Refusal :=
  runWord do
    let i : Instr := .fchk d a la
    let (vs, p) ← operands i [a] (some d)
    let va := (vs.getD 0 0).toNat
    alignM va 32
    let e ← get
    let rd := ctxRead e.st.cur e.cx false
    let (w, lv) ← liftR (do
      let b ← rd va 32
      let w ← readWalker rd false b
      return (w, fld (wd (dword b 2)) 0 3))
    let res ← match w with
      | none => pure (fchkReport 6 lv va)
      | some w =>
        let (res, f) ← liftR (((fchkGo (ctxReadN e.st.cur e.cx false) w.frec (w.frec.levels.length - w.level) w.level
          (if w.level = 0 then 0 else w.parent)).run.run { work := 0, counts := [], limit := none }))
        match res, f.limit with
        | .error (r + 1), _ => pure (r + 1)
        | _, none => pure 0
        | _, some l =>
          -- the limit is reached and no entry is left to read: the address is not stated (log 8)
          let (g, s) := (← st).freeWord
          modSt fun _ => s
          pure (fchkReport 5 l g.toNat)
    putDest p (wd res)
    openWindow d la

end Sys2Proof.Machine
end

