-- ==== Sys2Proof/Machine/Mailbox.lean ====
section
/-! DEFINITION. The mailboxes of a partition, on the side of its contexts and of the host (20_host_domain.md R439-R443). -/
namespace Sys2Proof.Machine

/-- Append a message to the outbound mailbox (R438, R442). -/
def State.mbAppend (s : State) (p : Nat) (m : List Byte) : State :=
  let s := if (s.part p).outbox.isEmpty then s.tell p 32 else s
  s.modPart p fun q => { q with outbox := q.outbox ++ [m] }

/-- The outbound mailbox takes another message. -/
def Part.outRoom (q : Part) : Bool := q.outbox.length < 256 && q.outHeld.isEmpty

/-- A queued message at its task's commit (R442): appended, or kept until there is room. -/
def State.mbCommit (s : State) (p : Nat) (m : List Byte) : State :=
  if (s.part p).outRoom then s.mbAppend p m else s.modPart p fun q => { q with outHeld := q.outHeld ++ [m] }

/-- A waiting MBRD still stands before its context. -/
def State.stillReading (s : State) (w : CtxId × Word) : Bool :=
  !(s.slot w.1).halted && (s.ctx? w.1).any fun x => x.pc == w.2

/-- MBRD (R442, R443). -/
def execMbrd (d a : Reg) (la : Fin 16) : State → Host.Outcome State Fault Refusal :=
  runWord do
    let i := Instr.mbrd d a la
    let (vs, p) ← operands i [a] (some d)
    needControl i
    let l ← locate .write (vs.getD 0 0).toNat 64 64
    fenceWait false true l.home
    let e ← get
    let c := e.st.cur
    let q := e.st.part c.core.part
    let act := e.cx.actor c.core
    if e.st.refused c.core l.home .wr l.pa 64 then throw (.faultIn (e.st.countRefusal l.home) cWindow (wd l.va))
    -- a post of this very cycle comes after the take (R447)
    waitUnless (decide (q.postAt ≤ e.st.clock))
    let ahead := (q.mbWait.takeWhile fun w => w.1 != c).filter e.st.stillReading
    match (if ahead.isEmpty then q.inbox else []) with
    | m :: rest =>
      waitUnless (!e.cx.busyAt l.home)
      clearFor act l.home true l.pa 64
      modSt fun s => (s.modPart c.core.part fun q => { q with inbox := rest, mbWait := q.mbWait.filter fun w => w.1 != c && s.stillReading w }).writeNow
        act l.home l.pa m true
      acquire
      putDest p (wd rest.length)
      openWindow d la
    | [] =>
      let here := (c, e.cx.pc)
      if q.mbWait.contains here then stall
      else stallIn ((e.st.modPart c.core.part fun q => { q with mbWait := (q.mbWait.filter fun w => w.1 != c) ++ [here] }).putCtx c e.cx)

/-- MBWR (R166, R442, R443). -/
def execMbwr (a : Reg) : State → Host.Outcome State Fault Refusal :=
  runWord do
    let (vs, _) ← operands (.mbwr a) [a] none
    let va := (vs.getD 0 0).toNat
    faultIf (va % 64 ≠ 0) cAlign (wd va)
    let e ← get
    let m ← liftR (ctxRead e.st.cur e.cx false va 64)
    if !(← queueAction (.mbwr m)) then
      drained
      let s ← st
      waitUnless (s.nbrLanded s.cur.core && (s.part s.cur.core.part).outRoom)
      modSt fun s => s.mbAppend s.cur.core.part m

/-! ### The host's side (R436, R439) -/

/-- The 64 bytes staged for a post. -/
def Pkg.staged (k : Pkg) (p : Nat) : List Byte := amGet (List.replicate 64 0) k.mbin p

/-- The partition is formed. -/
def Part.formed (q : Part) : Bool := q.st == .formed || q.st == .running || q.st == .halted

/-- MBPOST (R436, R439, R455). -/
def State.mbpost (s : State) (g p : Nat) : State :=
  let k := s.pkg g
  let q := s.part p
  let answer (n : Nat) (s : State) : State := s.modPkg g fun k => { k with mbpres := amSet k.mbpres p n }
  if !k.ready || !q.formed then answer 2 s
  else if 256 ≤ q.inbox.length then answer 1 (s.modPart p fun q => { q with mbRefused := min 65535 (q.mbRefused + 1) })
  else answer 0 (s.modPart p fun q => { q with inbox := q.inbox ++ [k.staged p], postAt := s.clock + 1 })

/-- MBTAKE (R436, R442): the oldest entry goes; a message that waited for room takes its place. -/
def State.mbtake (s : State) (p : Nat) : State :=
  s.modPart p fun q => match q.outbox with
    | [] => q
    | _ :: r => match q.outHeld with
      | m :: h => { q with outbox := r ++ [m], outHeld := h }
      | [] => { q with outbox := r }

def execMbpost (pkg p : Nat) : State → Host.Outcome State Fault Refusal := runPart p (·.mbpost pkg p)
def execMbtake (_pkg p : Nat) : State → Host.Outcome State Fault Refusal := runPart p (·.mbtake p)

end Sys2Proof.Machine
end

