-- ==== Sys2Proof/Machine/Tasks.lean ====
section
/-! DEFINITION. Tasks: enqueueing, arrival, spilling, dispatch, rounds, commit, and the task instructions
(06_virtual_time.md R141-R180). -/
namespace Sys2Proof.Machine

/-- The task a context runs. -/
def myTask : M (Option Task) := do
  let s ← st
  return s.task? s.cur.core.part (← cx).task

/-- The task of a context that must run one (R180). -/
def needTask (i : Instr) : M Task := do
  match ← myTask with
  | some t => return t
  | none => raise cContext (wordOf i)

/-! ### Enqueueing (R149, R150, R171, R172) -/

/-- The chain of a child at enqueue depth e with timestamp ts (R141, R171). -/
def childChain (t : Option Task) (ts : Nat) : List Nat :=
  match t with
  | none => [ts]
  | some t => t.chain.take (t.edepth - 1) ++ [ts]

/-- The lowest timestamp accepted (R171). -/
def enqFloor (q : Part) (t : Option Task) : Nat :=
  match t with
  | none => q.floor
  | some t =>
    let k := t.depth
    if t.edepth = k then t.chain.getLastD 0
    else if t.edepth = k + 1 then 0
    else t.chain.getD (k - 2) 0 + 1

/-- The core a hint's hash selects (R149). -/
def State.hashedCore (s : State) (c : CoreId) (h : Nat) : CoreId :=
  let vs := (s.part c.part).active.vcore.map (·.1)
  { c with vc := (vs[mixN (h / 128) % max 1 vs.length]?).getD c.vc }
/-- The target core a hint names (R149): the home of the hint, translated as a load of the context's would be and without fault, or a core
chosen by its hash. -/
def hintCore (h : Nat) : M CoreId := do
  let e ← get
  let c := e.st.cur
  let hashed := e.st.hashedCore c.core h
  let pick (d : Option CoreId) : CoreId := match d with
    | some d => if e.st.hasCore d then d else hashed
    | none => hashed
  match e.st.region c.core h with
  | .store d _ => return pick (some d)
  | .mxq _ | .none_ => return hashed
  | .paged =>
    match e.st.translate (.data c.core) (some (.ctx c e.cx.icount)) .read e.cx.priv h with
    | (.miss, s) => throw (.walk c.core.clu (fld (s.part c.core.part).atbl 48 16) h)
    | (.wait, _) => stall
    | (.fault _, s) =>
      set { e with st := s }
      return hashed
    | (.ok t, s) =>
      set { e with st := s }
      return pick ((s.homeOf c.core t h).bind (·.homeCore))

/-- Enqueue one task (R142, R146, R171). -/
def enqueue (p : Plan) (pc ts hint : Nat) (args : List Word) : M Unit := do
  let t ← myTask
  let c ← me
  let q := (← st).part c.core.part
  if pc % 4 ≠ 0 then putDest p 3
  else if ts < enqFloor q t then putDest p 2
  else if q.tasks.length = q.tcfg.pool then putDest p 1
  else
    if t.isNone then
      drained
      waitUnless ((← st).nbrLanded c.core)
    let (u, target, key) ← if hint = 0 then pure (c.core.clu, none, none)
      else do
        let d ← hintCore hint
        pure (d.clu, some d.vc, some (mixN (hint / 128) % 65536))
    waitUnless ((← st).canSend (.core c.core) (.task u) 1)
    let now := (← st).gtime
    -- the ordinal counts what the slot enqueues: another task of the slot in the same nanosecond counts on, so that no two tags are one
    let l := (← st).slot c
    let ord := if l.enqNs = now then l.enqOrd else 0
    modSt fun s => s.modSlot c fun l => { l with enqNs := now, enqOrd := ord + 1 }
    let (id, s) := (← st).newId
    let task : Task :=
      { id := id, chain := childChain t ts, tagNs := now, tagPkg := c.core.pkg, tagVc := c.core.vc, tagSlot := c.slot, tagOrd := ord
        pc := wd pc, hint := wd hint, args := args, clu := u, target := target, key := key, readyAt := now + 10
        parent := t.map (·.id), st := .sent, dispatched := false, settled := false, place := none
        edepth := (childChain t ts).length, rfilter := 0, wfilter := 0, undo := [], logged := [], unlogged := false
        logWait := false, ovf := 0, asked := false, aborting := none, waitedOp := false, actions := [] }
    modSt fun _ => (s.modPart c.core.part fun q => { q with tasks := q.tasks ++ [task] }).send
      c.core.part 0 (.core c.core) (.task u) 1 (.task id u)
    putDest p 0

/-- TENQ (R171). -/
def execTenq (d a b : Reg) : State → Host.Outcome State Fault Refusal :=
  runWord do
    let (vs, p) ← operands (.tenq d a b) [a, b] (some d) [4, 5, 6, 7, 8]
    let x ← cx
    enqueue p (vs.getD 0 0).toNat (vs.getD 1 0).toNat (x.reg 8).toNat [x.reg 4, x.reg 5, x.reg 6, x.reg 7]

/-- TENQD (R172). -/
def execTenqd (d a : Reg) : State → Host.Outcome State Fault Refusal :=
  runWord do
    let (vs, p) ← operands (.tenqd d a) [a] (some d)
    let va := (vs.getD 0 0).toNat
    faultIf (va % 64 ≠ 0) cAlign (wd va)
    let e ← get
    let b ← liftR (ctxRead e.st.cur e.cx false va 64)
    if dword b 7 ≠ 0 then putDest p 4
    else enqueue p (dword b 0) (dword b 1) (dword b 2) ((List.range 4).map fun k => wd (dword b (3 + k)))

/-! ### The queues of a cluster (R146-R148, R151) -/

/-- Task-queue entries held in a cluster (R147). -/
def Part.heldEntries (q : Part) (u : CluId) : Nat :=
  (q.tasks.filter fun t => t.clu == u && t.st != .sent && t.st != .spilled).length
/-- Commit-queue entries held in a cluster (R147). -/
def Part.commitEntries (q : Part) (u : CluId) : List Task := q.tasks.filter fun t => t.clu == u && t.st == .finished

/-- Tasks in precedence order (R142). -/
def byPrecedence (l : List Task) : List Task := sortBy (fun p q => !q.precedes p) l

/-- The task of a partition that precedes the others of a list. -/
def firstTask : List Task → Option Task
  | [] => none
  | t :: r => some (r.foldl (fun m u => if u.precedes m then u else m) t)

/-- Remove a task (R146). -/
def State.removeTask (s : State) (p id : Nat) : State := s.modPart p fun q => { q with tasks := q.tasks.filter (·.id != id) }

/-- A context to carry the unit's accesses: the cluster's lowest core (R239). -/
def State.unitCore (s : State) (u : CluId) : CoreId := (s.cluCores u).headD { part := u.part, pkg := u.pkg, vc := u.clu * 8 }

/-- A request of a task unit for the record in a place of the overflow region (R148, R239): what it leaves where the place cannot be reached
yet, or not at all, which stays pending. DESIGN CHOICE (log 128): the unit translates at supervisor level. -/
def State.unitAsk (s : State) (u : CluId) (k : TKind) (i task : Nat) (op : ReqOp) : Except State State :=
  let va := ((s.part u.part).tcfg.ovf + 64 * i) % 2 ^ 64
  let c := s.unitCore u
  match s.resolve c (.unit u) (some (.unit u)) k .supervisor va 64 with
  | (.miss, _) => .error (s.startWalk u c (fld (s.part u.part).atbl 48 16) va (.unit u))
  | (.wait, _) => .error s
  | (.fault f, s) => .error (s.modCluster u fun k => { k with unitTrap := some (f, wd va), unitTaken := false, unitTry := false })
  | (.ok l, s) =>
    let target := match op with | .load _ => l.reader.agent | _ => l.home.agent
    .ok ((s.modCluster u fun k => { k with unitTry := false }).send u.part 0 (.task u) target (match op with | .load _ => 0 | _ => 1)
      (.req { src := { core := c, slot := 0 }, acc := task, va := va, pa := l.pa, home := l.home, op := op, task := none, posted := none
              aseq := 0, replicated := match op with | .load _ => l.repl | _ => none, via := .unit u }))

/-- What stays of a state in which a unit's transfer did not happen: the walks it awaits, or its trap. -/
def State.unitBack (s t : State) (u : CluId) : State :=
  { s with walks := t.walks, nextId := t.nextId }.modCluster u fun k => 
    { k with unitTrap := (t.cluster u).unitTrap, unitTaken := (t.cluster u).unitTaken, unitTry := (t.cluster u).unitTry }

/-- Spill tasks to the overflow region (R148). The layout of a record is not given, and its bytes are free. -/
def State.spill (u : CluId) : List Task → State → Except State State
  | [], s => .ok s
  | t :: r, s =>
    let used := ((s.part u.part).tasks.filter fun t => t.st == .spilled).map (·.ovf)
    let i := ((List.range (used.length + 1)).find? fun i => !used.contains i).getD 0
    let (b, s) := s.freeBytes 64
    match s.unitAsk u .write i t.id (.store b) with
    | .error s => .error s
    | .ok s => State.spill u r ((s.modTask u.part t.id fun t => { t with st := .spilled, ovf := i, asked := false }).bump u 5 1)

/-- Entries of a cluster that are held, or that records asked back will take (R148). -/
def Part.entriesTaken (q : Part) (u : CluId) : Nat := q.heldEntries u + (q.tasks.filter fun t => t.clu == u && t.st == .spilled && t.asked).length
/-- The unit's transfers need no further try (R239). -/
def State.unitIdle (s : State) (u : CluId) : State := s.modCluster u fun k => { k with unitTry := false }
/-- A task has arrived at a cluster and waits to be queued. -/
def State.taskWaits (s : State) (u : CluId) : Bool :=
  s.net.any fun k => k.stage == .ready && match k.msg with | .task _ v => v == u | _ => false

/-- TASK_ARRIVAL (R148, R159, R168): dropped where its parent's abort has discarded the task, else queued, spilling where the entries are all
taken. -/
def State.taskArrival (s : State) (id : Nat) : State :=
  match s.deliverable id with
  | some k => match k.msg with
    | .task t u =>
      let p := u.part
      match s.task? p (some t) with
      | none => (s.dropPkt id).unitIdle u
      | some _ =>
        if (s.cluster u).unitTrap.isSome then s
        else if (s.part p).entriesTaken u < 4096 then ((s.dropPkt id).modTask p t fun y => { y with st := .queued }).unitIdle u
        else
          let here := s.modTask p t fun y => { y with st := .queued }
          let cand := byPrecedence ((here.part p).tasks.filter fun y => y.clu == u && y.st == .queued && !y.dispatched)
          match State.spill u (cand.drop (cand.length - 256)) (here.dropPkt id) with
          | .ok s => s.unitIdle u
          | .error t => s.unitBack t u
    | _ => s
  | none => s

/-- A hint key is free in a cluster (R150). -/
def Part.keyFree (q : Part) (u : CluId) (t : Task) : Bool :=
  t.key.isNone || !q.tasks.any fun y => y.clu == u && y.st == .running && y.key == t.key

/-- Ask for spilled records (R148): each comes back when its answer lands. -/
def State.refill (u : CluId) : List Task → State → State
  | [], s => s
  | t :: r, s => match s.unitAsk u .read t.ovf t.id (.load 64) with
    | .error t => s.unitBack t u
    | .ok s => State.refill u r (s.modTask u.part t.id fun t => { t with asked := true })

/-- TASK_REFILL (R148). -/
def State.taskRefill (s : State) (u : CluId) : State :=
  let q := s.part u.part
  let mine := q.tasks.filter fun t => t.clu == u && t.st == .spilled
  let asked := (mine.filter (·.asked)).length
  let held := q.entriesTaken u
  let idle := !q.tasks.any fun t => t.clu == u && t.st == .queued && q.keyFree u t
  if (s.cluster u).unitTrap.isSome || !q.live || 4096 ≤ held || !(held < 3072 || (idle && asked = 0)) || mine.all (·.asked) then (if s.taskWaits u then s else s.unitIdle u)
  else State.refill u ((byPrecedence (mine.filter (!·.asked))).take (min (256 - asked) (4096 - held))) s

/-- LENT slots of a core without a task. -/
def State.lentFree (s : State) (c : CoreId) : Bool := (slotsOf c).any fun k => (s.slot k).state == .lent && (s.ctx? k).isNone

/-- A task may run on a core of its cluster (R149). -/
def State.mayRun (s : State) (c : CoreId) (t : Task) : Bool :=
  match t.target with
  | none => true
  | some v => v == c.vc || (!s.lentFree { c with vc := v } && ((s.cluCores c.clu).find? s.lentFree) == some c)

/-- The state a task starts in (R152). -/
def taskCtx (q : Part) (c : CtxId) (t : Task) : Ctx :=
  let regs : List (Nat × Word) := [(2, wd (0x00FE000000000000 + q.tcfg.stkoff + c.slot * q.tcfg.stksz)), (3, q.taskcfg), (8, t.hint)] ++
    (List.range 4).map fun k => (4 + k, t.args.getD k 0)
  { Ctx.blank c.core c.slot .lent with
    regs := regs.foldl (fun (r : Vector Word 32) x => r.set (Fin.ofNat 32 x.1) x.2) (Vector.replicate 32 0)
    pc := t.pc, srkey := q.tcfg.srkey, srctr := wd (t.chain.getLastD 0), task := some t.id }

/-- TASK_DISPATCH (R149-R152, R159): aborts that have waited are carried out, and the task that precedes the others takes an empty LENT
slot. -/
def State.taskDispatch (s : State) (c : CtxId) : State :=
  let p := c.core.part
  let s := s.endAborts p
  let q := s.part p
  if !q.live || (s.slot c).state != .lent || (s.ctx? c).isSome || c.slot = 0 then s
  else
    match firstTask (q.tasks.filter fun t => t.clu == c.core.clu && t.st == .queued && t.aborting.isNone && t.readyAt ≤ s.gtime && q.keyFree c.core.clu t &&
        s.mayRun c.core t) with
    | none => s
    | some t =>
      let s := s.modTask p t.id fun t => { t with
        st := .running, dispatched := true, settled := false, place := some c, edepth := t.depth, rfilter := 0, wfilter := 0 }
      s.putCtx c (taskCtx q c t)

/-! ### Commit (R161-R163, R166) -/

/-- The store of a TDEFER as a request of the place its task ran in. -/
def deferReq (c : CtxId) (va pa : Nat) (home : Home) (v : Word) : Req :=
  { src := c, acc := 0, va := va, pa := pa, home := home, op := .store (toBytes v.toNat 8), task := none
    posted := none, aseq := 0, replicated := none, via := .ctx }
/-- A committed TDEFER store still waits at a home. -/
def State.deferPending (s : State) (h : Home) : Bool :=
  s.net.any (fun k => match k.msg with | .req r => r.acc == 0 && r.via == .ctx && r.home == h | _ => false) ||
  s.homeWrites.any fun w => w.req.acc == 0 && w.req.via == .ctx && w.req.home == h
/-- Perform a queued action at its task's commit (R166, R179, R224): a store is performed in that instant at the home its TDEFER translated it to, and
may be refused there. One that must wait at its home (R189, R195) stands there first in its turn, as do those after it. -/
def State.doAction (s : State) (c : CtxId) (a : Action) : State :=
  match a with
  | .wake w => s.sendWake c w
  | .mbwr m => s.mbCommit c.core.part m
  | .defer va pa home _ v =>
    let r := deferReq c va pa home v
    if s.deferPending home || s.heldUp r.actor home true pa 8 then s.send c.core.part 0 home.agent home.agent 0 (.req r)
    else if s.refused c.core home .wr pa 8 then s.countRefusal home
    else (s.writeNow r.actor home pa (toBytes v.toNat 8) true).thereAndBack c.core.part 0 1 (.core c.core) home.agent

/-- A finished task commits (R162). -/
def State.commit (s : State) (p id : Nat) : State :=
  match s.task? p (some id) with
  | none => s
  | some t =>
    let c : CtxId := t.place.getD default
    let s := (s.freeLog t).removeTask p id
    let names := ((s.part p).shadows.filter fun h => h.owner == some id).map (·.name)
    let s := if names.isEmpty then s else (s.startPublish p (some id) names [] c.core .dom).2
    let s := (t.actions.map (·.2)).foldl (fun s a => s.doAction c a) s
    (s.modPart p fun q => { q with floor := max q.floor (t.chain.headD 0) }).bump t.clu 0 1

/-- The tasks whose abort must wait, which the TDEFER stores of a task meet at its commit (R158, R159). -/
def State.defersMeet (s : State) (p : Nat) (t : Task) : List Nat :=
  (t.actions.flatMap fun a => match a.2 with
    | .defer _ pa _ _ _ => s.victims p none true (sectorsOf pa 8)
    | _ => []).filter fun id => id != t.id && !s.mayAbort p id
/-- Stop them. -/
def State.stopAll (s : State) (p : Nat) (l : List Nat) : State := l.foldl (fun s id => s.stopTask .conflict true p id) s

/-- The mark a MARK value is taken at (R425). -/
def markAt (w : Word) : Nat := (w.toNat + 255) / 256 * 256

/-- The cadence of a partition's rounds, in clock ticks (R161). -/
def Part.cadence (q : Part) : Nat := (if q.active.pkg.length ≤ 1 then 256 else 4000) * Config.ccPerNs

/-- The first clock at or after another at which a partition starts a round: its rounds run at the GTIME multiples of its cadence (R161). -/
def Part.roundFrom (q : Part) (clock : Nat) : Nat := ceilDiv clock q.cadence * q.cadence

/-- EQUINOX_ROUND (R161): a round starts. -/
def State.equinoxRound (s : State) (p : Nat) : State :=
  let s := s.endAborts p
  let q := s.part p
  if q.live && q.round.isNone && q.nextRound ≤ s.clock then
    s.setPart p { q with round := some s.clock, nextRound := q.roundFrom (s.clock + 1) }
  else s

/-- A round of the partition has come to the end of the time it completes within (R161). -/
def Part.roundDue (q : Part) (clock : Nat) : Bool := q.live && q.round.any fun t => t + q.cadence ≤ clock
/-- A core of the partition has performed an access at itself in this cycle, which a round that commits now would follow (R168). -/
def State.ownNow (s : State) (p : Nat) : Bool := s.cores.any fun k => (coreOfKey k.1).part == p && k.2.ownAt == s.clock + 1

/-- The least unfinished task of a partition (R161). -/
def Part.least (q : Part) : Option Task := firstTask (q.tasks.filter (·.unfinished))
/-- The first task that a round commits now (R162): finished, and preceding every unfinished one. -/
def Part.toCommit (q : Part) : Option Task :=
  firstTask (q.tasks.filter fun t => t.st == .finished && t.aborting.isNone && (match q.least with | none => true | some u => t.precedes u))
/-- The commits of a round, in precedence order (R162): a TDEFER store of one may abort a finished task that follows it. -/
def commitAll (p : Nat) : Nat → State → State
  | 0, s => s
  | n + 1, s => match (s.part p).toCommit with
    | some t => commitAll p n (s.commit p t.id)
    | none => s

/-- ROUND_COMPLETE (R161-R163, R168, R224): finished tasks below GVT commit in precedence order, and the least unfinished task settles. While the
round may still wait, it does so for the accesses of tasks that its TDEFER stores abort (R159). -/
def State.roundComplete (s : State) (p : Nat) : State :=
  let s := s.endAborts p
  let q := s.part p
  let due := q.roundDue s.clock
  if q.round.isNone || !q.live || (!due && s.ownNow p) then s
  else
    let met := if due then [] else
      (q.tasks.filter fun t => t.st == .finished && (match q.least with | none => true | some u => t.precedes u)).flatMap (s.defersMeet p)
    if !met.isEmpty then s.stopAll p met
    else
      let s := commitAll p q.tasks.length s
      let least := (s.part p).least
      let s := match least with
        | some (u : Task) => s.modTask p u.id fun (t : Task) => if t.st == TaskSt.running && t.aborting.isNone then { t with settled := true } else t
        | none => s
      s.modPart p fun q => { q with gvt := least.map fun (u : Task) => u.chain.headD 0, round := none }

/-! ### The instructions (R173-R179) -/

/-- TDONE (R164, R173). -/
def execTdone : State → Host.Outcome State Fault Refusal :=
  runWord do
    let t ← needTask .tdone
    let s ← st
    let c := s.cur
    waitUnless (s.quiet c (← cx))
    let p := c.core.part
    if t.settled then
      let met := s.defersMeet p t
      if met.isEmpty then throw (.done ((s.clearTaskSlot c).commit p t.id)) else throw (.leave fun s => s.stopAll p met)
    else
      let held := (s.part p).commitEntries t.clu
      let last := held.foldl (fun m u => if m.precedes u then u else m) t
      if held.length < 512 then throw (.done ((s.clearTaskSlot c).modTask p t.id fun t => { t with st := .finished }))
      else if !s.mayAbort p last.id then throw (.leave fun s => s.stopTask .capacity true p last.id)
      else
        let s := s.abort .capacity false p last.id
        -- the abort may have reached the task itself
        match s.task? p (some t.id) with
        | some y =>
          if y.st == .running && y.place == some c then
            throw (.done ((s.clearTaskSlot c).modTask p t.id fun t => { t with st := .finished }))
          else throw (.done s)
        | none => throw (.done s)

/-- TSETTLE (R174). -/
def execTsettle : State → Host.Outcome State Fault Refusal :=
  runWord do
    let s ← st
    waitUnless !(s.speculative s.cur.core.part (← cx))

/-- TABORT (R175). -/
def execTabort (a : Reg) : State → Host.Outcome State Fault Refusal :=
  runWord do
    let i := Instr.tabort a
    let (vs, _) ← operands i [a] none
    let t ← needTask i
    faultIf (t.settled && (t.unlogged || t.waitedOp)) cContext (wordOf i)
    let s ← st
    let p := s.cur.core.part
    waitUnless !(s.taskBusy p t)
    if s.mayAbort p t.id then throw (.done ((s.abort .own (vs.getD 0 0 != 0) p t.id).bump t.clu 3 1))
    else throw (.leave fun s => s.stopTask .own false p t.id)

/-- TSRD (R176). -/
def execTsrd (d a : Reg) : State → Host.Outcome State Fault Refusal :=
  runWord do
    let i := Instr.tsrd d a
    let (vs, p) ← operands i [a] (some d)
    let n := (vs.getD 0 0).toNat
    faultIf (n = 7 || 25 < n) cIllegal (wordOf i)
    let s ← st
    let u := s.cur.core.clu
    let q := s.part u.part
    let k := (s.cluster u).counters
    let t ← myTask
    let v : Nat :=
      if 8 ≤ n ∧ n ≤ 15 then ((t.map (·.chain)).getD []).getD (n - 8) 0
      else if 16 ≤ n ∧ n ≤ 22 then k.getD (n - 16) 0
      else match n with
        | 0 => (t.map fun t => t.chain.getLastD 0).getD 0
        | 1 => (t.map (·.depth)).getD 0
        | 2 => (t.map (·.edepth)).getD 1
        | 3 => b2n ((t.map fun t => !t.settled).getD false)
        | 4 => q.tasks.length
        | 5 => (t.map fun t => t.actions.length).getD 0
        | 6 => b2n ((t.map (·.unlogged)).getD false)
        | 23 => q.heldEntries u
        | 24 => (q.commitEntries u).length
        | _ => k.getD 7 0
    putDest p (wd v)

/-- TGVT (R177, R229). -/
def execTgvt (d : Reg) : State → Host.Outcome State Fault Refusal :=
  runWord do
    let (_, p) ← operands (.tgvt d) [] (some d)
    let s ← st
    acquire
    putDest p (match (s.part s.cur.core.part).gvt with | some t => wd t | none => BitVec.allOnes 64)

/-- Move the enqueue depth of a task (R178). -/
def moveDepth (i : Instr) (d : Reg) (ok : Task → Bool) (f : Nat → Nat) (no : Word) : M Unit := do
  let (_, p) ← operands i [] (some d)
  let t ← needTask i
  if ok t then
    modSt fun s => s.modTask s.cur.core.part t.id fun t => { t with edepth := f t.edepth }
    putDest p 0
  else putDest p no

/-- TNEST (R178). -/
def execTnest (d : Reg) : State → Host.Outcome State Fault Refusal :=
  runWord (moveDepth (.tnest d) d (fun t => t.edepth + 1 ≤ min 8 (t.depth + 1)) (· + 1) 5)

/-- TLEAVE (R178). -/
def execTleave (d : Reg) : State → Host.Outcome State Fault Refusal :=
  runWord (moveDepth (.tleave d) d (fun t => max 1 (t.depth - 1) ≤ t.edepth - 1 && 1 < t.edepth) (· - 1) 6)

/-- TDEFER (R179). -/
def execTdefer (a b : Reg) : State → Host.Outcome State Fault Refusal :=
  runWord do
    let (vs, _) ← operands (.tdefer a b) [a, b] none
    let l ← locate .write (vs.getD 0 0).toNat 8 8
    let v := vs.getD 1 0
    if !(← queueAction (.defer l.va l.pa l.home l.page v)) then
      autoMigrate l
      fenceWait false true l.home
      trackM true l.pa 8
      issue { l := l, op := .store (toBytes v.toNat 8), dest := .none, grp := 0, posted := none }

def execTaskArrival (m : Nat) : State → Host.Outcome State Fault Refusal := runEvent (·.taskArrival m)
def execTaskRefill (u : CluId) : State → Host.Outcome State Fault Refusal := runEvent (·.taskRefill u)
def execTaskDispatch (c : CtxId) : State → Host.Outcome State Fault Refusal := runEvent (·.taskDispatch c)
def execEquinoxRound (p : Nat) : State → Host.Outcome State Fault Refusal := runPart p (·.equinoxRound p)
def execRoundComplete (p : Nat) : State → Host.Outcome State Fault Refusal := runPart p (·.roundComplete p)

end Sys2Proof.Machine
end

