-- ==== Sys2Proof/Machine/SysRegs.lean ====
section
/-! DEFINITION. Reading and writing system registers (18_traps.md R400, R408, R411-R413; 03_numbers.md R79-R81;
05_contexts.md R118, R119, R126; 06_virtual_time.md R144, R145; 07_memory_homes.md R184, R187, R192, R207, R208;
09_translation.md R231; 10_vector_pool.md R249, R254; 11_streams.md R267, R274; 13_matrix_unit.md R307-R309; 14_copy_engines.md
R340; 15_rings.md R360, R361; 16_network.md R376, R382, R384; 19_partitions_time.md R424, R425; 20_host_domain.md R440;
21_winter_tables.md R452, R453; 22_bringup_power.md R456, R461). -/
namespace Sys2Proof.Machine

/-- Keep the bits of a mask. -/
def keep (v : Word) (mask : Nat) : Word := v &&& wd mask
/-- A mask of n bits from bit lo. -/
def mask (lo n : Nat) : Nat := (2 ^ n - 1) * 2 ^ lo

/-! ### Reading -/

/-- DEVSTAT (R456). -/
def Pkg.devstat (k : Pkg) : Word := wd (k.fwver * 2 ^ 32 + k.oos * 2 ^ 12 + k.phase * 2 ^ 4 + b2n k.ready)
/-- PWRSTAT (R461). -/
def Pkg.pwrstat (k : Pkg) : Word :=
  wd (min 255 k.tmax * 2 ^ 48 + k.power % 4096 * 2 ^ 36 + b2n (k.heatSlow.any id) * 2 ^ 29 + b2n (k.capSlow.any id) * 2 ^ 28 +
    (List.range 4).foldl (fun n d => n + k.steps.getD d 0 * 2 ^ (4 * d)) 0)
/-- A register held per context, as its context stands (R412). -/
def State.readCtxReg (s : State) (c : CtxId) (x : Ctx) (r : SysReg) : Word :=
  let t := s.task? c.core.part x.task
  let bound := x.streams.toList.any (·.isSome)
  match r with
  | .tcause => x.tcause | .tval => x.tval | .epc => x.epc
  | .tstat => wd (b2n x.late * 16 + b2n x.heldBit * 8 + x.epriv % 4 * 2 + b2n x.inh)
  | .tsave0 => x.tsave0 | .tsave1 => x.tsave1
  | .ctxid => x.identity c | .vcore => wd c.core.vc
  | .fflags => x.fflags.setWidth 64 | .frm => x.frm.setWidth 64 | .srkey => x.srkey | .srctr => x.srctr
  | .migcfg => wd (b2n x.rah * 2 ^ 15 + x.thresh % 256)
  | .tstamp => wd ((t.map fun t => t.chain.getLastD 0).getD 0)
  | .tdepth => wd ((t.map (·.depth)).getD 0)
  | .vctl => wd (b2n x.swst)
  | .qhvec => if bound then x.qhvec else 0
  | .qhpc => if bound then x.qhpc else 0
  | .qhval => if bound then x.qhval else 0
  | .mxs => x.mxs
  | .barc => wd (b2n x.barPend * 256 + x.barNo % 32)
  | _ => 0

/-- The vector and stream slots of a core as its control context sees them: the free count and HELD0 (R249, R267). -/
def State.coreGrants (s : State) (c : CoreId) : Nat × Nat :=
  let g (n : Nat) : Nat := ((s.ctx? { core := c, slot := n }).map (·.grant)).getD 0
  (16 - (List.range 11).foldl (fun n k => n + g k) 0 / 8, g 0 / 8)
def State.coreStreams (s : State) (c : CoreId) : Nat × Nat :=
  let g (n : Nat) : Nat := ((s.ctx? { core := c, slot := n }).map Ctx.qslots).getD 0
  (32 - (List.range 11).foldl (fun n k => n + g k) 0, g 0)
/-- Landing buffers not held (R376). -/
def State.freeBuffers (s : State) (c : CoreId) : Nat :=
  128 - s.buffersHeld { core := c, slot := 0 } ((s.ctx? { core := c, slot := 0 }).getD (Ctx.blank c 0 .control))

/-- DBGCTL (R408). -/
def Slot.dbgctl (l : Slot) : Word :=
  wd (l.bcode.toNat * 2 ^ 12 + l.reason % 8 * 2 ^ 9 + b2n l.halted * 2 ^ 8 + b2n l.brken * 2 + b2n l.step)

/-- NETCNT (R384): a PORT or CNT that names no counter reads 0. -/
def State.netcnt (s : State) (c : CoreId) : Word :=
  let v := (s.core c).netsel
  let d : CoreId := { c with vc := fld v 0 11 }
  if s.hasCore d && fld v 12 4 < 12 && fld v 16 4 < 8 then wd (amGet 0 (s.pkg (s.logPkg d.part d.pkg)).netcnt (netKey (s.physCore d) (fld v 12 4) (fld v 16 4)) % 2 ^ 64)
  else 0

/-- A register held per slot, core, cluster, partition or device (R412). -/
def State.readShared (s : State) (c : CtxId) (r : SysReg) : Word :=
  let k := s.core c.core
  let q := s.part c.core.part
  let g := s.pkg (s.logPkg c.core.part c.core.pkg)
  match r with
  | .dbgctl => (s.slot c).dbgctl
  | .win n => k.win.get n | .winref => k.winref
  | .l2cfg => wd (s.eff c.core * 16 + k.l2size)
  | .rlseq => k.rlseq
  | .vpcfg => let f := s.coreGrants c.core; wd (f.1 * 2 ^ 16 + f.2 * 2 ^ 8 + k.vpResv)
  | .qscfg => let f := s.coreStreams c.core; wd (f.1 * 2 ^ 16 + f.2 * 2 ^ 8 + k.qsResv)
  | .mxown => k.mxown.setWidth 64
  | .mxring n => (k.rings.get n).word
  | .lbst => wd (k.lbWaits % 2 ^ 32 * 256 + s.freeBuffers c.core)
  | .netsel => k.netsel | .netcnt => s.netcnt c.core
  | .jflt => k.jflt | .orphan => k.orphan | .dbgsel => k.dbgsel
  | .tvec => q.tvec | .taskcfg => q.taskcfg | .atbl => q.atbl | .uplog => q.uplog | .spbase => q.spbase
  | .spsize => q.spsize
  | .spfree => if q.regionBase = 0 then 0 else wd q.poolFree.length
  | .pmctl => q.pmctl | .hgrp n => q.hgrp.get n
  | .gtime => wd s.gtime | .devstat => g.devstat
  | .gsmark => q.gsmark | .gsarea => q.gsarea | .gscfg => wd q.gscfg
  | .gsstat => wd (q.gsErr % 65536 * 2 ^ 48 + q.gsHardq * 2 ^ 32 + q.gsLags * 2 ^ 16 + q.gsSlices % 65536)
  | .mbstat => wd (q.mbRefused * 2 ^ 48 + q.outbox.length * 2 ^ 16 + q.inbox.length)
  | .cfgsel => g.cfgsel | .cfgdat => g.configWord (fld g.cfgsel 0 6)
  | .ltsel => g.ltsel | .ltdat => g.lifeValue g.ltsel
  | .pwrcap => wd g.pwrcap | .pwrstat => g.pwrstat
  | _ => 0

/-- Any register but DBGDAT: nothing of a context register where there is no context. -/
def State.readReg (s : State) (c : CtxId) (r : SysReg) : Option Word :=
  if r.held = .context then (s.ctx? c).map fun x => s.readCtxReg c x r else some (s.readShared c r)

/-! ### Writing -/

/-- Write a context register at a level (R400, R413). -/
def Ctx.writeReg (x : Ctx) (lvl : Priv) (r : SysReg) (v : Word) : Ctx :=
  match r with
  | .tcause => { x with tcause := keep v (2 ^ 63 + 255) }
  | .tval => { x with tval := v }
  | .epc => { x with epc := v }
  | .tstat => { x with late := bitAt v 4, heldBit := bitAt v 3, inh := bitAt v 0
                       epriv := if fld v 1 2 ≤ lvl.code then fld v 1 2 else x.epriv }
  | .tsave0 => { x with tsave0 := v }
  | .tsave1 => { x with tsave1 := v }
  | .fflags => { x with fflags := v.setWidth 5 }
  | .frm => if fld v 0 3 ≤ 4 then { x with frm := v.setWidth 3 } else x
  | .srkey => { x with srkey := v }
  | .srctr => { x with srctr := v }
  | .migcfg => { x with rah := bitAt v 15, thresh := fld v 0 8 }
  | .vctl => { x with swst := bitAt v 0 }
  | .qhvec => if x.streams.toList.any (·.isSome) then { x with qhvec := keep v (mask 2 54) } else x
  | _ => x

/-- What a change of the effective L2 size, or of where the slice starts, does to a core (R187), from the base, EFF and LOGBASE it had before: what
the slice held is written back, and the bytes of the old L2 region that lie below the new L2BASE pass into local memory as zero. -/
def State.resizeL2 (s : State) (c : CoreId) (old oldEff oldLog : Nat) : State :=
  let new_ := min (s.l2Base c) oldLog
  if s.l2Base c = old ∧ s.eff c = oldEff then s
  else
    let lo := s.storePa c old
    let hi := s.storePa c new_
    let s := { s with dirty := s.dirty.filter fun d => d.2 != .core c }
    if new_ ≤ old then s
    else { s with mem := s.mem.filter fun k => !(lo ≤ k.1 && k.1 < hi)
                  openBytes := s.openBytes.flatMap (cutRange lo hi)
                  poison := s.poison.filter fun g => !(lo ≤ 32 * g && 32 * g < hi) }

/-- L2CFG_WRITE (R187). -/
def State.l2cfgWrite (s : State) (c : CoreId) (v : Word) : State :=
  (s.modCore c fun k => { k with l2size := fld v 0 4 }).resizeL2 c (s.l2Base c) (s.eff c) (s.logBase c.part)

/-- The configuration a record gives (R144). -/
def taskCfgOf (b : List Byte) : TaskCfg :=
  let off := dword b 2
  let ulog := dword b 4
  let bad := 2 ^ 20 ≤ off || (b.drop 48).any (· != 0)
  { ovf := dword b 0, pool := if bad then 0 else dword b 1, stkoff := off % 2 ^ 20, stksz := dword b 3
    ulog := if 4 ≤ ulog ∧ ulog ≤ 64 ∧ ulog % 4 = 0 then ulog else 16, srkey := wd (dword b 5) }

/-- The record read takes effect in every task unit, and every core resizes (R144, R187). -/
def State.applyTaskcfg (s : State) (p : Nat) (v : Word) (b : List Byte) : State :=
  let cores := dedup (s.partCores p ++ s.coreIds.filter fun c => c.part == p)
  let olds := cores.map fun c => (c, s.l2Base c, s.eff c)
  let log_ := s.logBase p
  let s := s.modPart p fun q => { q with taskcfg := keep v (mask 6 50), tcfg := taskCfgOf b }
  olds.foldl (fun s x => s.resizeL2 x.1 x.2.1 x.2.2 log_) s

/-- ATBL_WRITE (R231). -/
def State.atblWrite (s : State) (p : Nat) (v : Word) : State :=
  s.modPart p fun q => { q with atbl := keep v (mask 12 52 + 1) }
/-- WINDOW_WRITE (R192, R194). -/
def State.windowWrite (s : State) (c : CoreId) (n : Fin 4) (v : Word) : State :=
  (s.judgeBefore c).modCore c fun k => { k with win := k.win.set n (keep v (mask 58 6 + mask 16 13 + mask 0 13)) }
/-- UPLOG_WRITE (R207): ignored while a log holds a record. -/
def State.uplogWrite (s : State) (p : Nat) (v : Word) : State :=
  if s.cores.any fun k => (coreOfKey k.1).part == p && k.2.logCount != 0 then s
  else s.modPart p fun q => { q with uplog := keep v (mask 16 40 + 255) }

/-- PUBLISH_REGION_WRITE (R340): ignored while a shadow is pending or a job outstanding; else every map entry is written and
every pool frame is free. -/
def State.publishRegionWrite (s : State) (p : Nat) (size : Bool) (v : Word) : State :=
  if !(s.part p).shadows.isEmpty || s.jobs.any (fun j => j.issuer.core.part == p) then s
  else
    let q := s.part p
    let q := if size then { q with spsize := keep v (mask 0 48) } else { q with spbase := keep v (mask 19 33) }
    if q.regionBase = 0 then s.setPart p { q with poolFree := [] }
    else
      let m := q.mapFrames
      let s := s.setPart p { q with poolFree := (List.range q.poolSize).map (m + q.names + ·) }
      { s with mem := (List.range q.names).foldl (fun mem i => Memory.writeN mem (q.mapAt i) (toBytes (m + i) 4)) s.mem }

/-- GSMARK_WRITE (R425, R433): held for the next slice while the partition is swapped out, and in the cycle of the mark it would replace. -/
def State.gsmarkWrite (s : State) (p : Nat) (v : Word) : State :=
  s.modPart p fun q => if q.phase = .inSlice ∧ (q.gsmark = 0 ∨ s.gtime < markAt q.gsmark) then { q with gsmark := v } else { q with gsmarkHeld := some v }
/-- PWRCAP_WRITE (R461). -/
def State.pwrcapWrite (s : State) (g : Nat) (v : Word) : State :=
  s.modPkg g fun k => if 1000 ≤ fld v 0 12 ∧ fld v 0 12 ≤ 2500 then { k with pwrcap := fld v 0 12 } else k

/-- MXOWN: a field that names no owner keeps its value (R307). -/
def mxownWrite (old : BitVec 32) (v : Word) : BitVec 32 :=
  BitVec.ofNat 32 ((List.range 8).foldl (fun n i =>
    let f := fld v (4 * i) 4
    n + (if 11 ≤ f ∧ f ≤ 14 then old.toNat / 16 ^ i % 16 else f) * 16 ^ i) 0)

/-- DEBUG_HALT (R411): the target stands between two instructions and halts, or, where its next instruction is about to raise a fault, once it
has entered its handler (R420). -/
def State.debugHalt (s : State) (t : CtxId) : State :=
  if t.slot < 11 && !(s.slot t).halted then
    match s.ctx? t with
    | some x => if x.faultWaits then s.putCtx t { x with haltReq := true } else s.halt t 3
    | none => s
  else s
/-- DEBUG_RESUME (R411). -/
def State.debugResume (s : State) (t : CtxId) : State :=
  if t.slot < 11 && (s.slot t).halted then s.modSlot t fun l => { l with halted := false } else s
/-- DEBUG_RESUME_ONE (R411). -/
def State.debugResumeOne (s : State) (t : CtxId) : State :=
  if t.slot < 11 && (s.slot t).halted then (s.debugResume t).modCtx t fun x => { x with stepOne := true } else s

/-- The target DBGSEL names (R411). DESIGN CHOICE (log 129): SLOT values 11 to 15, which the rule gives no context, are kept; their commands do
nothing, and DBGDAT reads 0 and ignores writes. -/
def dbgTarget (part : Nat) (v : Word) : CtxId := { core := { part := part, pkg := fld v 32 6, vc := fld v 21 11 }, slot := fld v 17 4 }

/-- DBGSEL (R411): the selection is kept and the command performed. -/
def State.dbgselWrite (s : State) (c : CoreId) (v : Word) : State :=
  let s := s.modCore c fun k => { k with dbgsel := keep v (mask 17 21 + mask 0 13) }
  let t := dbgTarget c.part v
  if !s.hasCore t.core then s
  else match fld v 61 3 with
    | 1 => s.debugHalt t
    | 2 => s.debugResume t
    | 3 => s.debugResumeOne t
    | _ => s

/-- Write a register held per slot, core, cluster, partition or device that needs no access to memory (R413). -/
def State.writeShared (s : State) (c : CtxId) (r : SysReg) (v : Word) : State :=
  let co := c.core
  let p := co.part
  match r with
  | .dbgctl => s.modSlot c fun l => { l with brken := bitAt v 1, step := bitAt v 0 }
  | .win n => s.windowWrite co n v
  | .l2cfg => s.l2cfgWrite co v
  | .rlseq => s.modCore co fun k => { k with rlseq := v }
  | .vpcfg => s.modCore co fun k => if fld v 0 4 ≤ 8 then { k with vpResv := fld v 0 4 } else k
  | .qscfg => s.modCore co fun k => if fld v 0 5 ≤ 16 then { k with qsResv := fld v 0 5 } else k
  | .mxown => s.modCore co fun k => { k with mxown := mxownWrite k.mxown v }
  | .netsel => s.modCore co fun k => { k with netsel := keep v 0xFF7FF }
  | .dbgsel => s.dbgselWrite co v
  | .tvec => s.modPart p fun q => { q with tvec := keep v (mask 2 54) }
  | .atbl => s.atblWrite p v
  | .uplog => s.uplogWrite p v
  | .spbase => s.publishRegionWrite p false v
  | .spsize => s.publishRegionWrite p true v
  | .pmctl => s.modPart p fun q => { q with pmctl := keep v 1 }
  | .hgrp n => s.modPart p fun q => { q with hgrp := q.hgrp.set n (keep v (mask 0 24)) }
  | .gsmark => s.gsmarkWrite p v
  | .gsarea => s.modPart p fun q => { q with gsarea := keep v (mask 16 36) }
  | .gscfg => s.modPart p fun q => if fld v 0 4 ≤ 12 then { q with gscfg := fld v 0 4 } else q
  | .cfgsel => s.modPkg (s.logPkg p co.pkg) fun k => { k with cfgsel := keep v 63 }
  | .ltsel => s.modPkg (s.logPkg p co.pkg) fun k => { k with ltsel := keep v (mask 0 19) }
  | .pwrcap => s.pwrcapWrite (s.logPkg p co.pkg) v
  | _ => s

/-- The task configuration record, read as a load of the writer (R144). -/
def readTaskcfg (p : Nat) (v : Word) (rd : Nat → M (List Byte)) : M Unit := do
  let q := (← st).part p
  if q.tasks.isEmpty then
    let b ← rd (keep v (mask 6 50)).toNat
    modSt fun s => s.applyTaskcfg p v b

/-- A write of a system register by the issuing context (R413). -/
def writeReg (r : SysReg) (v : Word) : M Unit := do
  let e ← get
  let c := e.st.cur
  match r with
  | .taskcfg => readTaskcfg c.core.part v fun va => do liftR (ctxRead c (← cx) false va 64)
  | .rccmd => match fld v 62 2 with
    | 0 => rccmdLoad v (fld v 0 6)
    | 1 => rccmdStore v (fld v 0 6)
    | 2 => rccmdRelease (fld v 0 6)
    | _ => pure ()
  | .rcrst => rcrstWrite (fld v 0 6)
  | _ =>
    if r.held = .context then modCx fun x => x.writeReg x.priv r v
    else modSt fun s => s.writeShared c r v

/-! ### The instructions (R413) -/

/-- The level of R412 and R413: Privilege at decode. -/
def needLevel (i : Instr) : SysLevel → M Unit
  | .sup => needPriv .supervisor i
  | .fw => needPriv .firmware i
  | _ => pure ()

/-- Reach a register of another context (R411): a control-class message whose reply the instruction waits for. -/
def sendDbg (d : Dest) (v : Option Word) : M Nat := do
  let e ← get
  let c := e.st.cur
  let sel := (e.st.core c.core).dbgsel
  let t := dbgTarget c.core.part sel
  let n := e.cx.accCtr + 1
  let a : Access := { acc := n, seq := e.st.nextId, grp := n, home := none, target := .core t.core, page := none, va := 0, loadLike := v.isNone
                      storeLike := false, dest := d, bytes := 8, pc := e.cx.pc, icount := e.cx.icount, hold := true, buf := false, posted := false
                      seqd := false, got := none, err := none, pend := none, before := if e.before = e.cx.streams then none else some e.before
                      popped := e.popped }
  set { e with st := e.st.send c.core.part 2 (.core c.core) (.core t.core) 0 (.dbg c n t (fld sel 0 13) v), cx := e.cx.addAccess a }
  return n

/-- The target of DBGSEL is of the partition. -/
def dbgThere : M Bool := do
  let s ← st
  let t := dbgTarget s.cur.core.part (s.core s.cur.core).dbgsel
  return s.hasCore t.core && decide (t.slot < 11)

/-- SYSRD (R413). -/
def execSysrd (d : Reg) (n : BitVec 12) : State → Host.Outcome State Fault Refusal :=
  runWord do
    let i := Instr.sysrd d n
    match sysOfNat n.toNat with
    | none => raise cIllegal (wordOf i)
    | some r =>
      needLevel i r.readLevel
      let (_, p) ← operands i [] (some d)
      if r = .dbgdat then
        if ← dbgThere then
          let a ← sendDbg (destOf p false) none
          claimPush p a
        else putDest p 0
      else
        let e ← get
        let s := e.flush
        putDest p ((s.readReg s.cur r).getD 0)

/-- A SYSWR takes two cc of its core's issue slot: no other context issues in the second (R92). -/
def holdSlot : M Unit := modSt fun s => s.modCore s.cur.core fun k => { k with solo := some (s.cur.slot, s.ccAfter s.cur.core 1) }

/-- SYSWR (R413). A write of STEP halts from the next instruction on. -/
def execSyswr (n : BitVec 12) (a : Reg) : State → Host.Outcome State Fault Refusal :=
  runWord do
    let i := Instr.syswr n a
    match sysOfNat n.toNat, (sysOfNat n.toNat).bind SysReg.writeLevel with
    | some r, some lvl =>
      needLevel i lvl
      let (vs, _) ← operands i [a] none
      faultIf (decide (lvl = .ctl) && decide ((← me).slot ≠ 0)) cContext (wordOf i)
      let v := vs.getD 0 0
      match r with
      | .dbgdat => if ← dbgThere then let _ ← sendDbg .none (some v)
      | .dbgctl =>
        holdSlot
        let e ← get
        throw (.done (e.retire.writeShared e.st.cur .dbgctl v))
      | _ => writeReg r v
      holdSlot
    | _, _ => raise cIllegal (wordOf i)

/-! ### Writes for the host and the debugger -/

/-- A write of a register from outside cannot be made yet: an access it makes must wait (R158, R197, R343). -/
def State.outsideWaits (s : State) (c : CoreId) (lvl : Priv) (r : SysReg) (v : Word) : Bool :=
  let held (write : Bool) (va : Nat) : Bool := match (s.resolve c (.data c) none (if write then .write else .read) lvl va 64).1 with
    | .wait => true
    | .ok l => s.heldUp { core := c, task := none } l.home write l.pa 64
    | _ => false
  match r with
  | .taskcfg => (s.part c.part).tasks.isEmpty && held false (keep v (mask 6 50)).toNat
  | .rccmd => (fld v 62 2 = 0 && (s.opsThere c.clu || held false (fld v 6 50 * 64))) || (fld v 62 2 = 1 && held true (fld v 6 50 * 64))
  | _ => false

/-- A read made for a core at a level, its walks at once: the bytes, or a cause. -/
def State.coreRead (s : State) (c : CoreId) (p : Priv) (va n : Nat) : Except Nat (List Byte) × State :=
  match s.resolve c (.data c) none .read p va n with
  | (.ok l, s) => match s.readAt { core := c, task := none } l.home l.pa n with
    | (.data b, s) => (.ok b, s)
    | (.refuse, s) => (.error cWindow, s)
    | (.bad, s) => (.error cMemErr, s)
  | (.fault f, s) => (.error f, s)
  | (.miss, s) | (.wait, s) => (.error cPage, s)

/-- Write a register of a context, slot, core, cluster, partition or device at a level from outside: nothing where it fails. -/
def State.writeAny (s : State) (c : CtxId) (lvl : Priv) (r : SysReg) (v : Word) : Option State :=
  let u := c.core.clu
  match r with
  | .taskcfg =>
    if !(s.part u.part).tasks.isEmpty then some s
    else match s.coreRead c.core lvl (keep v (mask 6 50)).toNat 64 with
      | (.ok b, s) => some (s.applyTaskcfg u.part v b)
      | _ => none
  | .rccmd => match fld v 62 2 with
    | 0 => match s.coreRead c.core lvl (fld v 6 50 * 64) 64 with
      | (.ok b, s) => (blockOf (fld v 0 6) b).map fun k => s.setBlock u (fld v 0 6) k
      | _ => none
    | 1 => match s.resolve c.core (.data c.core) none .write lvl (fld v 6 50 * 64) 64 with
      | (.ok l, s) =>
        let (b, s) := match amGet? (s.cluster u).blocks (fld v 0 6) with
          | some k => (k.image, s)
          | none => s.freeBytes 64
        some (s.writeNow { core := c.core, task := none } l.home l.pa b true)
      | _ => none
    | 2 => some (s.modCluster u fun k => { k with blocks := amErase k.blocks (fld v 0 6) })
    | _ => some s
  | .rcrst => some (s.modCluster u fun k => match amGet? k.blocks (fld v 0 6) with
      | some b => { k with blocks := amSet k.blocks (fld v 0 6) { b with accept := 0, divert := 0 } }
      | none => k)
  | _ =>
    if r.held = .context then (s.ctx? c).map fun x => s.putCtx c (x.writeReg lvl r v)
    else some (s.writeShared c r v)

/-- The register DBGSEL.REG names in a halted target (R411). -/
def State.dbgRead (s : State) (t : CtxId) (reg : Nat) : Word :=
  match s.ctx? t with
  | none => 0
  | some x =>
    if !(s.slot t).halted then 0
    else if reg < 0x1000 then ((sysOfNat reg).bind fun r => s.readReg t r).getD 0
    else if reg < 0x1020 then x.reg (Fin.ofNat 32 reg)
    else if reg = 0x1020 then x.pc
    else 0
/-- A write of it, at supervisor level (R411). -/
def State.dbgWrite (s : State) (t : CtxId) (reg : Nat) (v : Word) : State :=
  match s.ctx? t with
  | none => s
  | some x =>
    if !(s.slot t).halted then s
    else if reg < 0x1000 then
      match sysOfNat reg, (sysOfNat reg).bind SysReg.writeLevel with
      | some r, some lvl => if lvl = .fw then s else (s.writeAny t .supervisor r v).getD s
      | _, _ => s
    else if reg < 0x1020 then s.putCtx t (x.setReg (Fin.ofNat 32 reg) v)
    else if reg = 0x1020 then s.putCtx t { x with pc := v, waitBar := x.waitBar.filter (· == v) }
    else s

/-- DBGDAT (R411): the message reaches its core, which replies. -/
def State.dbgdat (s : State) (id : Nat) : State :=
  match s.deliverable id with
  | some k => match k.msg with
    | .dbg src acc t reg none =>
      (s.dropPkt id).send k.part 1 (.core t.core) (.core src.core) 0 (.data src acc false (toBytes (s.dbgRead t reg).toNat 8))
    | .dbg src acc t reg (some v) =>
      if (sysOfNat reg).any fun r => s.outsideWaits t.core .supervisor r v then s
      else ((s.dropPkt id).dbgWrite t reg v).send k.part 1 (.core t.core) (.core src.core) 0 (.ack src acc)
    | _ => s
  | none => s

/-- A register without behaviour of its own, written by a context (R413). -/
def execRegisterWrite (c : CtxId) (n : BitVec 12) (v : Word) : State → Host.Outcome State Fault Refusal :=
  runAs c (match sysOfNat n.toNat with
    | some r => writeReg r v
    | none => pure ())

def execL2cfgWrite (c : CoreId) (v : Word) : State → Host.Outcome State Fault Refusal := runEvent (·.l2cfgWrite c v)
def execTaskcfgWrite (c : CtxId) (v : Word) : State → Host.Outcome State Fault Refusal := runAs c (writeReg .taskcfg v)
def execAtblWrite (p : Nat) (v : Word) : State → Host.Outcome State Fault Refusal := runPart p (·.atblWrite p v)
def execWindowWrite (c : CoreId) (n : Fin 4) (v : Word) : State → Host.Outcome State Fault Refusal := runEvent (·.windowWrite c n v)
def execUplogWrite (p : Nat) (v : Word) : State → Host.Outcome State Fault Refusal := runPart p (·.uplogWrite p v)
def execPublishRegionWrite (p : Nat) (size : Bool) (v : Word) : State → Host.Outcome State Fault Refusal :=
  runPart p (·.publishRegionWrite p size v)
def execGsmarkWrite (p : Nat) (v : Word) : State → Host.Outcome State Fault Refusal := runPart p (·.gsmarkWrite p v)
def execPwrcapWrite (pkg : Nat) (v : Word) : State → Host.Outcome State Fault Refusal := runEvent (·.pwrcapWrite pkg v)
def execDebugHalt (t : CtxId) : State → Host.Outcome State Fault Refusal := runEvent (·.debugHalt t)
def execDebugResume (t : CtxId) : State → Host.Outcome State Fault Refusal := runEvent (·.debugResume t)
def execDebugResumeOne (t : CtxId) : State → Host.Outcome State Fault Refusal := runEvent (·.debugResumeOne t)
def execDbgdat (m : Nat) : State → Host.Outcome State Fault Refusal := runEvent (·.dbgdat m)

end Sys2Proof.Machine
end

