-- ==== Sys2Proof/Machine/CtxImage.lean ====
section
/-! DEFINITION. The context image of R432, and CTXSV and CTXLD (19_partitions_time.md R429-R432). -/
namespace Sys2Proof.Machine

/-! ### Writing the image -/

/-- The 8 doublewords of an action (R432). -/
def Action.image : Action → List Byte
  | .defer _ pa _ _ v => toBytes 1 8 ++ toBytes pa 8 ++ toBytes v.toNat 8 ++ toBytes 0 56
  | .wake w => toBytes 2 8 ++ toBytes w.toNat 8 ++ toBytes 0 64
  | .mbwr m => toBytes 3 8 ++ toBytes 0 8 ++ (m ++ toBytes 0 64).take 64

/-- The task block of a settled task (R432); `ent` is the number of its task-queue entry. -/
def Task.image (t : Task) (ent : Nat) : List Byte :=
  toBytes (1 + b2n t.unlogged * 2 + b2n t.waitedOp * 4 + t.actions.length * 8 + t.depth * 2 ^ 8 + t.edepth * 2 ^ 12) 8 ++
  toBytes (ent + t.clu.clu % 256 * 2 ^ 12 + t.clu.pkg % 64 * 2 ^ 20) 8 ++
  ((t.chain ++ List.replicate 8 0).take 8).flatMap (fun n => toBytes n 8) ++
  toBytes t.tagNs 8 ++ toBytes (t.tagOrd % 4 + t.tagSlot * 4 + t.tagVc * 2 ^ 6 + t.tagPkg * 2 ^ 17) 8 ++ toBytes 0 32 ++
  ((t.actions.map fun (a : Nat × Action) => a.2.image).foldl (· ++ ·) [] ++ toBytes 0 640).take 640 ++
  toBytes t.rfilter.toNat 256 ++ toBytes t.wfilter.toNat 256 ++ toBytes 0 768

/-- The state word (R118). -/
def Ctx.stateWord (x : Ctx) : Nat := x.kind.code * 32 + b2n x.wakep * 8 + b2n x.pin * 4 + x.priv.code

/-- The remote-access counter (R124). -/
def Ctx.remWord (x : Ctx) : Nat :=
  match x.remHome with
  | some (g, v) => x.remCount + v * 2 ^ 8 + g * 2 ^ 19 + 2 ^ 25
  | none => x.remCount

/-- A vector tag (R432). -/
def VTag.word (t : VTag) : Nat := t.flags.toNat + t.first.getD 0x7F * 2 ^ 8 + t.rnd * 2 ^ 16

/-- The image of a context (R432): `pend` marks an instruction that awaits a reply, with its reference. -/
def State.ctxImage (s : State) (c : CtxId) (x : Ctx) (pend : Bool) (ref : List Byte) (ent : Nat) : List Byte :=
  let r (q : SysReg) : List Byte := toBytes (s.readCtxReg c x q).toNat 8
  (x.regs.toList.flatMap fun w => toBytes w.toNat 8) ++
  toBytes x.pc.toNat 8 ++ toBytes x.stateWord 8 ++ toBytes x.srkey.toNat 8 ++ toBytes x.srctr.toNat 8 ++
  toBytes (x.fflags.toNat + x.frm.toNat * 2 ^ 8 + b2n x.swst * 2 ^ 16) 8 ++ r .migcfg ++ toBytes x.remWord 8 ++
  toBytes (x.identity c).toNat 8 ++
  r .tcause ++ r .tval ++ r .epc ++ r .tstat ++ r .tsave0 ++ r .tsave1 ++ toBytes 0 16 ++
  r .vctl ++ toBytes x.qhvec.toNat 8 ++ toBytes x.qhpc.toNat 8 ++ toBytes x.qhval.toNat 8 ++ r .mxs ++ r .barc ++
  toBytes x.lastv.toNat 8 ++ toBytes x.jobCtr 8 ++
  toBytes (x.grant / 8 + x.kind.code * 16 + b2n pend * 2 ^ 8) 8 ++ ref ++
  ((x.jobs.map fun (j : JobEntry) => toBytes j.tag 8 ++ toBytes j.status.toNat 8).foldl (· ++ ·) [] ++ toBytes 0 256).take 256 ++
  (x.streams.toList.flatMap imageOf) ++
  (x.vtags.toList.flatMap fun t => toBytes t.word 4) ++ toBytes 0 512 ++
  ((List.range 64).flatMap fun i => if i < x.grant then toBytes (x.vec i).toNat 64 else toBytes 0 64) ++
  (match (s.task? c.core.part x.task).filter (·.settled) with
    | some t => t.image ent
    | none => toBytes 0 2048)

/-! ### Reading the image -/

/-- Doubleword at a byte offset. -/
def imgWord (b : List Byte) (off : Nat) : Nat := dword (b.drop off) 0

/-- A job table entry that has been used: its tag is not 0. -/
def imgJobs (b : List Byte) : List JobEntry :=
  ((List.range 16).map fun i => { tag := imgWord b (0x200 + 16 * i), status := wd (imgWord b (0x208 + 16 * i)) : JobEntry }).filter (·.tag != 0)

/-- Lay the architectural state of an image over a context: everything but its streams and its task (R432). A reserved bit of a register
reads zero whatever the image holds (R6). -/
def Ctx.fromImage (x : Ctx) (b : List Byte) : Ctx :=
  let w (o : Nat) : Word := wd (imgWord b o)
  let v (i : Nat) : Nat := word32 (b.drop (0x500 + 4 * i)) 0
  { x with
    regs := Vector.ofFn fun r : Fin 32 => if r.val = 0 then 0 else w (8 * r.val)
    pc := w 0x100, wakep := bitAt (w 0x108) 3, pin := bitAt (w 0x108) 2, priv := Priv.ofCode (fld (w 0x108) 0 2)
    srkey := w 0x110, srctr := w 0x118, fflags := (w 0x120).setWidth 5, frm := BitVec.ofNat 3 (fld (w 0x120) 8 3)
    swst := bitAt (w 0x180) 0, rah := bitAt (w 0x128) 15, thresh := fld (w 0x128) 0 8
    remCount := fld (w 0x130) 0 8, remHome := if bitAt (w 0x130) 25 then some (fld (w 0x130) 19 6, fld (w 0x130) 8 11) else none
    opkg := fld (w 0x138) 15 6, ovc := fld (w 0x138) 4 11, oslot := fld (w 0x138) 0 4
    tcause := keep (w 0x140) (2 ^ 63 + 0xFF), tval := w 0x148, epc := w 0x150, late := bitAt (w 0x158) 4, heldBit := bitAt (w 0x158) 3
    epriv := fld (w 0x158) 1 2, inh := bitAt (w 0x158) 0, tsave0 := w 0x160, tsave1 := w 0x168
    qhvec := keep (w 0x188) (mask 2 54), qhpc := w 0x190, qhval := w 0x198
    mxPushed := fld (w 0x1A0) 32 16, mxRefSeq := fld (w 0x1A0) 16 16, mxRefCnt := fld (w 0x1A0) 12 4, mxReason := fld (w 0x1A0) 8 4
    barPend := bitAt (w 0x1A8) 8, barNo := fld (w 0x1A8) 0 5, lastv := w 0x1B0, jobCtr := imgWord b 0x1B8
    grant := 8 * min 8 (fld (w 0x1C0) 0 4), jobs := imgJobs b
    vregs := Vector.ofFn fun r : Fin 64 => BitVec.ofNat 512 (ofBytes ((b.drop (0x800 + 64 * r.val)).take 64))
    vtags := Vector.ofFn fun r : Fin 64 =>
      { flags := BitVec.ofNat 8 (v r.val), first := if v r.val / 256 % 128 = 0x7F then none else some (v r.val / 256 % 128)
        rnd := v r.val / 65536 % 8 } }

/-- An action of a settled task as its image holds it (R432). DEDUCED (log 158): a TDEFER keeps what the image does not hold of it, its virtual address and
its home. -/
def Action.fromImage (b : List Byte) (old : Action) : Action :=
  match fld (wd (imgWord b 0)) 0 4, old with
  | 1, .defer va _ h p _ => .defer va (imgWord b 8) h p (wd (imgWord b 16))
  | 2, _ => .wake (wd (imgWord b 8))
  | 3, _ => .mbwr ((b.drop 16).take 64)
  | _, a => a

/-- A settled task comes back from its block (R429, R432): without its undo records. A block that is not valid leaves it as it was (log 158). -/
def Task.fromImage (t : Task) (b : List Byte) : Task :=
  let w (o : Nat) : Word := wd (imgWord b o)
  if !bitAt (w 0) 0 then t
  else
    { t with
      unlogged := true, waitedOp := bitAt (w 0) 2, edepth := fld (w 0) 12 4
      clu := { t.clu with pkg := fld (w 8) 20 6, clu := fld (w 8) 12 8 }
      chain := ((List.range 8).map fun i => imgWord b (0x10 + 8 * i)).take (fld (w 0) 8 4)
      tagNs := imgWord b 0x50, tagOrd := fld (w 0x58) 0 2, tagSlot := fld (w 0x58) 2 4, tagVc := fld (w 0x58) 6 11, tagPkg := fld (w 0x58) 17 6
      actions := (t.actions.zip (List.range 8)).take (fld (w 0) 3 4) |>.map fun a => (a.1.1, a.1.2.fromImage ((b.drop (0x80 + 80 * a.2)).take 80))
      rfilter := BitVec.ofNat 2048 (ofBytes ((b.drop 0x300).take 256)), wfilter := BitVec.ofNat 2048 (ofBytes ((b.drop 0x400).take 256)) }

/-- Bytes of an image that hold zero. -/
def imgZero (b : List Byte) (off n : Nat) : Bool := ((b.drop off).take n).all (· == 0)

/-- The image is one CTXLD refuses (R430): a reserved bit, its kind, a pending instruction, its level, a task. -/
def imageBad (lvl : Priv) (b : List Byte) : Bool :=
  let w (o : Nat) : Word := wd (imgWord b o)
  let stray (o : Nat) (bits : Nat) : Bool := w o &&& ~~~(wd bits) != 0
  let k := fld (w 0x1C0) 4 3
  !imgZero b 0 8 || stray 0x108 0xEF || stray 0x120 0x1071F || 4 < fld (w 0x120) 8 3 || stray 0x128 0x80FF ||
  stray 0x130 0x3FFFFFF || stray 0x138 (mask 48 3 + mask 24 21 + mask 0 21) || stray 0x140 (2 ^ 63 + 0xFF) || stray 0x158 0x1F ||
  !imgZero b 0x170 16 || stray 0x180 1 || stray 0x188 (mask 2 54) || stray 0x1A0 (mask 8 40 + 0x1F) || stray 0x1A8 0x11F || stray 0x1C0 0x17F ||
  8 < fld (w 0x1C0) 0 4 || !(k == 1 || k == 3) || k != fld (w 0x108) 5 3 || bitAt (w 0x1C0) 8 || !imgZero b 0x1C8 56 ||
  fld (w 0x108) 0 2 = 3 || lvl.code < fld (w 0x108) 0 2 ||
  (List.range 8).any (fun q => !imageOk ((b.drop (0x300 + 64 * q)).take 64)) ||
  (List.range 64).any (fun i => word32 (b.drop (0x500 + 4 * i)) 0 / 2 ^ 19 != 0 || word32 (b.drop (0x500 + 4 * i)) 0 / 2 ^ 15 % 2 != 0) ||
  !imgZero b 0x600 512 || !imgZero b (0x800 + 512 * fld (w 0x1C0) 0 4) (4096 - 512 * fld (w 0x1C0) 0 4) || !imgZero b 0x1800 2048

/-- The pieces of 64 bytes an image is accessed in. -/
def imgPieces (va : Nat) : List Nat := (List.range 128).map fun i => (va + 64 * i) % 2 ^ 64

/-- CTXSV (R430, R431): the image of a halted helper that has drained. -/
def execCtxsv (d a b : Reg) (la : Fin 16) : State → Host.Outcome State Fault Refusal :=
  runWord do
    let i : Instr := .ctxsv d a b la
    needPriv .supervisor i
    let (vs, p) ← operands i [a, b] (some d)
    let n ← slotArg i 1 (vs.getD 1 0)
    let va := (vs.getD 0 0).toNat
    alignM va 64
    let ls ← vecLocates .write ((imgPieces va).map fun v => (v, 64))
    let c : CtxId := { (← me) with slot := n }
    let e ← get
    let s := e.flush
    let l := s.slot c
    match l.ctx.filter fun _ => (l.state == .held || l.state == .guest) && l.halted with
    | some x =>
      waitUnless (s.quiet c x)
      for l in ls do fenceWait false true l.home
      needBuffers (ls.filter fun l => l.home != .core e.st.cur.core).length
      for l in ls do trackM true l.pa 64
      let img := s.ctxImage c x false (toBytes 0 56) 0
      for (l, k) in ls.zip (List.range 128) do
        issue { l := l, op := .store ((img.drop (64 * k)).take 64), dest := .none, grp := 0, posted := none, keepBuf := true, vec := true }
      putDest p 0
    | none => putDest p 1
    openWindow d la

/-- The streams of an image, their descriptors read again by the instruction that loads it, at the level of the context it makes (R290,
R429): none where one is not valid, a direction the loading context itself has bound among them (R283). -/
def imgStreams (i : Instr) (x : Ctx) (b : List Byte) : M (Option (Vector (Option Stream) 8)) := do
  let e ← get
  let rec go : List (Fin 8) → Vector (Option Stream) 8 → M (Option (Vector (Option Stream) 8))
    | [], acc => return some acc
    | q :: r, acc => do
      match (loadImage i false q ((b.drop (0x300 + 64 * q.val)).take 64)).run { (← get) with cx := { e.cx with priv := x.priv, rah := false, streams := acc } } with
      | .ok (t, e') =>
        modify fun f => { f with st := e'.st }
        let mine (t : Stream) (u : Option Stream) : Bool := u.any fun u => t.kind == .nbr && u.kind == .nbr && u.dir == t.dir
        if t.any fun t => e.cx.streams.toList.any (mine t) then return none
        go r (acc.set q t)
      | .error (.fault 0x0C _) => return none
      | .error o => throw o
  go (List.finRange 8) (Vector.replicate 8 none)

/-- The pieces of an image, read (R431): where more than one read fails, a Window fault comes before a Memory Error. -/
def readAll (c : CtxId) (x : Ctx) (vs : List Nat) : M (List Byte) := do
  let rs ← vs.mapM fun v => liftR (tryWalk (ctxRead c x false v 64))
  let fails := rs.filterMap fun r => match r with | .error e => some e | .ok _ => none
  match fails.find? (·.1 == cWindow), fails.head? with
  | some e, _ | none, some e => throw (.faultIn (← st) e.1 (wd e.2))
  | none, none => return (rs.filterMap fun r => r.toOption).flatten

/-- CTXLD (R430, R431): a HELD context in a FREE slot, halted with REASON 3. -/
def execCtxld (d a b : Reg) (la : Fin 16) : State → Host.Outcome State Fault Refusal :=
  runWord do
    let i : Instr := .ctxld d a b la
    needPriv .supervisor i
    let (vs, p) ← operands i [a, b] (some d)
    let n ← slotArg i 1 (vs.getD 1 0)
    let va := (vs.getD 0 0).toNat
    alignM va 64
    let c ← me
    let x ← cx
    let _ ← vecPlaces .read ((imgPieces va).map fun v => (v, 64))
    let img ← readAll c x (imgPieces va)
    let t : CtxId := { c with slot := n }
    let s := (← get).flush
    if (s.slot t).state ≠ .free then putDest p 1
    else if imageBad x.priv img then putDest p 2
    else
      let y := (Ctx.blank c.core n .held).fromImage img
      let y := { y with opkg := c.core.pkg, ovc := c.core.vc, oslot := n }
      match ← imgStreams i y img with
      | none => putDest p 2
      | some ts =>
        let y := { y with streams := ts }
        let keepV := (s.core c.core).vpResv - s.vheld0 c x
        let keepQ := (s.core c.core).qsResv - s.qheld0 c x
        if s.vfree c x < y.grant / 8 + keepV ∨ s.qfreeSlots c x < y.qslots + keepQ then putDest p 1
        else
          modSt fun s => s.modSlot t fun l => { l with state := .held, killSent := false, halted := true, reason := 3, ctx := some y }
          putDest p 0
    openWindow d la

end Sys2Proof.Machine
end

