-- ==== Sys2Proof/Machine/Embed.lean ====
section
/-! DEFINITION. Embedding look-ups and updates (14_copy_engines.md R345-R348). -/
namespace Sys2Proof.Machine

/-- An embedding descriptor (R345). -/
structure EmbRec where
  table : Nat
  ctrl : Word
  rowb : Nat
  nrows : Nat
  idx : Nat
  offs : Nat
  nbag : Nat
  out : Nat
  map : Nat
  hits : Nat
  compl : Nat

def embRec (b : List Byte) : EmbRec :=
  { table := dword b 0, ctrl := wd (dword b 1), rowb := word32 b 4, nrows := word32 b 5, idx := dword b 3, offs := dword b 4
    nbag := dword b 5, out := dword b 6, map := dword b 7, hits := dword b 8, compl := dword b 9 }

def EmbRec.rlen (r : EmbRec) : Nat := fld r.ctrl 0 16
def EmbRec.rf (r : EmbRec) : Fmt := (fmtOfNat (fld r.ctrl 16 5)).getD .f32
def EmbRec.of (r : EmbRec) : Fmt := (fmtOfNat (fld r.ctrl 24 5)).getD .f32
def EmbRec.rnd (r : EmbRec) : Nat := fld r.ctrl 32 3
def EmbRec.mode (r : EmbRec) : Nat := fld r.ctrl 36 2

/-- The descriptor breaks its table (R345). -/
def EmbRec.bad (r : EmbRec) (b : List Byte) : Bool :=
  let rf := fld r.ctrl 16 5
  let ofm := fld r.ctrl 24 5
  let allowed : Word := wd (0xFFFF + 0x1F * 2 ^ 16 + 0x1F * 2 ^ 24 + 7 * 2 ^ 32 + 7 * 2 ^ 36)
  r.ctrl &&& ~~~allowed != 0 || r.rlen == 0 || 4096 < r.rlen || !([0, 1, 2, 6, 7].contains rf) || 2 < ofm ||
  (3 < r.rnd && r.rnd != 7) || r.rowb % r.rf.elemBytes != 0 || r.rowb < r.rlen * r.rf.elemBytes || r.nbag == 0 ||
  2 ^ 32 ≤ r.nbag || (b.drop 80).any (· != 0) || (2 ≤ r.mode && (rf != 0 || ofm != 0))

/-- The offsets of the bags, and the indices from OFFS[0] on (R346). -/
def EmbRec.lists (r : EmbRec) (j : Job) : WalkM JM (List Nat × List Nat) := do
  let offs ← (List.range (r.nbag + 1)).mapM fun k => jobReadOld j ((r.offs + 4 * k) % 2 ^ 64) 4
  let lo := offs.headD 0
  let hi := offs.getLastD 0
  let idx ← (List.range (hi - lo)).mapM fun k => jobReadOld j ((r.idx + 4 * (lo + k)) % 2 ^ 64) 4
  return (offs, idx)

/-- RowAddr (R345). -/
def EmbRec.rowAddr (r : EmbRec) (j : Job) (i : Nat) : WalkM JM Nat :=
  if r.map ≠ 0 then jobReadOld j ((r.map + 8 * i) % 2 ^ 64) 8 else pure ((r.table + i * r.rowb) % 2 ^ 64)

/-- The distinct indices, ascending. -/
def distinct (l : List Nat) : List Nat := sortBy (fun a b => decide (a ≤ b)) (dedup l)

/-- The acceptance of a descriptor: the mapping in force is that of the tables as they stand (R347). -/
def judgeEmb (j : Job) : WalkM M Job := do
  let r := embRec j.recBytes
  if r.bad j.recBytes then throw (eBadRec, j.recVa)
  let s ← (st : M State)
  return { j with mode := if r.rnd = 7 then j.mode else r.rnd, seqJob := bitAt r.ctrl 38, old := some (s.mem, (s.part j.part).atbl) }

/-- EMBG (R345, R351). -/
def execEmbg (d a : Reg) : State → Host.Outcome State Fault Refusal :=
  runWord (acceptJob (.embg d a) d a 128 (fun _ => false) (fun b => .embg (embRec b).mode) (fun b => (embRec b).compl) judgeEmb)

/-- The offsets and indices of a job that are in order and in range, or BADINDEX (R346). -/
def EmbRec.checked (r : EmbRec) (j : Job) : WalkM JM (List Nat × List Nat) := do
  let (offs, idx) ← r.lists j
  match (List.range r.nbag).find? fun b => offs.getD (b + 1) 0 < offs.getD b 0 with
  | some b => throw (eBadIndex, (r.offs + 4 * (b + 1)) % 2 ^ 64)
  | none => match idx.findIdx? fun i => r.nrows ≤ i with
    | some k => throw (eBadIndex, (r.idx + 4 * (offs.headD 0 + k)) % 2 ^ 64)
    | none => return (offs, idx)

/-- The positions of bag b among the indices read. -/
def bagPos (offs : List Nat) (b : Nat) : List Nat :=
  let lo := offs.getD b 0
  (List.range (offs.getD (b + 1) 0 - lo)).map fun k => lo - offs.headD 0 + k

/-- An exact sum or quotient rounded into FP32 by RNE (R346). -/
def f32rne (x : Exact × Flags) : FV × Flags := let (c, f) := fp32.deliver rneMode x; (fp32.dec c, f)

/-- A sum of terms in order, the first exact (R346, R348). -/
def sumTerms : List FV → FV × Flags
  | [] => (.fin false 0 0, 0)
  | x :: r => r.foldl (fun st y => let (v, f) := f32rne (exAdd false st.1 y); (v, st.2 ||| f)) (x, 0)

/-- Reads of any length by the mapping at acceptance, granule by granule and by sectors where they can be (R346, R347). -/
def readSpanOld (j : Job) : Nat → Nat → Nat → WalkM JM (List Byte)
  | 0, _, _ => pure []
  | fuel + 1, va, n =>
    if n = 0 then pure []
    else do
      let k := pieceAt va n
      let b ← jobGet j .old true va k
      return b ++ (← readSpanOld j fuel ((va + k) % 2 ^ 64) (n - k))
/-- The elements of a row (R346): a store to a granule of it is seen whole or not at all. -/
def EmbRec.row (r : EmbRec) (j : Job) (a : Nat) : WalkM JM (List FV) := do
  let n := r.rf.elemBytes
  if a % n ≠ 0 then throw (cAlign, a)
  let b ← readSpanOld j (r.rlen * n + 1) a (r.rlen * n)
  return (List.range r.rlen).map fun k => r.rf.elem.dec (ofBytes ((b.drop (n * k)).take n))

/-- The pieces of a look-up (R346): the sums of MODE 0 or the means of MODE 1; then the adds to the hit counters, as integer reductions. -/
def lookup (mean : Bool) (j : Job) : WalkM JM JobAfter := do
  let r := embRec j.recBytes
  if j.pos ≠ 0 then
    for x in j.note do jobSend x.1 (.reduce .add 8 x.2)
    return { j.go with worked := true }
  else
    let size := r.of.elemBytes
    let (offs, idx) ← r.checked j
    let is := distinct idx
    let addrs ← is.mapM (r.rowAddr j)
    let rows ← addrs.mapM (r.row j)
    let table : List (Nat × List FV) := is.zip rows
    let at_ (i k : Nat) : FV := (((table.find? (·.1 == i)).map (·.2)).getD []).getD k (.fin false 0 0)
    let fl ← (List.range r.nbag).foldlM (fun fl b =>
      (List.range r.rlen).foldlM (fun (fl : Flags) k => do
        let ps := bagPos offs b
        let (acc, f1) := sumTerms (ps.map fun p => at_ (idx.getD p 0) k)
        let (acc, f2) := if mean && !ps.isEmpty then f32rne (exDiv acc (FV.ofInt ps.length)) else (acc, 0)
        let n := b * r.rlen + k
        let (code, f3) := r.of.elem.enc ⟨j.mode, wd n, j.srkey⟩ acc
        jobWrite true ((r.out + n * size) % 2 ^ 64) (toBytes code size)
        return fl ||| f1 ||| f2 ||| f3) fl) (0 : Flags)
    let base := r.table / 524288 * 524288
    let shards := (addrs.filter (base ≤ ·)).map fun a => (a - base) / 524288
    let hits := if r.hits = 0 then [] else (distinct shards).map fun sh => ((r.hits + 8 * sh) % 2 ^ 64, shards.count sh)
    return { j.go with pos := 1, flags := fl, count := is.length, note := hits, worked := hits.isEmpty }

/-- Number the update records laid out, from the issuing core's RLSEQ on (R348). -/
def numberRecords (j : Job) : WalkM JM Unit :=
  modify fun r =>
    let c := j.issuer.core
    let seq := (r.st.core c).rlseq.toNat
    let (out, n) := r.out.foldl (fun (l : List JobWrite × Nat) w => match w.op with
      | .rlog f b x _ => (l.1 ++ [{ w with op := .rlog f b x ((seq + l.2) % 2 ^ 64) }], l.2 + 1)
      | _ => (l.1 ++ [w], l.2)) ([], 0)
    { r with out := out, st := r.st.modCore c fun k => { k with rlseq := k.rlseq + wd n } }

/-- The pieces of an update (R348): its lists and row addresses; then the gradients summed for each distinct row, a record for each element.
A fault leaves the records of the rows before it to be sent. -/
def update (mean : Bool) (j : Job) : WalkM JM JobAfter := do
  let r := embRec j.recBytes
  if j.pos = 0 then
    let (offs, idx) ← r.checked j
    let addrs ← (distinct idx).mapM (r.rowAddr j)
    return { j.go with pos := 1, note := offs.map (fun x => (0, x)) ++ idx.map (fun x => (1, x)) ++ addrs.map fun x => (2, x) }
  let noted (k : Nat) : List Nat := (j.note.filter (·.1 == k)).map (·.2)
  let offs := noted 0
  let idx := noted 1
  let is := distinct idx
  -- the bag of every position
  let bags := (List.range r.nbag).flatMap fun b => (bagPos offs b).map fun _ => b
  let rows : WalkM JM Flags := (is.zip (noted 2)).foldlM (fun fl x => do
    let (i, a) := x
    let ps := (List.range idx.length).filter fun p => idx.getD p 0 == i
    (List.range r.rlen).foldlM (fun (fl : Flags) k => do
      let gs ← ps.mapM fun p => do
        let b := bags.getD p 0
        let g ← jobReadN j ((r.out + 4 * (b * r.rlen + k)) % 2 ^ 64) 4
        if mean then return fp32.deliver rneMode (exDiv (fp32.dec g) (FV.ofInt (bagPos offs b).length))
        else return (g, (0 : Flags))
      let (code, f) := match gs with
        | [] => (0, (0 : Flags))
        | g :: r => r.foldl (fun st y => let (c, f) := fp32.deliver rneMode (exAdd false (fp32.dec st.1) (fp32.dec y.1)); (c, st.2 ||| y.2 ||| f)) g
      jobSend ((a + 4 * k) % 2 ^ 64) (.rlog true false code 0)
      return fl ||| f) fl) 0
  match ← ExceptT.lift rows.run with
  | .ok fl =>
    numberRecords j
    return { j.go with pos := 2, flags := fl, count := is.length, worked := true }
  | .error f =>
    numberRecords j
    throw f

/-- EMBG_SUM (R346). -/
def State.embgSum (s : State) (id : Nat) : State := s.jobWork id (· == .embg 0) (lookup false)
/-- EMBG_MEAN (R346). -/
def State.embgMean (s : State) (id : Nat) : State := s.jobWork id (· == .embg 1) (lookup true)
/-- EMBG_UPDATE_SUM (R348). -/
def State.embgUpdateSum (s : State) (id : Nat) : State := s.jobWork id (· == .embg 2) (update false)
/-- EMBG_UPDATE_MEAN (R348). -/
def State.embgUpdateMean (s : State) (id : Nat) : State := s.jobWork id (· == .embg 3) (update true)

def execEmbgSum (j : Nat) : State → Host.Outcome State Fault Refusal := runEvent (·.embgSum j)
def execEmbgMean (j : Nat) : State → Host.Outcome State Fault Refusal := runEvent (·.embgMean j)
def execEmbgUpdateSum (j : Nat) : State → Host.Outcome State Fault Refusal := runEvent (·.embgUpdateSum j)
def execEmbgUpdateMean (j : Nat) : State → Host.Outcome State Fault Refusal := runEvent (·.embgUpdateMean j)

end Sys2Proof.Machine
end

