-- ==== Sys2Proof/Machine/Traps.lean ====
section
/-! DEFINITION. Traps and faults of their own: TRAP, EBRK, ERET, JRD, BSTAT, and the asynchronous traps (18_traps.md R400-R407,
R415-R419; 09_translation.md R239). -/
namespace Sys2Proof.Machine

/-- TRAP (R415). -/
def execTrap (code : BitVec 12) : State → Host.Outcome State Fault Refusal :=
  runWord (raise cTrap (code.setWidth 64))

/-- EBRK (R415): Breakpoint, or the halt of BRKEN, held in a speculative task. -/
def execEbrk (code : BitVec 12) : State → Host.Outcome State Fault Refusal :=
  runWord do
    let e ← get
    let c := e.st.cur
    if (e.st.slot c).brken then
      if e.st.speculative c.core.part e.cx then throw (.done (e.st.putCtx c { e.cx with heldHalt := some code.toNat }))
      else throw (.done (e.retire.modSlot c fun l => { l with halted := true, reason := 2, bcode := code }))
    else raise cBreak (code.setWidth 64)

/-- The control context takes the traps of its cluster's task unit: it is that of the cluster's lowest vcore (R239). -/
def State.ofUnit (s : State) (c : CtxId) : Bool := c.slot == 0 && ((s.cluCores c.core.clu).head?) == some c.core

/-- ERET (R416): the saved PC and level come back; a task unit whose transfer faulted tries again, once its trap has been taken (R239,
R405). -/
def execEret : State → Host.Outcome State Fault Refusal :=
  runWord do
    needPriv .supervisor .eret
    let x ← cx
    faultIf (x.epc.toNat % 4 ≠ 0) cAlign x.epc
    modCx Ctx.eret
    jump x.epc
    let c ← me
    modSt fun s =>
      if s.ofUnit c && (s.cluster c.core.clu).unitTaken then
        s.modCluster c.core.clu fun k => { k with unitTrap := none, unitTaken := false, unitTry := true }
      else s

/-- The word of a journal entry (R417). -/
def JEntry.word (j : JEntry) (w : Nat) : Word :=
  if j.state = 0 then 0
  else match w with
    | 0 => wd (j.cause * 2 ^ 56 + j.va % 2 ^ 56)
    | 1 => wd (j.state * 2 ^ 62 + j.kind * 2 ^ 56 + b2n j.fk * 2 ^ 53 + b2n j.sgn * 2 ^ 52 + j.size * 2 ^ 48 + j.origin)
    | _ => j.data

/-- JRD (R417, R419). -/
def execJrd (d a : Reg) : State → Host.Outcome State Fault Refusal :=
  runWord do
    let i := Instr.jrd d a
    let (vs, p) ← operands i [a] (some d)
    let v := vs.getD 0 0
    faultIf (fld v 9 55 ≠ 0 || fld v 6 2 = 3) cIllegal (wordOf i)
    needControl i
    let c := (← me).core
    let k := Fin.ofNat 64 (fld v 0 6)
    let j := ((← st).core c).journal.get k
    if bitAt v 8 ∧ j.state = 2 then modSt fun s => s.modCore c fun x => { x with journal := x.journal.set k default }
    putDest p (j.word (fld v 6 2))

/-- The condition of BSTAT on a status word (R418). -/
def bstatCond (n : Nat) (w : Word) : Bool :=
  if n < 8 then bitAt w n
  else if n < 16 then !bitAt w (n - 8)
  else match n with
    | 16 => fld w 0 8 != 0
    | 17 => fld w 0 8 == 0
    | 18 => bitAt w 4 || bitAt w 3 || bitAt w 2
    | 19 => !(bitAt w 4 || bitAt w 3 || bitAt w 2)
    | 20 => fld w 32 16 != 0
    | 21 => fld w 32 16 == 0
    | 22 => bitAt w 7 || bitAt w 6 || bitAt w 5
    | _ => !(bitAt w 7 || bitAt w 6 || bitAt w 5)

/-- BSTAT (R418, R419). -/
def execBstat (cond a : Reg) (off : BitVec 15) : State → Host.Outcome State Fault Refusal :=
  runWord do
    let (vs, _) ← operands (.bstat cond a off) [a] none
    let l ← locate .read (vs.getD 0 0).toNat 8 8
    autoMigrate l
    let e ← get
    let b ← liftR (ctxRead e.st.cur e.cx false l.va 8)
    acquire
    if bstatCond cond.val (wd (ofBytes b)) then branchTo ((← cx).pc + off.signExtend 64 * 4)

/-! ### Asynchronous traps (R239, R405) -/

/-- The lowest bit set in JFLT. -/
def lowestSet (w : Word) : Nat := ((List.range 64).find? fun i => bitAt w i).getD 0

/-- The journal trap that is pending on a control context: its TVAL. -/
def State.journalPending (s : State) (c : CtxId) : Option Word :=
  let j := (s.core c.core).jflt
  if c.slot = 0 && j != 0 then some (wd (lowestSet j)) else none
/-- The trap of a task-unit transfer that is pending on a control context: its cause and address. One that has been taken is pending no more until the
unit has tried again (R239, R405). -/
def State.unitPending (s : State) (c : CtxId) : Option (Nat × Word) :=
  if s.ofUnit c && !(s.cluster c.core.clu).unitTaken then (s.cluster c.core.clu).unitTrap else none

/-- A control context may take an asynchronous trap (R405): not in a handler, a handler named, not halted, every result of the instructions it has
issued written (R401), and none of them with exact faults that are not all known (R31, R90). A read that its next instruction waits for is no such
result. -/
def State.asyncReady (s : State) (c : CtxId) (x : Ctx) : Bool :=
  (s.part c.core.part).live && !x.inh && (s.part c.core.part).tvec != 0 && !(s.slot c).halted &&
  !(x.out.any fun a => a.dest != .fetch && ((a.loadLike && a.dest != .none) || a.hold || a.err.isSome))

/-- JOURNAL_TRAP (R404, R405). -/
def State.journalTrap (s : State) (c : CtxId) : State :=
  match s.ctx? c, s.journalPending c with
  | some x, some v => if s.asyncReady c x then s.takeTrap c x true cJournal v x.pc false false else s
  | _, _ => s

/-- TASK_UNIT_TRAP (R239, R405). -/
def State.taskUnitTrap (s : State) (u : CluId) : State :=
  let c : CtxId := { core := s.unitCore u, slot := 0 }
  match s.ctx? c, s.unitPending c with
  | some x, some (cause, v) => if s.asyncReady c x then
      (s.takeTrap c x true cause v x.pc false false).modCluster c.core.clu fun k => { k with unitTaken := true }
    else s
  | _, _ => s

/-- An asynchronous trap stands before the next instruction of a context (R405). -/
def State.asyncPending (s : State) (c : CtxId) (x : Ctx) : Bool :=
  ((s.journalPending c).isSome || (s.unitPending c).isSome) && !x.inh && (s.part c.core.part).tvec != 0 && !(s.slot c).halted

/-- Take the pending trap. -/
def State.takeAsync (s : State) (c : CtxId) : State :=
  if (s.journalPending c).isSome then s.journalTrap c else s.taskUnitTrap c.core.clu

def execJournalTrap (c : CoreId) : State → Host.Outcome State Fault Refusal := runEvent (·.journalTrap { core := c, slot := 0 })
def execTaskUnitTrap (u : CluId) : State → Host.Outcome State Fault Refusal := runEvent (·.taskUnitTrap u)

end Sys2Proof.Machine
end

