-- ==== Sys2Proof/Machine/Network.lean ====
section
/-! DEFINITION. The steps of the network (16_network.md R371-R386): headers, arrival in PSEQ order, trimming and re-requests,
delivery marks, end-to-end timers, links, router power. -/
namespace Sys2Proof.Machine

/-! ### Headers (R373) -/

/-- The slot a message comes from and goes to, where it has one (R373). -/
def Msg.slots : Msg → Nat × Nat
  | .req r => (r.src.slot, 0)
  | .data d _ _ _ | .ack d _ | .nack d _ _ => (0, d.slot)
  | .ringReq c _ _ _ _ => (c.slot, 0)
  | .reserve c _ => (c.slot, 0)
  | .grant d _ _ => (0, d.slot)
  | .cancel _ n | .image _ n _ => (0, n)
  | .kill t _ _ _ | .wake t _ _ _ _ | .exit t _ _ => (0, t.slot)
  | .dbg c _ t _ _ => (c.slot, t.slot)
  | .arrive _ _ _ c _ _ => (c.slot, 0)
  | _ => (0, 0)

/-- The operation a header names, by the kind of message (R373): the rule gives OP no codes (log 8). -/
def Msg.opKind : Msg → Nat
  | .req r => match r.op with
    | .load _ => 0 | .store _ => 1 | .masked _ => 2 | .atomic _ _ _ _ => 3 | .reduce _ _ _ => 4 | .rlog _ _ _ _ => 5
  | .data _ _ _ _ | .jdata _ _ _ _ => 6
  | .ack _ _ | .jack _ _ => 7
  | .nack _ _ _ | .jnack _ _ _ => 8
  | .ringReq _ _ _ _ _ => 9
  | .task _ _ => 10
  | .reserve _ _ => 11
  | .grant _ _ _ => 12
  | .cancel _ _ => 13
  | .image _ _ _ => 14
  | .kill _ _ _ _ => 15
  | .wake _ _ _ _ _ => 16
  | .exit _ _ _ => 17
  | .dbg _ _ _ _ _ => 18
  | .arrive _ _ _ _ _ _ => 19
  | .nbr _ _ _ _ => 20
  | .mark _ _ _ _ _ => 21
  | .rereq _ _ _ _ _ => 22
  | .void => 23

/-- The first four doublewords of a packet's header flit (R373). -/
def State.header (s : State) (k : Packet) : List Nat :=
  let pa := match k.msg with | .req r => r.pa | _ => 0
  [k.cls + b2n k.trim * 2 ^ 2 + b2n k.retx * 2 ^ 3 + k.len * 2 ^ 4 + (Config.headerOp k.msg.opKind).toNat * 2 ^ 8 + k.pseq * 2 ^ 16 + k.tcnt * 2 ^ 32,
   s.agentCode k.src + k.msg.slots.1 * 2 ^ 20 + (s.agentCode k.dst + k.msg.slots.2 * 2 ^ 20) * 2 ^ 32,
   pa,
   k.part + k.dmark * 2 ^ 32]

/-! ### Arrival -/

def Packet.samePair (k q : Packet) : Bool := q.part == k.part && q.cls == k.cls && q.src == k.src && q.dst == k.dst

/-- Free the retained copies a delivery mark covers; packets that have waited for their room are injected (R377). -/
def State.freeKept (s : State) (part : Nat) (src dst : Agent) (cls mark : Nat) : State :=
  { s with kept := s.kept.filter fun q => !(q.part == part && q.src == src && q.dst == dst && q.cls == cls && seqBefore q.pseq (seqNext mark)) }.injectUnsent src

/-- The answer to a duplicate (R381): the cached reply of an atomic or reduction, a retained reply, or nothing. -/
def State.answerDuplicate (s : State) (k : Packet) : State :=
  match k.msg with
  | .req r =>
    if r.op.seqd then
      match s.cached r.src.core.part r.home r.src.core.srcKey r.aseq with
      | some (some m) => s.replyData r r.home.agent 0 false (toBytes m r.op.bytes)
      | some none => s.replyAck r
      | none => s
    else match s.kept.find? fun q => match q.msg with
        | .data d acc _ _ => q.src == k.dst && r.via == .ctx && d == r.src && acc == r.acc
        | .jdata via acc _ _ => q.src == k.dst && via == r.via && acc == r.acc
        | _ => false with
      | some q =>
        let (id, s) := s.newId
        { s with net := s.net ++ [{ q with id := id, retx := true, trim := false, stage := .flying, at_ := s.clock }] }
      | none => s
  | _ => s

/-- Append a delivered packet: the order of the list is the order of delivery. A void one only takes its place in its pair. -/
def State.deliverAt (s : State) (k : Packet) : State :=
  let s := s.dropPkt k.id
  if k.msg == .void then s
  else { s with net := s.net ++ [{ k with stage := .ready, trim := false, at_ := s.clock, judged := none }] }

/-- Deliver the packets that wait in the reorder window behind a hole that is filled (R378). -/
def State.deliverWindow : Nat → Packet → State → State
  | 0, _, s => s
  | fuel + 1, k, s =>
    let p := s.pair k.part k.src k.dst k.cls
    match s.net.find? fun q => k.samePair q && q.stage == .window && q.pseq == p.nextDel with
    | some q => State.deliverWindow fuel k ((s.setPair { p with nextDel := seqNext p.nextDel }).deliverAt q)
    | none => s

/-- The record of the pacing of re-requests from a destination to a source, whatever the partitions of the packets (R378). -/
def State.pacing (s : State) (k : Packet) : PairSt := s.pair 16 k.src k.dst 2

/-- A re-request may be sent now (R378). -/
def PairSt.mayAsk (p : PairSt) (clock : Nat) : Bool := p.lastReq == 0 || p.lastReq - 1 + p.interval * Config.ccPerNs ≤ clock

/-- Ask for a packet again, or let the re-request wait for its interval (R378). -/
def State.ask (s : State) (k : Packet) : State :=
  let p := s.pacing k
  if p.mayAsk s.clock then
    (s.setPair { p with lastReq := s.clock + 1 }).send k.part 2 k.dst k.src 0 (.rereq k.part k.src k.dst k.cls k.pseq)
  else if p.waiting.contains (k.part, k.cls, k.pseq) then s
  else s.setPair { p with waiting := p.waiting ++ [(k.part, k.cls, k.pseq)] }

/-- A trimmed packet stands at its destination as a header (R378). -/
def State.headerAt (s : State) (k : Packet) : State :=
  let p := s.pacing k
  let s := if k.retx then s.setPair { p with interval := min 2000 (2 * p.interval) } else s
  (s.modPkt k.id fun q => { q with stage := .header, trim := true, tcnt := k.tcnt, at_ := s.clock }).ask k

/-- What a packet that arrives whole brings (R377, R378): a delivery mark; the end of the waiting re-requests for it. -/
def State.arrivedWhole (s : State) (k : Packet) : State :=
  let s := s.freeKept k.part k.dst k.src k.cls k.dmark
  let p := s.pacing k
  let s := if k.retx || !p.waiting.isEmpty then
      s.setPair { p with interval := if k.retx then 64 else p.interval, waiting := p.waiting.filter (· != (k.part, k.cls, k.pseq)) }
    else s
  { s with net := s.net.filter fun q => !(k.samePair q && q.pseq == k.pseq && q.id != k.id && q.stage == .header) }

/-- A packet is trimmed at a port (R378): counted there and in the lifetime records (R384, R453). -/
def State.countTrim (s : State) (x : Hop) : State := (s.countAt x 0).lifeAdd x.1 2 (x.2.1 * 16 + x.2.2) 1

/-- A request is still to be answered, or, where no answer comes, to be delivered (R380). -/
def State.awaited (s : State) (k : Packet) : Bool :=
  let ctxWaits (c : CtxId) (acc : Nat) : Bool := (s.ctx? c).any fun x => x.out.any fun a => a.acc == acc && a.seq ≤ k.id && a.got.isNone && a.err.isNone
  match k.msg with
  | .req r => match r.via with
    | .ctx => ctxWaits r.src r.acc
    | .job id _ _ _ | .done id => s.jobs.any fun j => j.id == id &&
        (j.sent.any (fun w => w.no == r.acc && w.cause.isNone) || j.reads.any fun w => w.no == r.acc && w.bytes.isNone && w.cause.isNone)
    | .walk id _ => s.walks.any fun w => w.id == id && w.asked && w.lvl == r.acc
    | .code c _ pa => (s.core c.core).codeAsked.contains (pa / 128)
    | .unit u => match r.op with
      | .load _ => (s.task? u.part (some r.acc)).any (·.asked)
      | _ => !seqBefore k.pseq (s.pair k.part k.src k.dst k.cls).nextDel
  | .ringReq c acc _ _ _ => ctxWaits c acc
  | _ => !seqBefore k.pseq (s.pair k.part k.src k.dst k.cls).nextDel
/-- Requests that are answered run no timer any more. -/
def State.pruneOutgoing (s : State) : State := { s with outgoing := s.outgoing.filter fun o => s.awaited o.pkt }

/-- A request does not reach a core in the cycle in which an access of the core to itself has been performed (R215), nor a ring unit in the one in
which an engine byte has completed a slot (R370). -/
def State.afterOwn (s : State) (k : Packet) : Bool :=
  k.cls == 0 && match k.dst with
    | .core c => (s.core c).ownAt == s.clock + 1
    | .ring u => (s.cluster u).fillAt == s.clock + 1
    | _ => false

/-- PACKET_ARRIVAL (R375, R378, R381, R386): a packet whole at its destination is delivered in PSEQ order, waits in the reorder
window of 64, is trimmed there, or is a duplicate. -/
def State.packetArrival (s : State) (id : Nat) : State :=
  match s.pkt? id with
  | none => s
  | some k =>
    if k.stage != .flying || k.trim || 3 ≤ k.cls || s.afterOwn k then s
    else match s.routeOf k with
    | none => s
    | some h =>
      if s.routeDown h then s
      else
      let s := s.pruneOutgoing
      if k.cls = 2 then (s.passed k h).deliverAt k
      else
        let p := s.pair k.part k.src k.dst k.cls
        let known := seqBefore k.pseq p.nextDel || s.net.any fun q => k.samePair q && q.pseq == k.pseq && q.stage == .window
        if known then ((s.passed k h).arrivedWhole k).dropPkt id |>.answerDuplicate k
        else if k.pseq = p.nextDel then
          let s := (s.passed k h).arrivedWhole k
          State.deliverWindow 64 k ((s.setPair { s.pair k.part k.src k.dst k.cls with nextDel := seqNext p.nextDel }).deliverAt k)
        else if (s.net.filter fun q => q.stage == .window && q.dst == k.dst).length < 64 then
          ((s.passed k h).arrivedWhole k).modPkt id fun q => { q with stage := .window, at_ := s.clock }
        else if k.len = 0 then s
        else
          let s := s.passed k h
          (match h.getLast? with | some x => s.countTrim x | none => s).headerAt { k with tcnt := min 15 (k.tcnt + 1) }

/-! ### Trimming and re-requests (R378) -/

/-- PACKET_TRIM: a congested router of the route, any the packet can have reached, drops the payload and counts it (R378, R384, R453). -/
def State.packetTrim (s : State) (id : Nat) : State :=
  match s.pkt? id with
  | none => s
  | some k =>
    if k.stage != .flying || k.trim || k.len = 0 || 2 ≤ k.cls then s
    else match s.routeOf k with
    | none => s
    | some h =>
      let h := s.reached h
      let (w, s') := s.freeWord
      match h[w.toNat % max 1 h.length]? with
      | none => s
      | some x => (s'.countTrim x).modPkt id fun q => { q with trim := true, tcnt := min 15 (q.tcnt + 1) }

/-- TRIMMED_HEADER: the header reaches the destination, which asks for the packet again (R378). -/
def State.trimmedHeader (s : State) (id : Nat) : State :=
  match s.pkt? id with
  | none => s
  | some k =>
    if k.stage != .flying || !k.trim then s
    else match s.routeOf k with
    | none => s
    | some h =>
      if s.routeDown h then s
      else
        let p := s.pair k.part k.src k.dst k.cls
        let s := s.passed k h
        if seqBefore k.pseq p.nextDel || s.net.any fun q => k.samePair q && q.pseq == k.pseq && q.stage == .window then s.dropPkt id
        else s.headerAt k

/-- RE_REQUEST: the source sends the packet again from its retransmit store, with RETX set (R378); a copy of what has been delivered whole meanwhile
is a duplicate. -/
def State.reRequest (s : State) (id : Nat) : State :=
  match s.deliverable id with
  | some k => match k.msg with
    | .rereq part src dst cls pseq =>
      let s := s.dropPkt id
      let same (q : Packet) : Bool := q.part == part && q.src == src && q.dst == dst && q.cls == cls && q.pseq == pseq
      match s.kept.find? same with
      | none => s
      | some q =>
        match s.net.find? fun h => same h && h.stage == .header with
        | some h => s.modPkt h.id fun h => { q with id := h.id, tcnt := h.tcnt, stage := .flying, trim := false, retx := true, at_ := s.clock }
        | none =>
          let (i, s) := s.newId
          { s with net := s.net ++ [{ q with id := i, stage := .flying, trim := false, retx := true, at_ := s.clock }] }
    | _ => s
  | none => s

/-- PACING_INTERVAL_EXPIRY: the interval of record `x` has ended, and a re-request that waited is sent (R378, R386). -/
def State.pacingExpiry (s : State) (x : Nat) : State :=
  match s.pairs[x]? with
  | none => s
  | some p =>
    if p.cls ≠ 2 ∨ !p.mayAsk s.clock then s
    else match p.waiting with
      | [] => s
      | (part, cls, seq) :: r =>
        let s' := s.setPair { p with waiting := r }
        if s.net.any fun q => q.part == part && q.src == p.src && q.dst == p.dst && q.cls == cls && q.pseq == seq && q.stage == .header then
          (s'.setPair { p with waiting := r, lastReq := s.clock + 1 }).send part 2 p.dst p.src 0 (.rereq part p.src p.dst cls seq)
        else s'

/-! ### Delivery marks (R377) -/

/-- DELIVERY_MARK: a bare mark reaches the source. -/
def State.deliveryMark (s : State) (id : Nat) : State :=
  match s.deliverable id with
  | some k => match k.msg with
    | .mark part src dst cls seq => (s.dropPkt id).freeKept part src dst cls seq
    | _ => s
  | none => s

/-- BARE_DELIVERY_MARK: nothing has gone the other way for 256 ns, and the mark of the pair of record `x` travels alone. -/
def State.bareMark (s : State) (x : Nat) : State :=
  match s.pairs[x]? with
  | none => s
  | some p =>
    if p.cls < 2 && p.marked != p.nextDel && (s.pair p.part p.dst p.src p.cls).lastSent + 256 * Config.ccPerNs ≤ s.clock then
      (s.setPair { p with marked := p.nextDel }).send p.part 2 p.dst p.src 0 (.mark p.part p.src p.dst p.cls ((p.nextDel + seqMod - 1) % seqMod))
    else s

/-! ### End-to-end timers (R380) -/

/-- A request fails with Link Timeout: its copies still on their way are void. -/
def State.linkTimeout (s : State) (k : Packet) : State :=
  let gone (q : Packet) : Packet := if k.samePair q && q.pseq == k.pseq && q.stage != .ready then { q with msg := .void } else q
  let s := { s with net := s.net.map gone, kept := s.kept.map gone, outgoing := s.outgoing.filter fun o => o.pkt.id != k.id }
  match k.msg with
  | .req r => if r.via = .ctx then s.refuseAccess r.src r.acc cLink else s.viaRefused r.via r.acc cLink
  | .ringReq c acc _ _ _ => s.refuseAccess c acc cLink
  | _ => s

/-- A request that fails when no link has carried it; the others are sent again for as long as it takes. -/
def Msg.canFail : Msg → Bool | .req _ | .ringReq _ _ _ _ _ => true | _ => false

/-- END_TO_END_EXPIRY: 16 us after request `id` was sent, and it is not answered (R380). It is sent again beside the copies of it still on
their way. After 8 expiries on the link its pair is on, the pair takes the next; after 8 on every link the request fails. The port it was
last sent by counts the expiry (R384). Timers of a swapped partition stand still (R406). -/
def State.endToEndExpiry (s : State) (id : Nat) : State :=
  match s.outgoing.find? (·.pkt.id == id) with
  | none => s
  | some o =>
    let k := o.pkt
    let g := s.agentPkg k.src
    if !s.awaited k || s.clock < o.timer + 16000 * Config.ccPerNs || !(s.part k.part).onCores then s
    else
      let n := max 1 (s.linksTo k.part g (s.agentPkg k.dst)).length
      let s := match s.linkAfter k o.link with
        | some l => s.countAt (g, (l / 8) * 512 + 8 * 32 + 4 * (l % 8) + 2, 10) 4
        | none => s
      let on := o.link % n
      let e := amGet 0 o.tries on + 1
      let tries := amSet o.tries on e
      if k.msg.canFail && (List.range n).all fun l => 8 ≤ amGet 0 tries l then s.linkTimeout k
      else
        let p := s.pair k.part k.src k.dst 0
        let p := if e % 8 = 0 && p.link % n = on then { p with link := p.link + 1 } else p
        let (i, s) := (s.setPair p).newId
        { s with net := s.net ++ [{ k with id := i, stage := .flying, trim := false, retx := true, tcnt := 0, at_ := s.clock }]
                 outgoing := s.outgoing.map fun q => if q.pkt.id == id then { q with timer := s.clock, link := p.link, tries := tries } else q }

/-! ### Links and routers (R379, R382, R449) -/

/-- LINK_REPLAY: a flit failed its check and the link replayed from it; nothing is lost or reordered (R379). -/
def State.linkReplay (s : State) (pkg link : Nat) : State :=
  if link < 32 && (amGet? s.pkgs pkg).isSome && (s.pkg pkg).linkUp link then
    let h := linkSpot pkg link
    s.countAt (pkg, h.die * 512 + h.row * 32 + h.col, 10) 3
  else s

/-- LANE_RETIREMENT: the lane gets its Winter entry and stops at once (R379, R449, R453). -/
def State.laneRetirement (s : State) (pkg lane cause : Nat) : State :=
  let g := s.pkg pkg
  if (amGet? s.pkgs pkg).isSome && lane < 256 && (cause == 3 || cause == 4) && !g.lanesOff.contains lane then
    let e := 4 * 2 ^ 60 + cause * 2 ^ 56 + lane * 2 ^ 40 + s.gtime / 1000 % 2 ^ 40
    (s.modPkg pkg fun g => { g with lanesOff := lane :: g.lanesOff, pendingRetire := g.pendingRetire ++ [(s.clock, wd e)] }).retirement pkg 4
  else s

/-- A router may power down: none of the package's partitions forbids it, and it has carried nothing for 512 ns (R382). -/
def State.mayPowerDown (s : State) (pkg r : Nat) : Bool :=
  (amGet? s.pkgs pkg).isSome && r < 2048 && !(s.pkg pkg).downRouters.contains r &&
  amGet 0 (s.pkg pkg).lastFlit r + 512 * Config.ccPerNs ≤ s.clock &&
  !(s.net.any fun k => k.stage == .flying && ((s.routeOf k).any fun h => h.any fun x => x.1 == pkg && x.2.1 == r)) &&
  !(List.range 16).any fun p => bitAt (s.part p).pmctl 0 && (s.part p).active.pkg.any fun g => g.2 == pkg &&
    (s.part p).active.vcore.any fun v => (s.pkg pkg).physCore v.2 == r

/-- ROUTER_POWER_DOWN (R382). -/
def State.routerPowerDown (s : State) (pkg r : Nat) : State :=
  if s.mayPowerDown pkg r then s.modPkg pkg fun g => { g with downRouters := r :: g.downRouters } else s

/-- ROUTER_WAKE: a packet nears the router (R382). -/
def State.routerWake (s : State) (pkg r : Nat) : State :=
  if (s.pkg pkg).downRouters.contains r &&
      s.net.any fun k => k.stage == .flying && ((s.routeOf k).any fun h => h.any fun x => x.1 == pkg && x.2.1 == r) then
    s.modPkg pkg fun g => { g with downRouters := g.downRouters.filter (· != r), lastFlit := amSet g.lastFlit r s.clock }
  else s

def execPacketTrim (m : Nat) : State → Host.Outcome State Fault Refusal := runEvent (·.packetTrim m)
def execPacketArrival (m : Nat) : State → Host.Outcome State Fault Refusal := runEvent (·.packetArrival m)
def execTrimmedHeader (m : Nat) : State → Host.Outcome State Fault Refusal := runEvent (·.trimmedHeader m)
def execReRequest (m : Nat) : State → Host.Outcome State Fault Refusal := runEvent (·.reRequest m)
def execPacingIntervalExpiry (x : Nat) : State → Host.Outcome State Fault Refusal := runEvent (·.pacingExpiry x)
def execDeliveryMark (m : Nat) : State → Host.Outcome State Fault Refusal := runEvent (·.deliveryMark m)
def execBareDeliveryMark (x : Nat) : State → Host.Outcome State Fault Refusal := runEvent (·.bareMark x)
def execEndToEndExpiry (m : Nat) : State → Host.Outcome State Fault Refusal := runEvent (·.endToEndExpiry m)
def execLinkReplay (pkg link : Nat) : State → Host.Outcome State Fault Refusal := runEvent (·.linkReplay pkg link)
def execLaneRetirement (pkg lane cause : Nat) : State → Host.Outcome State Fault Refusal := runEvent (·.laneRetirement pkg lane cause)
def execRouterPowerDown (pkg r : Nat) : State → Host.Outcome State Fault Refusal := runEvent (·.routerPowerDown pkg r)
def execRouterWake (pkg r : Nat) : State → Host.Outcome State Fault Refusal := runEvent (·.routerWake pkg r)

end Sys2Proof.Machine
end

