-- ==== Sys2Proof/Machine/Partitions.lean ====
section
/-! DEFINITION. Partitions and the sharing of time: remap tables, the save area, the switch (19_partitions_time.md R421-R433). -/
namespace Sys2Proof.Machine

/-! ### Remap tables (R422, R423) -/

/-- Stage an entry: a logical number, or removal. Numbers no virtual core, cluster or package can have name nothing. -/
def Part.stage (q : Part) (kind vnum : Nat) (e : Option Nat) : Part :=
  match kind with
  | 0 => { q with staged := { q.staged with vcore := amSet q.staged.vcore vnum e } }
  | 1 => if vnum < 256 then { q with staged := { q.staged with clu := amSet q.staged.clu vnum e } } else q
  | _ => if vnum < 64 then { q with staged := { q.staged with pkg := amSet q.staged.pkg vnum e } } else q

/-- Apply staged entries to a table. -/
def applyStaged (m : AMap Nat) (st : AMap (Option Nat)) : AMap Nat :=
  st.foldl (fun m e => match e.2 with | some l => amSet m e.1 l | none => amErase m e.1) m
/-- The tables a resumption would put in force (R422). -/
def Part.nextMap (q : Part) : Remap :=
  { vcore := applyStaged q.active.vcore q.staged.vcore, clu := applyStaged q.active.clu q.staged.clu
    pkg := applyStaged q.active.pkg q.staged.pkg }

/-- The logical cluster of a logical core (R21, R22). -/
def Pkg.cluOfCore (k : Pkg) (l : Nat) : Nat :=
  let u := cluOfPhys (k.physCore l)
  if k.retired.isEmpty then u else ((below 256 k.cluLive).filter (· < u)).length

/-- No value twice. -/
def noRepeat (l : List Nat) : Bool := decide ((dedup l).length = l.length)

/-- The logical clusters of tables, each with its logical package. -/
def Remap.clusters (m : Remap) : List (Nat × Nat) := m.pkg.flatMap fun g => m.clu.map fun u => (g.2, u.2)

/-- Tables of partition `p` are valid, but for what the other partitions hold (R423). -/
def State.mapOk (s : State) (p : Nat) (m : Remap) : Bool :=
  let on := if m.pkg.isEmpty then s.pkgs.map (·.1) else m.pkg.map (·.2)
  noRepeat (m.vcore.map (·.2)) && noRepeat (m.clu.map (·.2)) && noRepeat (m.pkg.map (·.2)) &&
  m.pkg.all (fun g => (amGet? s.pkgs g.2).isSome) &&
  m.vcore.all (fun v => match amGet? m.clu (v.1 / 8) with
    | some u => on.all fun g => let k := s.pkg g; decide (v.2 < k.liveCores) && k.cluOfCore v.2 == u
    | none => false) &&
  (let h := (s.part p).heldNums
   h.vcore.all (fun v => (amGet? m.vcore v.1).isSome) && h.clu.all (fun v => (amGet? m.clu v.1).isSome) &&
   h.pkg.all (fun v => (amGet? m.pkg v.1).isSome))

/-- Partitions whose clusters meet those of tables, in some phase. -/
def State.sharers (s : State) (p : Nat) (m : Remap) (in_ : Phase → Bool) : List Nat :=
  (List.range 16).filter fun q => q != p && (s.part q).st == .running && in_ (s.part q).phase &&
    (s.part q).active.clusters.any fun u => m.clusters.contains u

/-- The staged tables are valid for the incoming slice (R423). -/
def State.stagedOk (s : State) (p : Nat) : Bool :=
  let m := (s.part p).nextMap
  s.mapOk p m && (s.sharers p m fun f => match f with | .inSlice | .restored _ => true | _ => false).isEmpty

/-- RMAPW (R430, R431, R433). -/
def execRmapw (d a b : Reg) (la : Fin 16) : State → Host.Outcome State Fault Refusal :=
  runWord do
    let i : Instr := .rmapw d a b la
    needPriv .supervisor i
    let (vs, p) ← operands i [a, b] (some d)
    let sel := vs.getD 0 0
    let e := vs.getD 1 0
    faultIf (fld sel 62 2 = 3 || sel &&& ~~~(wd (mask 62 2 + mask 56 4 + 2047)) != 0 || e &&& ~~~(wd (2 ^ 63 + 2047)) != 0) cIllegal (wordOf i)
    if (← cx).priv ≠ .firmware ∧ fld sel 56 4 ≠ (← me).core.part then putDest p 3
    else
      modSt fun s => s.modPart (fld sel 56 4) fun q => q.stage (fld sel 62 2) (fld sel 0 11) (if bitAt e 63 then some (fld e 0 11) else none)
      putDest p 0
    openWindow d la

/-! ### The save area (R429) -/

/-- Bytes of a core image. -/
def Part.imageSize (q : Part) : Nat := 131072 + q.gscfg * 65536
/-- AreaSize of R429. -/
def State.areaSize (s : State) (p : Nat) : Nat :=
  let v := (s.partCores p).length
  v * (s.part p).imageSize + (s.partClus p).length * 65536 + 65536 + v * 65536
/-- The save area is present (R429). -/
def State.areaThere (s : State) (p : Nat) : Bool :=
  let a := (s.part p).gsarea.toNat
  a ≠ 0 && (amGet? s.pkgs (a / 2 ^ 46)).isSome && decide (a % 2 ^ 46 + s.areaSize p ≤ (s.pkg (a / 2 ^ 46)).hbmTop)

/-- Memory without the bytes from `lo` on, `n` of them. -/
def Memory.clear (m : List Host.Cell) (lo n : Nat) : List Host.Cell := m.filter fun k => !(lo ≤ k.1 && k.1 < lo + n)
/-- Copy `n` bytes from `src` to `dst`, apart from each other. -/
def Memory.copy (m : List Host.Cell) (src dst n : Nat) : List Host.Cell :=
  (m.filter fun k => k.1 < dst) ++ ((m.filter fun k => src ≤ k.1 && k.1 < src + n).map fun k => (k.1 - src + dst, k.2)) ++
    m.filter fun k => dst + n ≤ k.1
/-- Bytes of a core store or a save area go from `src` to `dst`, and what is uncorrectable among them stays so (R196). -/
def State.copyStore (s : State) (src dst n : Nat) : State :=
  let moved := (s.poison.filter fun g => src ≤ 32 * g && 32 * g < src + n).map fun g => (32 * g - src + dst) / 32
  { s with mem := Memory.copy s.mem src dst n, poison := moved ++ s.poison.filter fun g => !(dst ≤ 32 * g && 32 * g < dst + n) }
/-- Bytes of a core store read zero (R429). -/
def State.clearStore (s : State) (lo n : Nat) : State :=
  { s with mem := Memory.clear s.mem lo n, poison := s.poison.filter fun g => !(lo ≤ 32 * g && 32 * g < lo + n) }

/-- The cores of a partition with the places of their images. -/
def State.images (s : State) (p : Nat) : List (CoreId × Nat) :=
  (s.partCores p).zip ((List.range (s.partCores p).length).map fun i => (s.part p).gsarea.toNat + i * (s.part p).imageSize)

/-- An access whose reply has not landed (R428). -/
def Ctx.awaits (x : Ctx) : Bool := x.out.any fun a => !a.posted

/-- Write the image of a live context into its place (R429, R432). The reference of a pending request and the number of a
task-queue entry are not stated (log 8). -/
def State.saveCtx (s : State) (c : CtxId) (at_ : Nat) : State :=
  match s.ctx? c with
  | none => s
  | some x =>
    let (ref, s) := if x.awaits then s.freeBytes 56 else (toBytes 0 56, s)
    let (e, s) := s.freeWord
    s.poke at_ (s.ctxImage c x x.awaits ref (e.toNat % 4096))

/-- Write a core image: its contexts and local memory; its other bytes have no stated layout (R429). -/
def State.saveCore (s : State) (c : CoreId) (at_ : Nat) : State :=
  let n := (s.part c.part).gscfg * 65536
  let s := { s with openBytes := (at_, at_ + 0x20000) :: s.openBytes.flatMap (cutRange at_ (at_ + (s.part c.part).imageSize)) }
  let s := (slotsOf c).foldl (fun s x => s.saveCtx x (at_ + x.slot * 8192)) s
  s.copyStore (s.storePa c 0) (at_ + 0x20000) n

/-- What leaves a core that is saved: caches, translations, undo logs, stream buffers (R429), and what instructions that have not issued have
read so far (R426). -/
def Core.leave (k : Core) : Core :=
  { k with l1d := [], l1i := [], itlb := [], dtlb := []
           slots := k.slots.map fun (l : Slot) => { l with logNext := 0, ctx := l.ctx.map fun x => { x.refetchAll with reads := [], posted := none } } }

/-- Every packet of a partition falls out for the re-inject list with its PSEQ, a request performed at no home with it (R426,
R428). One delivered and not yet performed keeps its place. -/
def State.fallOut (s : State) (p : Nat) : State :=
  let mine := s.net.filter (·.part == p)
  let back := (s.homeWrites.filter fun h => h.pkt.part == p).map fun h => { h.pkt with stage := .ready }
  let out (k : Packet) : Packet := match k.stage with
    | .flying | .window | .header => { k with stage := .flying, trim := false }
    | _ => k
  ({ s with net := s.net.filter (·.part != p), homeWrites := s.homeWrites.filter fun h => h.pkt.part != p }).modPart p fun q =>
    { q with reinject := q.reinject ++ back ++ mine.map out }

/-- The clusters of a partition on a package whose queued tasks are still to be spilled (R426). A unit whose trap is pending spills none. -/
def State.toSpill (s : State) (p pkg : Nat) : List CluId :=
  (s.partClus p).filter fun u => u.pkg == pkg && (s.cluster u).unitTrap.isNone && (s.part p).tasks.any fun t => t.clu == u && t.st == .queued
/-- Spill the queued tasks of a cluster (R148, R426). -/
def State.spillQueued (s : State) (u : CluId) : State :=
  match State.spill u (byPrecedence ((s.part u.part).tasks.filter fun t => t.clu == u && t.st == .queued)) s with
  | .ok t => t
  | .error t => s.unitBack t u

/-- Settled tasks keep no undo records (R429). A task whose abort a forced chip still owes keeps its own (log 134). -/
def State.forgetUndo (s : State) (p : Nat) : State :=
  s.modPart p fun q => { q with tasks := q.tasks.map fun (t : Task) => if t.settled then { t with undo := [], logged := [], unlogged := true } else t }

/-- Empty a partition that has stopped for good (R437, R444). -/
def State.wipePart (s : State) (p : Nat) (q : Part) : State :=
  ({ s with
    cores := s.cores.filter fun k => (coreOfKey k.1).part != p
    clusters := s.clusters.filter fun k => (cluOfKey k.1).part != p
    jobs := s.jobs.filter fun j => j.issuer.core.part != p
    etlbs := s.etlbs.map fun (t : EngineTlb) => { t with tlb := t.tlb.filter (·.part != p) }
    net := s.net.filter (·.part != p), kept := s.kept.filter (·.part != p), outgoing := s.outgoing.filter (·.pkt.part != p), pairs := s.pairs.filter (·.part != p)
    homeWrites := s.homeWrites.filter fun h => h.pkt.part != p
    replies := s.replies.filter (·.1 != p), walks := s.walks.filter (·.clu.part != p)
    invals := s.invals.filter (·.part != p), publishes := s.publishes.filter (·.part != p)
    dirty := s.dirty.filter fun d => match d.2 with | .core c => c.part != p | _ => true }).setPart p q

/-- A dissolved partition: its mailboxes are emptied and its clusters freed (R444). -/
def Part.dissolved : Part := { Part.fresh with st := .dissolved }

/-- The partition has quiesced on every chip: it is written to its save area and its slice is counted (R426, R427, R429). The
translations of its cores go with their caches; those of its clusters, task units and copy engines stay (R231; log 130). -/
def State.saveOut (s : State) (p : Nat) : State :=
  if (s.part p).dissolving then s.wipePart p Part.dissolved
  else
    let s := (s.forgetUndo p).fallOut p
    let s := (s.images p).foldl (fun s x => s.saveCore x.1 x.2) s
    let a := (s.part p).gsarea.toNat
    let from_ := a + (s.partCores p).length * (s.part p).imageSize
    let s := { s with
      openBytes := (from_, a + s.areaSize p) :: s.openBytes.flatMap (cutRange from_ (a + s.areaSize p))
      cores := s.cores.map fun (i, (k : Core)) => (i, if (coreOfKey i).part == p then k.leave else k)
      walks := s.walks.filter (·.clu.part != p)
      dirty := s.dirty.filter fun d => match d.2 with | .core c => c.part != p | _ => true }
    s.modPart p fun q => { q with phase := .out_, gsSlices := (q.gsSlices + 1) % 65536, round := none }

/-! ### The switch (R425-R428) -/

/-- A context stops at an instruction boundary: what it waits in executes afresh (R127, R426). -/
def Ctx.stopped (x : Ctx) : Ctx := { x.unpark with yielded := false }

/-- SOLSTICE_MARK (R425, R426, R429, R433): the mark is taken, unless the save area is missing. Speculative tasks are aborted, those with
accesses in flight once these are performed (R159). -/
def State.solsticeMark (s : State) (p : Nat) : State :=
  let q := s.part p
  if !q.live || q.gsmark == 0 || s.gtime < markAt q.gsmark then s
  else if !s.areaThere p then (s.modPart p fun q => { q with gsmark := 0, gsErr := 1 }).tell p 16
  else
    let s := (s.partCores p).foldl (fun s c => (slotsOf c).foldl (fun s x => (s.cancelMove x).modCtx x Ctx.stopped) s) s
    let spec := (q.tasks.filter fun t => !t.settled && (t.st == .running || t.st == .finished)).map (·.id)
    let s := spec.foldl (fun s id =>
      if ((s.part p).tasks.find? (·.id == id)).any fun t => t.aborting.isNone && (t.st == .running || t.st == .finished) then
        if s.mayAbort p id then s.abort .capacity false p id else s.stopTask .capacity true p id
      else s) s
    s.modPart p fun q => { q with gsmark := 0, mbWait := [], phase := .stopping (markAt (s.part p).gsmark) (q.active.pkg.map (·.1)) [] }

/-- A chip of a partition has drained (R426): no instruction awaits a reply, no MXU command is queued, no engine job is within a piece, no
abort waits, no record of a task is on its way to or from the overflow region, no tracker of its cores is taken (R247). -/
def State.chipIdle (s : State) (p pkg : Nat) : Bool :=
  !(s.ctxIds.any fun c => c.core.part == p && c.core.pkg == pkg && (s.ctx? c).any fun x => x.awaits || (x.leaving.isSome && s.quiet c x)) &&
  !(s.cores.any fun k => (coreOfKey k.1).part == p && (coreOfKey k.1).pkg == pkg && !k.2.mxq.isEmpty) &&
  !(s.jobs.any fun j => j.part == p && j.issuer.core.pkg == pkg && !j.atBoundary) &&
  !((s.part p).tasks.any fun t => t.clu.pkg == pkg && (t.aborting.isSome || t.asked)) &&
  !(s.net.any fun k => k.part == p && (match k.msg with | .req r => (match r.via with | .unit u => u.pkg == pkg | _ => false) | _ => false)) &&
  !(s.invals.any fun x => x.part == p && x.core.any fun c => c.pkg == pkg)
/-- A chip of a partition has quiesced (R426): it has drained, and its task units have spilled. -/
def State.chipQuiet (s : State) (p pkg : Nat) : Bool := s.chipIdle p pkg && (s.toSpill p pkg).isEmpty

/-- A chip is counted quiesced; with the last of them the partition leaves. -/
def State.quiesced (s : State) (p pkg : Nat) : State :=
  match (s.part p).phase with
  | .stopping m left lag =>
    let left := left.filter (· != pkg)
    let s := s.modPart p fun q => { q with phase := .stopping m left lag }
    if left.isEmpty then s.saveOut p else s
  | _ => s

/-- The phase of a partition that is stopping on a package. -/
def State.stoppingOn (s : State) (p pkg : Nat) : Option (Nat × List Nat) :=
  match (s.part p).phase with
  | .stopping m left lag => if left.contains pkg then some (m, lag) else none
  | _ => none

/-- LAGGARD (R428, R453): 20 us after the mark, for a chip that has not reported by then; counted once a switch. -/
def State.laggard (s : State) (p pkg : Nat) : State :=
  match s.stoppingOn p pkg with
  | some (m, lag) =>
    if lag.contains pkg || s.gtime < m + 20000 || (s.gtime == m + 20000 && s.chipQuiet p pkg) then s
    else
      let s := if lag.isEmpty then
          (s.modPart p fun q => { q with gsLags := min 65535 (q.gsLags + 1) }).lifeAdd (s.logPkg p pkg) 6 0 1
        else s
      s.modPart p fun q => match q.phase with
        | .stopping m left lag => { q with phase := .stopping m left (pkg :: lag) }
        | _ => q
  | none => s

/-- QUIESCE_REPORT (R159, R426, R428): aborts that have waited are carried out, the task units of a drained chip spill, and then it reports; one that
reports late is a laggard whether or not it has been counted before. -/
def State.quiesceReport (s : State) (p pkg : Nat) : State :=
  if (s.stoppingOn p pkg).isNone then s
  else
    let s := s.endAborts p
    if s.chipQuiet p pkg then (s.laggard p pkg).quiesced p pkg
    else if s.chipIdle p pkg then (s.toSpill p pkg).foldl (fun s u => s.spillQueued u) s
    else s

/-- What a forced chip keeps (R428): jobs give up the reads they have not completed; a request to another package whose reply has not
landed falls out as its copy, where it is not in the network itself. -/
def State.forceOut (s : State) (p pkg : Nat) : State :=
  let here (k : Packet) : Bool := (s.net ++ (s.part p).reinject).any (fun q => k.samePair q && q.pseq == k.pseq) ||
    s.homeWrites.any fun h => k.samePair h.pkt && h.pkt.pseq == k.pseq
  let again := s.outgoing.filter fun o => o.pkt.part == p && s.agentPkg o.pkt.src == s.logPkg p pkg && s.awaited o.pkt && !here o.pkt
  let s := { s with jobs := s.jobs.map fun (j : Job) => if j.part == p && j.issuer.core.pkg == pkg then
    { j with reads := j.reads.filter fun r => r.bytes.isSome || r.cause.isSome } else j }
  again.foldl (fun s o =>
    let (i, s) := s.newId
    { s with net := s.net ++ [{ o.pkt with id := i, stage := .flying, trim := false, retx := true, tcnt := 0, at_ := s.clock }] }) s

/-- HARD_QUIESCE (R428, R433, R453): 50 us after the mark a chip that has not reported is forced, and every packet of the partition falls out; a
report that could be made comes first. -/
def State.hardQuiesce (s : State) (p pkg : Nat) : State :=
  match s.stoppingOn p pkg with
  | some (m, lag) =>
    if !lag.contains pkg || s.gtime < m + 50000 || s.chipQuiet p pkg then s
    else ((s.modPart p fun q => { q with gsHardq := min 65535 (q.gsHardq + 1) }).lifeAdd (s.logPkg p pkg) 6 1 1).forceOut p pkg |>.fallOut p |>.quiesced p pkg
  | none => s

/-- A resumption that fails (R423, R429, R438, R444). -/
def State.resumeFails (s : State) (p err : Nat) : State :=
  (s.modPart p fun q => { q with gsErr := err, st := .halted }).tell p 16

/-- Put a context back from its image (R429): its streams as QLOAD binds them; a stream that cannot be bound keeps its place and
reads afresh, and a neighbour stream whose neighbour is another core is broken (R283). -/
def State.restoreCtx (s : State) (c : CtxId) (at_ : Nat) (wasNbr : Dir → Option CoreId) : State :=
  match s.ctx? c with
  | none => s
  | some x =>
    let b := Memory.readN s.mem at_ 8192
    let y := x.fromImage b
    let one (q : Fin 8) : Option Stream × State :=
      let g := (b.drop (0x300 + 64 * q.val)).take 64
      let old : Option Stream := (x.streams.get q).map fun (t : Stream) =>
        if t.kind == SKind.nbr && s.neighbour c.core t.dir != wasNbr t.dir then { t with broken := true } else t
      if (match x.streams.get q with | some t => t.kind == SKind.nbr && imageOf (some t) == g | none => false) then (old, s)
      else match (loadImage (.qload q 0) true q g).run { st := { s with cur := c }, cx := { y with streams := Vector.replicate 8 none }, next := 0, before := y.streams } with
        | .ok (t, e) => (t, { e.st with cur := s.cur })
        | .error _ => (old.map fun (t : Stream) => t.resume g, s)
    let r := (List.finRange 8).foldl (fun (v, s) q => let z := one q; (v.set q z.1, z.2)) (y.streams, s)
    (r.2.putCtx c { y with streams := r.1 }).modPart c.core.part fun q =>
      { q with tasks := q.tasks.map fun t => if some t.id == x.task && t.settled then t.fromImage (b.drop 0x1800) else t }

/-- Where a place in a core store of the partition stands under new tables (R427). -/
def State.movedPa (old s : State) (p pa : Nat) : Nat :=
  if !inStore pa then pa
  else match (old.partCores p).find? fun c => old.storePa c 0 == pa / 2 ^ 20 * 2 ^ 20 with
    | some c => if s.hasCore c then s.storePa c (pa % 2 ^ 20) else pa
    | none => pa

/-- What is kept over a switch with a physical place in it, carried to where the core stands now (R427, R432): packets on the re-inject list and in
retransmit stores, requests not answered, pushes whose word is still to come, queued stores of settled tasks, what an abort still owed restores. -/
def State.carry (old s : State) (p : Nat) : State :=
  let pkt (k : Packet) : Packet := match k.msg with
    | .req r => { k with msg := .req { r with pa := old.movedPa s p r.pa } }
    | _ => k
  let act : Nat × Action → Nat × Action
    | (n, .defer va pa home page v) => (n, .defer va (old.movedPa s p pa) home page v)
    | a => a
  let ctx (x : Ctx) : Ctx := { x with out := x.out.map fun (a : Access) => { a with pend := a.pend.map fun e => (e.1, { e.2 with pa := old.movedPa s p e.2.pa }) } }
  ({ s with
    outgoing := s.outgoing.map fun (o : Outgoing) => if o.pkt.part == p then { o with pkt := pkt o.pkt } else o
    kept := s.kept.map fun (k : Packet) => if k.part == p then pkt k else k
    cores := s.cores.map fun (i, (k : Core)) => (i, if (coreOfKey i).part == p then
      { k with slots := k.slots.map fun (l : Slot) => { l with ctx := l.ctx.map ctx } } else k) }).modPart p fun q =>
    { q with
      reinject := q.reinject.map pkt
      tasks := q.tasks.map fun (t : Task) => { t with
        actions := t.actions.map act, logged := t.logged.map (old.movedPa s p)
        undo := t.undo.map fun (x, a, b) => (old.movedPa s p x, old.movedPa s p a, b) } }

/-- A cluster's translations stand in its logical cluster: one that has moved starts without (R236, R427). -/
def State.dropMoved (old s : State) (p : Nat) : State :=
  let moved (u : CluId) : Bool := u.part == p &&
    !(amGet? (old.part p).active.clu u.clu == amGet? (s.part p).active.clu u.clu && amGet? (old.part p).active.pkg u.pkg == amGet? (s.part p).active.pkg u.pkg)
  { s with clusters := s.clusters.map fun (i, (k : Cluster)) => (i, if moved (cluOfKey i) then { k with tlb := [], utlb := none } else k) }

/-- RESTORE (R422, R423, R427, R429, R438): no partition still on the clusters, tables valid and area there, the partition's state
comes back on the cores its new tables name. -/
def State.restore (s : State) (p : Nat) : State :=
  let q := s.part p
  if q.st ≠ .running ∨ q.phase ≠ .out_ ∨ !q.everRun then s
  else if !(s.sharers p q.nextMap fun f => match f with | .inSlice | .stopping _ _ _ => true | _ => false).isEmpty then s
  else if !s.stagedOk p then s.resumeFails p 2
  else
    let old := s
    let s := s.modPart p fun q => { q with active := q.nextMap }
    if !s.areaThere p then old.resumeFails p 1
    else
      let n := q.gscfg * 65536
      -- cores new to the partition have no image
      let saved := (old.images p).filter fun x => s.hasCore x.1
      let s := (s.partCores p).foldl (fun s c => s.clearStore (s.storePa c 0) 1048576) s
      let s := saved.foldl (fun s x => s.copyStore (x.2 + 0x20000) (s.storePa x.1 0) n) s
      let s := saved.foldl (fun s x => (slotsOf x.1).foldl (fun s c =>
        s.restoreCtx c (x.2 + c.slot * 8192) (old.neighbour x.1)) s) s
      let s := (old.carry s p |> old.dropMoved) p
      let s := { s with jobs := s.jobs.map fun (j : Job) =>
        if j.issuer.core.part == p then { j with pkg := s.logPkg p j.issuer.core.pkg, engine := s.engineOf j.issuer.core } else j }
      s.modPart p fun q => { q with
        staged := Staged.empty, phase := .restored s.gtime, gsErr := 0 }

/-- SLICE_START (R425, R427): at the first GTIME multiple of 256 after the restored report; a GSMARK that was held applies; packets of the re-inject list come first, their
end-to-end timers starting anew (R406). -/
def State.sliceStart (s : State) (p : Nat) : State :=
  match (s.part p).phase with
  | .restored t =>
    if (s.part p).st ≠ .running ∨ s.gtime < (t / 256 + 1) * 256 then s
    else
      let back := (s.part p).reinject.map fun (k : Packet) => if k.stage == .flying then { k with at_ := s.clock } else k
      ({ s with
        net := back ++ s.net
        outgoing := s.outgoing.map fun (o : Outgoing) => if o.pkt.part == p then { o with timer := s.clock } else o }).modPart p fun q =>
        { q with phase := .inSlice, reinject := [], heldNums := q.active, nextRound := q.roundFrom s.clock
                 gsmark := q.gsmarkHeld.getD q.gsmark, gsmarkHeld := none }
  | _ => s

def execSolsticeMark (p : Nat) : State → Host.Outcome State Fault Refusal := runPart p (·.solsticeMark p)
def execQuiesceReport (p pkg : Nat) : State → Host.Outcome State Fault Refusal := runPart p (·.quiesceReport p pkg)
def execLaggard (p pkg : Nat) : State → Host.Outcome State Fault Refusal := runPart p (·.laggard p pkg)
def execHardQuiesce (p pkg : Nat) : State → Host.Outcome State Fault Refusal := runPart p (·.hardQuiesce p pkg)
def execRestore (p : Nat) : State → Host.Outcome State Fault Refusal := runPart p (·.restore p)
def execSliceStart (p : Nat) : State → Host.Outcome State Fault Refusal := runPart p (·.sliceStart p)

end Sys2Proof.Machine
end

