-- ==== Sys2Proof/Machine/HostSide.lean ====
section
/-! DEFINITION. The host complex: control commands, the control aperture, events and the host window (20_host_domain.md
R434-R447). -/
namespace Sys2Proof.Machine

/-! ### Commands (R436, R437) -/

/-- What a command gives: an error code, or a result for HCARG1 and the state it leaves. -/
abbrev CmdRes := Except Nat (Option Word × State)

def badArg : Nat := 2
def badState : Nat := 3

/-- A command cannot be taken: there is no such package or partition, or another command has not completed (R437). -/
def State.noCommand (s : State) (h : HostCmd) : Bool :=
  (amGet? s.pkgs h.pkg).isNone || decide (16 ≤ h.part) || (s.pkg h.pkg).hcbusy.any (· != h)
/-- A command is taken, with the operands the host has written (R436). -/
def Pkg.takeCmd (k : Pkg) (h : HostCmd) : Pkg :=
  if k.hcbusy.isSome then k else { k with hcarg0 := h.arg0, hcarg1 := h.arg1, hcarg2 := h.arg2 }

/-- Complete a command (R436): DONE counts it, ERR holds its code, HCARG1 receives its result; a failed one changes nothing. -/
def State.command (s : State) (h : HostCmd) (f : State → CmdRes) : State :=
  if s.noCommand h then s
  else
    let s := s.modPkg h.pkg fun k => k.takeCmd h
    let done (s : State) (err : Nat) (r : Option Word) : State := s.modPkg h.pkg fun k =>
      { k with hcbusy := none, hcerr := err, hcdone := (k.hcdone + 1) % 2 ^ 32, hcarg1 := r.getD k.hcarg1 }
    if !(s.pkg h.pkg).ready then done s 4 none
    else match f s with
      | .ok (r, s) => done s 0 r
      | .error e => done s e none

/-- Operand bits outside a mask. -/
def strayBits (v : Word) (m : Nat) : Bool := v &&& ~~~(wd m) != 0

/-- The register and the context HCARG0 of SYSWR and SYSRD names: its operand must be in range, its partition formed, its core in
the partition's tables where the register is one of a context, slot, core or cluster (R437). -/
def State.cmdTarget (s : State) (h : HostCmd) : Except Nat (SysReg × CtxId) :=
  let c : CtxId := { core := { part := h.part, pkg := fld h.arg0 32 6, vc := fld h.arg0 16 11 }, slot := fld h.arg0 27 4 }
  if strayBits h.arg0 (mask 32 6 + mask 16 15 + mask 0 12) || h.arg2 != 0 then .error badArg
  else match sysOfNat (fld h.arg0 0 12) with
    | none => .error badArg
    | some r =>
      if r.held = .device then .ok (r, c)
      else if 10 < c.slot then .error badArg
      else if !(s.part h.part).formed then .error badState
      else if r.held = .partition then .ok (r, c)
      else if s.hasCore c.core then .ok (r, c)
      else .error badArg

/-- A device register of a package. -/
def State.readDevice (s : State) (g : Nat) (r : SysReg) : Word :=
  let k := s.pkg g
  match r with
  | .gtime => wd s.gtime | .devstat => k.devstat | .cfgsel => k.cfgsel | .cfgdat => k.configWord (fld k.cfgsel 0 6)
  | .ltsel => k.ltsel | .ltdat => k.lifeValue k.ltsel | .pwrcap => wd k.pwrcap | .pwrstat => k.pwrstat
  | _ => 0

/-- A write command must wait for an access its write makes (R437): of TASKCFG or RCCMD, or through DBGDAT of another context. -/
def State.cmdWaits (s : State) (h : HostCmd) : Bool :=
  (s.pkg h.pkg).ready && match s.cmdTarget h with
    | .ok (.dbgdat, c) =>
      let v := (s.core c.core).dbgsel
      (sysOfNat (fld v 0 13)).any fun r => s.outsideWaits (dbgTarget h.part v).core .supervisor r h.arg1
    | .ok (r, c) => r.writeLevel.isSome && s.outsideWaits c.core .firmware r h.arg1
    | .error _ => false

/-- HOST_SYSWR (R437): BUSY while its write waits. -/
def State.hostSyswr (s : State) (h : HostCmd) : State :=
  if !s.noCommand h && s.cmdWaits h then s.modPkg h.pkg fun k => { k.takeCmd h with hcbusy := some h }
  else s.command h fun s =>
    match s.cmdTarget h with
    | .error e => .error e
    | .ok (r, c) => match r.writeLevel with
      | none => .error badArg
      | some _ =>
        match r with
        | .pwrcap => .ok (none, s.pwrcapWrite h.pkg h.arg1)
        | .cfgsel => .ok (none, s.modPkg h.pkg fun k => { k with cfgsel := keep h.arg1 63 })
        | .ltsel => .ok (none, s.modPkg h.pkg fun k => { k with ltsel := keep h.arg1 (mask 0 19) })
        | .dbgdat => let v := (s.core c.core).dbgsel
                     .ok (none, s.dbgWrite (dbgTarget h.part v) (fld v 0 13) h.arg1)
        | _ =>
          if r.held = .context ∧ (s.ctx? c).isNone then .error badState
          else match s.writeAny c .firmware r h.arg1 with
            | some s => .ok (none, s)
            | none => .error badArg

/-- HOST_SYSRD (R437). -/
def State.hostSysrd (s : State) (h : HostCmd) : State :=
  s.command h fun s =>
    match s.cmdTarget h with
    | .error e => .error e
    | .ok (r, c) =>
      if r.held = .device then .ok (some (s.readDevice h.pkg r), s)
      else if r = .dbgdat then
        let v := (s.core c.core).dbgsel
        .ok (some (s.dbgRead (dbgTarget h.part v) (fld v 0 13)), s)
      else match s.readReg c r with
        | some v => .ok (some v, s)
        | none => .error badState

/-- HOST_RMAPW (R431, R437): as RMAPW at firmware level; the selector names the partition. -/
def State.hostRmapw (s : State) (h : HostCmd) : State :=
  s.command h fun s =>
    if fld h.arg0 62 2 = 3 || strayBits h.arg0 (mask 62 2 + mask 56 4 + 2047) || strayBits h.arg1 (2 ^ 63 + 2047) || h.arg2 != 0 then
      .error badArg
    else if !(s.part (fld h.arg0 56 4)).formed then .error badState
    else .ok (none, s.modPart (fld h.arg0 56 4) fun q =>
      q.stage (fld h.arg0 62 2) (fld h.arg0 0 11) (if bitAt h.arg1 63 then some (fld h.arg1 0 11) else none))

/-- Every operand is zero. -/
def plainCmd (h : HostCmd) : Bool := h.arg0 == 0 && h.arg1 == 0 && h.arg2 == 0

/-- FORM (R437, R444): empty remap tables, zero counters, empty mailboxes. -/
def State.form (s : State) (h : HostCmd) : State :=
  s.command h fun s =>
    if !plainCmd h then .error badArg
    else if (s.part h.part).formed then .error badState
    else .ok (none, s.wipePart h.part { Part.fresh with st := .formed })

/-- The home of an access from outside to a byte of HBM (R183, R435): that of its page, which is the one that holds its sector dirty; where none does,
the byte is the same at any, and the slice stands for it (log 150). -/
def State.outsideHome (s : State) (pa : Nat) : Home :=
  ((s.dirty.find? fun d => d.1 == pa / 128 * 128).map (·.2)).getD (.llc (pa / 2 ^ 46) (s.sliceOf pa))
/-- Bytes of device memory at a physical address within a sector, as the home of an access from outside gives them: free ones where they are
uncorrectable (R196, log 100). -/
def State.deviceRead (s : State) (pa n : Nat) : List Byte × State :=
  if s.poisoned pa n then (s.meetBad pa n).freeBytes n else s.readBytes (s.outsideHome pa) pa n

/-- The first START of a partition: its tables in force, its first slice begun (R422, R437, R444). -/
def Part.begin (q : Part) (clock : Nat) : Part :=
  let q := { q with st := .running, everRun := true, phase := .inSlice, active := q.nextMap, staged := Staged.empty, heldNums := q.nextMap
                    gsmark := q.gsmarkHeld.getD q.gsmark, gsmarkHeld := none }
  { q with nextRound := q.roundFrom clock }

/-- The tables of a first START are valid (R423), and no partition that stops is still on their clusters (R427; log 135). -/
def State.startOk (s : State) (p : Nat) : Bool :=
  s.stagedOk p && (s.sharers p (s.part p).nextMap fun f => match f with | .stopping _ _ _ => true | _ => false).isEmpty

/-- START (R132, R437). -/
def State.start (s : State) (h : HostCmd) : State :=
  s.command h fun s =>
    let q := s.part h.part
    let pa := h.arg1.toNat
    let g := pa / 2 ^ 46
    let c : CtxId := { core := { part := h.part, pkg := fld h.arg0 11 6, vc := fld h.arg0 0 11 }, slot := 0 }
    if strayBits h.arg0 0x1FFFF || decide (pa % 64 ≠ 0) || decide (1 < h.arg2.toNat) || (amGet? s.pkgs g).isNone ||
        decide ((s.pkg g).hbmTop < pa % 2 ^ 46 + 64) then .error badArg
    else if !(q.st == .formed || (q.st == .running && q.phase == .inSlice)) then .error badState
    else
      let (b, s) := s.deviceRead pa 64
      if dword b 0 % 4 ≠ 0 then .error badArg
      else if q.st == .formed && !s.startOk h.part then .error 5
      else
        let s := if q.st == .formed then s.setPart h.part (q.begin s.clock) else s
        if !s.hasCore c.core then .error badArg
        else if (s.ctx? c).isSome then .error badState
        else
          let x := Ctx.blank c.core 0 .control
          let regs := (List.range 7).foldl (fun (r : Vector Word 32) j => r.set (Fin.ofNat 32 (j + 2)) (wd (dword b (j + 1)))) x.regs
          .ok (none, s.modSlot c fun l => { l with
            state := .held, ctx := some { x with regs := regs, pc := wd (dword b 0), priv := Priv.ofCode h.arg2.toNat } })

/-- ROUTE (R374, R437). -/
def State.route (s : State) (h : HostCmd) : State :=
  s.command h fun s =>
    if strayBits h.arg0 63 || strayBits h.arg1 0xFFFFFFFF || h.arg2 != 0 then .error badArg
    else .ok (none, s.modPkg h.pkg fun k => { k with route := amSet k.route h.arg0.toNat h.arg1.toNat })

/-- RESUME (R437, R444): the partition is RUNNING again, out of its slice. -/
def State.resume (s : State) (h : HostCmd) : State :=
  s.command h fun s =>
    if !plainCmd h then .error badArg
    else if (s.part h.part).st ≠ .halted then .error badState
    else .ok (none, s.modPart h.part fun q => { q with st := .running })

/-- DISSOLVE (R437, R444): at the next Solstice mark, or at once for a partition that is not on its cores. -/
def State.dissolve (s : State) (h : HostCmd) : State :=
  s.command h fun s =>
    if !plainCmd h then .error badArg
    else if !(s.part h.part).formed then .error badState
    else if (s.part h.part).onCores then .ok (none, s.modPart h.part fun q => { q with dissolving := true })
    else .ok (none, s.wipePart h.part Part.dissolved)

/-! ### Events and the window (R435, R438) -/

/-- HCEVT_CLEAR (R438). -/
def State.hcevtClear (s : State) (pkg : Nat) (v : Word) : State :=
  if (amGet? s.pkgs pkg).isSome then s.modPkg pkg fun k => { k with hcevt := k.hcevt &&& ~~~v } else s

/-- What a window access does to the tasks and caches of every partition (R158, R189). -/
def State.windowTouch (s : State) (write : Bool) (pa n : Nat) : State :=
  let s := (List.range 16).foldl (fun s p => s.conflict p none write pa n) s
  if write then
    { s with cores := s.cores.map fun (i, (k : Core)) => (i, { k with l1d := k.l1d.filter fun x => !(sectorsOf pa n).contains x }) }
  else s

/-- A write of the host window at its home (R158, R189, R359, R435). -/
def State.windowPut (s : State) (pa n v : Nat) : State :=
  (List.range 16).foldl (fun s p => s.soil p pa n) ((s.windowTouch true pa n).poke pa (toBytes v n))
/-- What a host core has read. -/
def State.hostGets (s : State) (pkg v : Nat) : State := s.modPkg pkg fun k => { k with hostRead := wd v }
/-- A host core's access to the window writes. -/
def hostWrites : HostOp → Bool | .load => false | _ => true
/-- Sizes of an access to the window (R434, R203). -/
def hostSizes : HostOp → List Nat | .atomic _ _ _ => [4, 8] | _ => [1, 2, 4, 8]

/-- HOST_WINDOW_ACCESS (R158, R159, R189, R191, R371, R434, R435): a load, a store or an atomic of a Dweulo core, which its IO die port sends to
its home, performed there. It waits while a
settled task's write or another write stands in its way, and for the accesses of the tasks it aborts. A read of an uncorrectable
granule returns a free value, and an atomic on one writes nothing (log 100). Outside HBM it reads zero and writes nothing. -/
def State.hostWindow (s : State) (pkg off bytes : Nat) (op : HostOp) : State :=
  let k := s.pkg pkg
  let pa := pkg * 2 ^ 46 + off
  if (amGet? s.pkgs pkg).isNone || !((hostSizes op).contains bytes) || off % bytes ≠ 0 then s
  else if !k.ready || k.hbmTop < off + bytes then
    match op with
    | .store _ => s
    | _ => s.hostGets pkg 0
  else if s.writeUnderWay pa bytes || (List.range 16).any fun p => s.settledHolds p none pa bytes then s
  else if (List.range 16).any fun p => s.conflictWaits p none (hostWrites op) pa bytes then
    (List.range 16).foldl (fun s p => s.stopVictims p none (hostWrites op) pa bytes) s
  else
    let h := s.outsideHome pa
    let s := s.thereAndBack (match h with | .core c => c.part | .llc _ _ => 0) 0 1 (.io pkg) h.agent
    match op with
    | .load =>
      let (b, s) := (s.windowTouch false pa bytes).deviceRead pa bytes
      s.hostGets pkg (ofBytes b)
    | .store w => s.windowPut pa bytes w.toNat
    | .atomic op x c =>
      let bad := s.poisoned pa bytes
      let (b, s) := (s.windowTouch true pa bytes).deviceRead pa bytes
      let m := ofBytes b
      let v := op.apply bytes m (x.toNat % 256 ^ bytes) (c.toNat % 256 ^ bytes)
      (if bad || (v = m && op == .cas) then s else s.windowPut pa bytes v).hostGets pkg m

/-! ### The aperture (R436) -/

/-- A command as HCCMD starts it (R437). -/
def State.hccmd (s : State) (pkg : Nat) (v : Word) : State :=
  let k := s.pkg pkg
  let h : HostCmd := { pkg := pkg, part := fld v 8 4, arg0 := k.hcarg0, arg1 := k.hcarg1, arg2 := k.hcarg2 }
  if k.hcbusy.isSome then s
  else if fld v 12 52 ≠ 0 then s.command h fun _ => .error badArg
  else match fld v 0 8 with
    | 1 => s.hostSyswr h
    | 2 => s.hostSysrd h
    | 3 => s.hostRmapw h
    | 4 => s.form h
    | 5 => s.start h
    | 6 => s.route h
    | 7 => s.resume h
    | 8 => s.dissolve h
    | _ => s.command h fun _ => .error 1

/-- A store of a Dweulo core into the control aperture (R436). -/
def State.aperture (s : State) (pkg off bytes : Nat) (v : Word) : State :=
  if (amGet? s.pkgs pkg).isNone || bytes ≠ 8 || off % 8 ≠ 0 then s
  else if off = 0 then s.hccmd pkg v
  else if off = 8 then s.modPkg pkg fun k => { k with hcarg0 := v }
  else if off = 16 then s.modPkg pkg fun k => { k with hcarg1 := v }
  else if off = 24 then s.modPkg pkg fun k => { k with hcarg2 := v }
  else if off = 0x100 then s.hcevtClear pkg v
  else
    let p := off / 0x100 % 16
    let o := off % 0x100
    if off / 0x1000 = 1 then
      if o < 0x40 then
        s.modPkg pkg fun k => let m := k.staged p; { k with mbin := amSet k.mbin p (m.take o ++ toBytes v.toNat 8 ++ m.drop (o + 8)) }
      else if o = 0x40 then s.mbpost pkg p
      else s
    else if off / 0x1000 = 2 ∧ o = 0x40 then s.mbtake p
    else s

/-- What an aligned doubleword of the control aperture reads (R5, R436): write-only registers and offsets not listed read zero. -/
def State.apertureWord (s : State) (pkg off : Nat) : Word :=
  let k := s.pkg pkg
  let p := off / 0x100 % 16
  let o := off % 0x100
  if off = 8 then k.hcarg0
  else if off = 16 then k.hcarg1
  else if off = 24 then k.hcarg2
  else if off = 32 then wd (b2n k.hcbusy.isSome + k.hcerr * 2 ^ 8 + k.hcdone * 2 ^ 32)
  else if off = 0x100 then k.hcevt
  else if off / 0x1000 = 1 then
    if o < 0x40 then wd (dword (k.staged p) (o / 8))
    else if o = 0x48 then wd (amGet 0 k.mbpres p)
    else if o = 0x50 then s.readShared { core := { part := p, pkg := 0, vc := 0 }, slot := 0 } .mbstat
    else 0
  else if off / 0x1000 = 2 ∧ o < 0x40 then wd (dword (((s.part p).outbox.head?).getD []) (o / 8))
  else 0

/-- A load of a Dweulo core from the control aperture (R436): what it reads stands in `hostRead`. -/
def State.apertureLoad (s : State) (pkg off bytes : Nat) : State :=
  if (amGet? s.pkgs pkg).isNone then s
  else s.modPkg pkg fun k => { k with hostRead := if bytes ≠ 8 ∨ off % 8 ≠ 0 then 0 else s.apertureWord pkg off }

def execHostSyswr (h : HostCmd) : State → Host.Outcome State Fault Refusal := runEvent (·.hostSyswr h)
def execHostSysrd (h : HostCmd) : State → Host.Outcome State Fault Refusal := runEvent (·.hostSysrd h)
def execHostRmapw (h : HostCmd) : State → Host.Outcome State Fault Refusal := runEvent (·.hostRmapw h)
def execForm (h : HostCmd) : State → Host.Outcome State Fault Refusal := runEvent (·.form h)
def execStart (h : HostCmd) : State → Host.Outcome State Fault Refusal := runEvent (·.start h)
def execRoute (h : HostCmd) : State → Host.Outcome State Fault Refusal := runEvent (·.route h)
def execResume (h : HostCmd) : State → Host.Outcome State Fault Refusal := runEvent (·.resume h)
def execDissolve (h : HostCmd) : State → Host.Outcome State Fault Refusal := runEvent (·.dissolve h)
def execHcevtClear (pkg : Nat) (v : Word) : State → Host.Outcome State Fault Refusal := runEvent (·.hcevtClear pkg v)
def execHostWindowAccess (pkg off bytes : Nat) (op : HostOp) : State → Host.Outcome State Fault Refusal :=
  runEvent (·.hostWindow pkg off bytes op)

end Sys2Proof.Machine
end

