-- ==== Sys2Proof/Machine/Power.lean ====
section
/-! DEFINITION. Bring-up, the Winter store, clocks and heat, attestation, power loss (21_winter_tables.md R448-R454;
22_bringup_power.md R455-R462). What the signatures and digests are taken over, and their values, stand behind log 9. -/
namespace Sys2Proof.Machine

/-- A step of a package of the domain. -/
def State.onPkg (s : State) (g : Nat) (f : Pkg → Pkg) : State := if (amGet? s.pkgs g).isSome then s.modPkg g f else s

/-- A package goes out of service (R438, R456). -/
def Pkg.out (k : Pkg) (oos : Nat) : Pkg :=
  { k with ready := false, phase := 15, oos := oos, hcevt := k.hcevt ||| (1#64 <<< 48) }

/-! ### The Winter store (R448) -/

/-- An entry of a valid table: KIND and UNIT in range (R448). -/
def entryOk (e : BitVec 64) : Bool :=
  let u := fld e 40 16
  match fld e 60 4 with
  | 0 => u < 2048
  | 1 => u < 2048 * 16
  | 2 => u < 256
  | 3 => u < 512
  | 4 => u < 256
  | _ => false

/-- The bytes a table's signatures are taken over. -/
def winterMsg (version : Nat) (entries : List (BitVec 64)) : List Byte :=
  toBytes version 4 ++ toBytes entries.length 4 ++ toBytes 0 56 ++ entries.flatMap fun e => toBytes e.toNat 8

/-- A copy is valid (R448). -/
def Pkg.copyOk (k : Pkg) (c : WinterCopy) : Bool :=
  decide (c.entries.length ≤ 1024) && c.entries.all entryOk &&
  k.attests false (winterMsg c.version c.entries) c.sig1 && k.attests true (winterMsg c.version c.entries) c.sig2

/-- The copy bring-up uses: true for copy A (R448). -/
def Pkg.winterIs (k : Pkg) : Option Bool :=
  match k.copyOk k.copyA, k.copyOk k.copyB with
  | true, true => some (decide (k.copyB.version ≤ k.copyA.version))
  | true, false => some true
  | false, true => some false
  | false, false => none
def Pkg.winter (k : Pkg) : Option WinterCopy := k.winterIs.map fun a => if a then k.copyA else k.copyB

/-- Rewrite the table with new entries over the other copy (R448). A unit has one entry. -/
def Pkg.rewrite (k : Pkg) (new_ : List (BitVec 64)) : Pkg :=
  match k.winterIs with
  | none => k
  | some a =>
    let c := if a then k.copyA else k.copyB
    let has (l : List (BitVec 64)) (e : BitVec 64) : Bool := l.any fun f => fld f 60 4 == fld e 60 4 && fld f 40 16 == fld e 40 16
    let es := (new_.foldl (fun l e => if has l e then l else l ++ [e]) c.entries).take 1024
    let v := (c.version + 1) % 2 ^ 32
    let n : WinterCopy := { version := v, entries := es, sig1 := Config.signs false k.attKey1 (winterMsg v es)
                            sig2 := Config.signs true k.attKey2 (winterMsg v es) }
    if a then { k with copyB := n } else { k with copyA := n }

/-- The entries a rewrite takes in (R449, R454): those that wait, but where an hourly write is due the ones of this very instant follow it. -/
def Pkg.toRewrite (k : Pkg) (clock : Nat) : List (Nat × BitVec 64) :=
  k.pendingRetire.filter fun e => !k.blockDue clock || e.1 / Config.ccPerNs != clock / Config.ccPerNs
/-- The table is rewritten with the entries that wait, where there is a valid table to rewrite (R448, R449). -/
def Pkg.rewritten (k : Pkg) (clock : Nat) : Pkg :=
  let es := k.toRewrite clock
  if es.isEmpty || k.phase = 0 || k.winterIs.isNone then k
  else { k.rewrite (es.map (·.2)) with pendingRetire := k.pendingRetire.filter fun e => !es.contains e }
/-- WINTER_REWRITE: the entries of retirements in service enter the table (R448, R449, R454). -/
def State.winterRewrite (s : State) (g : Nat) : State := s.onPkg g fun k => k.rewritten s.clock

/-- The unit of an entry has been retired already: an entry of the table or one that waits names it (R449). -/
def Pkg.hasEntry (k : Pkg) (e : BitVec 64) : Bool :=
  (((k.winter.map (·.entries)).getD []) ++ k.pendingRetire.map (·.2)).any fun f => fld f 60 4 == fld e 60 4 && fld f 40 16 == fld e 40 16

/-- A unit is retired for its uncorrectable errors: its entry waits for the next rewrite; it serves on until the next bring-up
(R448, R449, R453). -/
def State.retire (s : State) (g kind unit : Nat) : State :=
  let e := wd (kind * 2 ^ 60 + 2 * 2 ^ 56 + unit * 2 ^ 40 + s.gtime / 1000 % 2 ^ 40)
  if (amGet? s.pkgs g).isSome && decide (kind < 4) && decide (unit < 65536) && entryOk e && !(s.pkg g).hasEntry e then
    (s.modPkg g fun k => { k with pendingRetire := k.pendingRetire ++ [(s.clock, e)] }).retirement g kind
  else s

/-! ### Bring-up (R455-R457) -/

/-- POWER_GOOD: the rails are up and the IO die leaves reset; the lifetime records go on from the last written block, which is verified (R453,
R457). DESIGN CHOICE (log 148): the rules do not say what a block that does not verify brings; the counters then start at zero. -/
def State.powerGood (s : State) (g : Nat) : State :=
  s.onPkg g fun k => if k.phase = 0 then
    { k with phase := 1, oos := 0, life := if k.blockOk then k.lifeBlock else [], hour := s.clock / hourTicks } else k

/-- An image's header and body, over which its signatures are taken (R457). -/
def FwImage.bytes (i : FwImage) : List Byte := toBytes i.version 4 ++ i.key1 ++ i.key2 ++ i.body
/-- A whole image: header, signatures and body (R457, R458). -/
def FwImage.whole (i : FwImage) : List Byte := toBytes i.version 4 ++ i.key1 ++ i.key2 ++ i.sig1 ++ i.sig2 ++ i.body

/-- An image is valid (R457). -/
def Pkg.imageOk (k : Pkg) (i : FwImage) : Bool :=
  decide (Config.sha384 i.key1 = k.fuseKey1) && decide (Config.sha384 i.key2 = k.fuseKey2) &&
  Config.verifies false i.key1 i.bytes i.sig1 && Config.verifies true i.key2 i.bytes i.sig2 && decide (k.fuseMin ≤ i.version)

/-- The image the boot ROM runs: the valid one of higher version (R457). -/
def Pkg.image? (k : Pkg) : Option FwImage :=
  match k.fw0.filter k.imageOk, k.fw1.filter k.imageOk with
  | some a, some b => some (if b.version ≤ a.version then a else b)
  | some a, none => some a
  | none, b => b

/-- FIRMWARE_VERIFICATION. -/
def State.firmwareVerification (s : State) (g : Nat) : State :=
  s.onPkg g fun k =>
    if k.phase ≠ 1 then k
    else match k.image? with
      | some i => { k with phase := 2, fwver := i.version % 65536, fwRun := some i }
      | none => k.out 1

/-- The firmware raises the minimum version the fuses hold, once READY has been set under the new image, up to that image's own (R457). -/
def State.raiseMin (s : State) (g version : Nat) : State :=
  s.onPkg g fun k => if k.ready && decide (k.fuseMin ≤ version) && k.fwRun.any (fun i => version ≤ i.version) then { k with fuseMin := version } else k

/-- The entry of a unit that failed self-test or training: CAUSE 1 or 4 (R455). -/
def failedEntry (when_ : Nat) (e : BitVec 64) : BitVec 64 :=
  wd (fld e 60 4 * 2 ^ 60 + (if fld e 56 4 = 4 then 4 else 1) * 2 ^ 56 + fld e 40 16 * 2 ^ 40 + when_ % 2 ^ 40)

/-- SELF_CALIBRATION: the units that fail enter the table, which is rewritten (R448, R455). -/
def State.selfCalibration (s : State) (g : Nat) (failed : List (BitVec 64)) : State :=
  if (s.pkg g).phase ≠ 2 ∨ (amGet? s.pkgs g).isNone then s
  else
    let es := (failed.filter entryOk).map (failedEntry (s.gtime / 1000))
    let s := es.foldl (fun s e => s.retirement g (fld e 60 4)) s
    s.modPkg g fun k => { (if es.isEmpty then k else k.rewrite es) with phase := 3 }

/-- NUMBERING: the table in force numbers the live units, or the package is out of service (R22, R448-R452, R455). A lane that has been retired
since power came stays off (R449). -/
def State.numbering (s : State) (g : Nat) : State :=
  s.onPkg g fun k =>
    if k.phase ≠ 3 then k
    else match k.winter with
      | none => k.out 2
      | some c =>
        let lanes := (c.entries.filter fun e => fld e 60 4 == 4).map fun e => fld e 40 16
        let k := { k with retired := c.entries, version := c.version, lanesOff := dedup (k.lanesOff ++ lanes) }
        if k.inService then { k with phase := 4 } else k.out 3

/-- An address of a package. -/
def ofPkg (g pa : Nat) : Bool := pa / 2 ^ 46 == g

/-- MEMORY_INITIALISATION: every byte is zero, and READY is set (R455). -/
def State.memoryInitialisation (s : State) (g : Nat) : State :=
  if (s.pkg g).phase ≠ 4 ∨ (amGet? s.pkgs g).isNone then s
  else
    ({ s with
      mem := s.mem.filter fun k => !ofPkg g k.1
      poison := s.poison.filter fun x => !ofPkg g (32 * x)
      dirty := s.dirty.filter fun d => !ofPkg g d.1
      openBytes := s.openBytes.filter fun r => !ofPkg g r.1 }).modPkg g fun k => { k with phase := 5, ready := true, oos := 0 }

/-- A package joins the domain, READY, with the links whose far ends lie outside it (R445): not once a partition has been formed that spans packages.
DESIGN CHOICE (log 4): what its host complex and the others agree on before that, the environment does. -/
def State.join (s : State) (g : Nat) (outer : List Nat) : State :=
  if (amGet? s.pkgs g).isSome || decide (64 ≤ g) || (List.range 16).any (fun p => (s.part p).formed && decide (1 < (s.part p).nextMap.pkg.length)) then s
  else { s with pkgs := amSet s.pkgs g { Pkg.fresh with outer := outer } }

/-! ### Power and heat (R455, R459-R461) -/

/-- A partition has state on a package: it runs there, or is formed and no table in force names other packages (R422, R444). -/
def Part.onPkg (q : Part) (g : Nat) : Bool :=
  q.active.pkg.any (·.2 == g) || (q.st == .formed && (q.nextMap.pkg.isEmpty || q.nextMap.pkg.any (·.2 == g)))
/-- The partitions with state on a package lose it with its power (R455, R460). -/
def State.losePkg (s : State) (g : Nat) : State :=
  (List.range 16).foldl (fun s p => if (s.part p).onPkg g then s.wipePart p Part.fresh else s) s

/-- What a package keeps without power: its Winter store, its fuses and key (R448, R453, R457, R458). -/
def Pkg.unpowered (k : Pkg) : Pkg :=
  { Pkg.fresh with
    ready := false, phase := 0, copyA := k.copyA, copyB := k.copyB, fw0 := k.fw0, fw1 := k.fw1, fuseKey1 := k.fuseKey1
    fuseKey2 := k.fuseKey2, fuseMin := k.fuseMin, attKey1 := k.attKey1, attKey2 := k.attKey2, lifeBlock := k.lifeBlock
    lifeSig1 := k.lifeSig1, lifeSig2 := k.lifeSig2, hour := k.hour, outer := k.outer }

/-- POWER_LOSS. -/
def State.powerLoss (s : State) (g : Nat) : State :=
  if (amGet? s.pkgs g).isSome then (s.losePkg g).modPkg g Pkg.unpowered else s

/-- The step of a die after an evaluation (R460). -/
def nextStep (t p cap step : Nat) : Nat :=
  if 110 ≤ t then 12
  else if 100 ≤ t then min 12 (step + 1)
  else if cap < p then min 12 (step + 1)
  else if t < 95 ∧ p + 50 < cap then step - 1
  else step

/-- Whether an evaluation slows a die for its temperature, and for the cap (R460). -/
def heatRow (t : Nat) : Bool := decide (100 ≤ t)
def capRow (t p cap : Nat) : Bool := decide (t < 100) && decide (cap < p)

/-- The temperature bin of the lifetime records (R453). -/
def tempBin (t : Nat) : Nat := if t < 45 then 0 else if 115 ≤ t then 15 else (t - 40) / 5

/-- What is due at a core keeps its number of cc when its die's clock changes (R459). -/
def Core.reclock (k : Core) (f g clock : Nat) : Core :=
  let at_ := Machine.reclock f g clock
  { k with
    slotAt := at_ k.slotAt, solo := k.solo.map fun y => (y.1, at_ y.2), divFree := at_ k.divFree
    slots := k.slots.map fun (l : Slot) => { l with ctx := l.ctx.map fun x =>
      { x with lat := x.lat.map fun e => (e.1, at_ e.2), vlat := x.vlat.map fun e => (e.1, at_ e.2), nextAt := at_ x.nextAt } } }
/-- The dies of a package change to new steps (R459): between two instructions of every core. -/
def State.setSteps (s : State) (g : Nat) (steps : List Nat) : State :=
  let old := (s.pkg g).steps
  { s with cores := s.cores.map fun (i, (k : Core)) =>
      let c := coreOfKey i
      let f := edgesAt (old.getD (s.dieOf c) 0)
      let f' := edgesAt (steps.getD (s.dieOf c) 0)
      (i, if s.logPkg c.part c.pkg = g ∧ f ≠ f' then k.reclock f f' s.clock else k) }.modPkg g fun k => { k with steps := steps }

/-- THERMAL_EVALUATION (R453, R459-R462): the hottest sensor of each die in degrees, the package's power in W. DEDUCED (log 102): a die runs
slower for what has slowed it until it is back at step 0. -/
def State.thermalEvaluation (s : State) (g : Nat) (temps : List Nat) (power : Nat) : State :=
  let k := s.pkg g
  if (amGet? s.pkgs g).isNone || k.phase = 0 || k.phase = 15 || temps.length ≠ 4 then s
  else if temps.any (120 ≤ ·) then
    (s.losePkg g).modPkg g fun k => { k with
      steps := [0, 0, 0, 0], heatSlow := List.replicate 4 false, capSlow := List.replicate 4 false, pendingRetire := k.pendingRetire }.out 4
  else
    let dies := List.range 4
    let steps := dies.map fun d => nextStep (temps.getD d 0) power k.pwrcap (k.steps.getD d 0)
    let now := s.gtime / 60000000000
    let s := if now ≤ k.minute then s else dies.foldl (fun s d => s.lifeAdd g 4 (d * 16 + tempBin (temps.getD d 0)) 1) s
    (s.setSteps g steps).modPkg g fun k => { k with
      tmax := temps.foldl max 0, power := power
      heatSlow := dies.map fun d => decide (steps.getD d 0 ≠ 0) && (k.heatSlow.getD d false || heatRow (temps.getD d 0))
      capSlow := dies.map fun d => decide (steps.getD d 0 ≠ 0) && (k.capSlow.getD d false || capRow (temps.getD d 0) power k.pwrcap)
      minute := max k.minute now }

/-! ### Lifetime records and attestation (R453, R454, R458) -/

/-- LIFETIME_WRITE: at every hour of GTIME the records go to the store as one signed block (R453); a rewrite of the table that falls in the same
instant goes before it, but for retirements of that instant, whose rewrite follows (R454). -/
def State.lifetimeWrite (s : State) (g : Nat) : State :=
  s.onPkg g fun k => if k.blockDue s.clock then { (k.rewritten s.clock).writeBlock with hour := s.clock / hourTicks } else k

/-- Bytes cut or filled to a length. -/
def fit (n : Nat) (b : List Byte) : List Byte := (b ++ List.replicate n 0).take n

/-- The attestation report (R458). -/
def State.attestation (s : State) (g : Nat) (nonce : List Byte) : List Byte :=
  let k := s.pkg g
  let image := (k.fwRun.map FwImage.whole).getD []
  let config := (List.range 50).flatMap fun i => toBytes (k.configWord i).toNat 8
  let block := blockBytes k.lifeBlock ++ k.lifeSig1 ++ k.lifeSig2
  let body := nonce ++ fit 48 (Config.sha384 image) ++ fit 48 (Config.sha384 config) ++ fit 48 (Config.sha384 block) ++
    toBytes k.devstat.toNat 8 ++ toBytes s.gtime 8
  body ++ fit 64 (Config.signs false k.attKey1 body) ++ fit 3309 (Config.signs true k.attKey2 body)

/-- ATTESTATION_REQUEST: the management port answers in every phase (R455). -/
def State.attestationRequest (s : State) (g : Nat) (nonce : List Byte) : State :=
  if nonce.length = 32 then s.onPkg g fun k => { k with report := s.attestation g nonce } else s

def execPowerGood (pkg : Nat) : State → Host.Outcome State Fault Refusal := runEvent (·.powerGood pkg)
def execFirmwareVerification (pkg : Nat) : State → Host.Outcome State Fault Refusal := runEvent (·.firmwareVerification pkg)
def execSelfCalibration (pkg : Nat) (failed : List (BitVec 64)) : State → Host.Outcome State Fault Refusal :=
  runEvent (·.selfCalibration pkg failed)
def execNumbering (pkg : Nat) : State → Host.Outcome State Fault Refusal := runEvent (·.numbering pkg)
def execMemoryInitialisation (pkg : Nat) : State → Host.Outcome State Fault Refusal := runEvent (·.memoryInitialisation pkg)
def execThermalEvaluation (pkg : Nat) (temps : List Nat) (power : Nat) : State → Host.Outcome State Fault Refusal :=
  runEvent (·.thermalEvaluation pkg temps power)
def execLifetimeWrite (pkg : Nat) : State → Host.Outcome State Fault Refusal := runEvent (·.lifetimeWrite pkg)
def execWinterRewrite (pkg : Nat) : State → Host.Outcome State Fault Refusal := runEvent (·.winterRewrite pkg)
def execAttestationRequest (pkg : Nat) (nonce : List Byte) : State → Host.Outcome State Fault Refusal :=
  runEvent (·.attestationRequest pkg nonce)
def execPowerLoss (pkg : Nat) : State → Host.Outcome State Fault Refusal := runEvent (·.powerLoss pkg)

end Sys2Proof.Machine
end

