-- ==== Sys2Proof/Machine/Dispatch.lean ====
section
/-! DEFINITION. One arm per instruction and per step of the device. -/
namespace Sys2Proof.Machine

/-- The effect of an instruction of the current context, or of a step of the device. -/
def exec (i : Instr) (s : State) : Host.Outcome State Fault Refusal :=
  match i with
  | .add d a b => Sys2Proof.Machine.execAdd d a b s
  | .sub d a b => Sys2Proof.Machine.execSub d a b s
  | .and d a b => Sys2Proof.Machine.execAnd d a b s
  | .or d a b => Sys2Proof.Machine.execOr d a b s
  | .xor d a b => Sys2Proof.Machine.execXor d a b s
  | .andn d a b => Sys2Proof.Machine.execAndn d a b s
  | .orn d a b => Sys2Proof.Machine.execOrn d a b s
  | .sll d a b => Sys2Proof.Machine.execSll d a b s
  | .srl d a b => Sys2Proof.Machine.execSrl d a b s
  | .sra d a b => Sys2Proof.Machine.execSra d a b s
  | .ror d a b => Sys2Proof.Machine.execRor d a b s
  | .mul d a b => Sys2Proof.Machine.execMul d a b s
  | .mulhs d a b => Sys2Proof.Machine.execMulhs d a b s
  | .mulhz d a b => Sys2Proof.Machine.execMulhz d a b s
  | .divs d a b => Sys2Proof.Machine.execDivs d a b s
  | .divz d a b => Sys2Proof.Machine.execDivz d a b s
  | .rems d a b => Sys2Proof.Machine.execRems d a b s
  | .remz d a b => Sys2Proof.Machine.execRemz d a b s
  | .mins d a b => Sys2Proof.Machine.execMins d a b s
  | .maxs d a b => Sys2Proof.Machine.execMaxs d a b s
  | .minz d a b => Sys2Proof.Machine.execMinz d a b s
  | .maxz d a b => Sys2Proof.Machine.execMaxz d a b s
  | .slts d a b => Sys2Proof.Machine.execSlts d a b s
  | .sltz d a b => Sys2Proof.Machine.execSltz d a b s
  | .clz d a => Sys2Proof.Machine.execClz d a s
  | .ctz d a => Sys2Proof.Machine.execCtz d a s
  | .popc d a => Sys2Proof.Machine.execPopc d a s
  | .brev d a => Sys2Proof.Machine.execBrev d a s
  | .bswp d a => Sys2Proof.Machine.execBswp d a s
  | .exts d a wd => Sys2Proof.Machine.execExts d a wd s
  | .extz d a wd => Sys2Proof.Machine.execExtz d a wd s
  | .ins d a b wd => Sys2Proof.Machine.execIns d a b wd s
  | .idx d a b n => Sys2Proof.Machine.execIdx d a b n s
  | .addi d a imm => Sys2Proof.Machine.execAddi d a imm s
  | .andi d a imm => Sys2Proof.Machine.execAndi d a imm s
  | .ori d a imm => Sys2Proof.Machine.execOri d a imm s
  | .xori d a imm => Sys2Proof.Machine.execXori d a imm s
  | .slli d a sh => Sys2Proof.Machine.execSlli d a sh s
  | .srli d a sh => Sys2Proof.Machine.execSrli d a sh s
  | .srai d a sh => Sys2Proof.Machine.execSrai d a sh s
  | .sltsi d a imm => Sys2Proof.Machine.execSltsi d a imm s
  | .sltzi d a imm => Sys2Proof.Machine.execSltzi d a imm s
  | .lih d k imm => Sys2Proof.Machine.execLih d k imm s
  | .pcrel d imm => Sys2Proof.Machine.execPcrel d imm s
  | .beq a b off => Sys2Proof.Machine.execBeq a b off s
  | .bne a b off => Sys2Proof.Machine.execBne a b off s
  | .jmpr d t => Sys2Proof.Machine.execJmpr d t s
  | .blt a b off => Sys2Proof.Machine.execBlt a b off s
  | .bge a b off => Sys2Proof.Machine.execBge a b off s
  | .blo a b off => Sys2Proof.Machine.execBlo a b off s
  | .bhs a b off => Sys2Proof.Machine.execBhs a b off s
  | .call d off => Sys2Proof.Machine.execCall d off s
  | .ld d base sz off la => Sys2Proof.Machine.execLd d base sz off la s
  | .lds d base sz off la => Sys2Proof.Machine.execLds d base sz off la s
  | .st data base sz off => Sys2Proof.Machine.execSt data base sz off s
  | .ldx d a b sz la => Sys2Proof.Machine.execLdx d a b sz la s
  | .lda d a b sz sc la => Sys2Proof.Machine.execLda d a b sz sc la s
  | .stl data a b sz sc => Sys2Proof.Machine.execStl data a b sz sc s
  | .stp data a b sz => Sys2Proof.Machine.execStp data a b sz s
  | .aadd d a b dbl la => Sys2Proof.Machine.execAadd d a b dbl la s
  | .aand d a b dbl la => Sys2Proof.Machine.execAand d a b dbl la s
  | .aor d a b dbl la => Sys2Proof.Machine.execAor d a b dbl la s
  | .axor d a b dbl la => Sys2Proof.Machine.execAxor d a b dbl la s
  | .amin d a b k dbl la => Sys2Proof.Machine.execAmin d a b k dbl la s
  | .amax d a b k dbl la => Sys2Proof.Machine.execAmax d a b k dbl la s
  | .aswp d a b dbl la => Sys2Proof.Machine.execAswp d a b dbl la s
  | .acas d a b dbl la => Sys2Proof.Machine.execAcas d a b dbl la s
  | .afadd d a b dbl la => Sys2Proof.Machine.execAfadd d a b dbl la s
  | .radd a b dbl => Sys2Proof.Machine.execRadd a b dbl s
  | .rmin a b k dbl => Sys2Proof.Machine.execRmin a b k dbl s
  | .rmax a b k dbl => Sys2Proof.Machine.execRmax a b k dbl s
  | .rfadd a b dbl => Sys2Proof.Machine.execRfadd a b dbl s
  | .rlog a b flt dbl => Sys2Proof.Machine.execRlog a b flt dbl s
  | .rmrg d la => Sys2Proof.Machine.execRmrg d la s
  | .fence k sc => Sys2Proof.Machine.execFence k sc s
  | .cpref a => Sys2Proof.Machine.execCpref a s
  | .cflush a => Sys2Proof.Machine.execCflush a s
  | .cdrop a => Sys2Proof.Machine.execCdrop a s
  | .sbwait => Sys2Proof.Machine.execSbwait s
  | .fadd d a b p r => Sys2Proof.Machine.execFadd d a b p r s
  | .fsub d a b p r => Sys2Proof.Machine.execFsub d a b p r s
  | .fmul d a b p r => Sys2Proof.Machine.execFmul d a b p r s
  | .fdiv d a b p r => Sys2Proof.Machine.execFdiv d a b p r s
  | .fsqrt d a p r => Sys2Proof.Machine.execFsqrt d a p r s
  | .fmin d a b p => Sys2Proof.Machine.execFmin d a b p s
  | .fmax d a b p => Sys2Proof.Machine.execFmax d a b p s
  | .fmad d a b c p r => Sys2Proof.Machine.execFmad d a b c p r s
  | .feq d a b p => Sys2Proof.Machine.execFeq d a b p s
  | .flt d a b p => Sys2Proof.Machine.execFlt d a b p s
  | .fle d a b p => Sys2Proof.Machine.execFle d a b p s
  | .fcls d a p => Sys2Proof.Machine.execFcls d a p s
  | .fsgn d a b p k => Sys2Proof.Machine.execFsgn d a b p k s
  | .fcvt d a dst src r => Sys2Proof.Machine.execFcvt d a dst src r s
  | .vgrant d a => Sys2Proof.Machine.execVgrant d a s
  | .vretn d a => Sys2Proof.Machine.execVretn d a s
  | .vind vd vb a => Sys2Proof.Machine.execVind vd vb a s
  | .vmvs d va b t => Sys2Proof.Machine.execVmvs d va b t s
  | .vmsv vd a b t => Sys2Proof.Machine.execVmsv vd a b t s
  | .vbcast vd a t => Sys2Proof.Machine.execVbcast vd a t s
  | .vld vd a b t => Sys2Proof.Machine.execVld vd a b t s
  | .vst vd a b t => Sys2Proof.Machine.execVst vd a b t s
  | .vldx vd a vb t => Sys2Proof.Machine.execVldx vd a vb t s
  | .vstx vd a vb t => Sys2Proof.Machine.execVstx vd a vb t s
  | .vadd vd va vb t => Sys2Proof.Machine.execVadd vd va vb t s
  | .vsub vd va vb t => Sys2Proof.Machine.execVsub vd va vb t s
  | .vmul vd va vb t => Sys2Proof.Machine.execVmul vd va vb t s
  | .vfma vd va vb t => Sys2Proof.Machine.execVfma vd va vb t s
  | .vmax vd va vb t => Sys2Proof.Machine.execVmax vd va vb t s
  | .vmin vd va vb t => Sys2Proof.Machine.execVmin vd va vb t s
  | .vexp vd va t => Sys2Proof.Machine.execVexp vd va t s
  | .vrcp vd va t => Sys2Proof.Machine.execVrcp vd va t s
  | .vrsq vd va t => Sys2Proof.Machine.execVrsq vd va t s
  | .vred vd va k t => Sys2Proof.Machine.execVred vd va k t s
  | .vperm vd va vb t => Sys2Proof.Machine.execVperm vd va vb t s
  | .vcmp vd va vb k t => Sys2Proof.Machine.execVcmp vd va vb k t s
  | .vsel vd va vb t => Sys2Proof.Machine.execVsel vd va vb t s
  | .vcvt vd va dst src r => Sys2Proof.Machine.execVcvt vd va dst src r s
  | .qbind q a => Sys2Proof.Machine.execQbind q a s
  | .qfib q a => Sys2Proof.Machine.execQfib q a s
  | .qisect q a => Sys2Proof.Machine.execQisect q a s
  | .qunion q a => Sys2Proof.Machine.execQunion q a s
  | .qnbr q dir => Sys2Proof.Machine.execQnbr q dir s
  | .qfree q => Sys2Proof.Machine.execQfree q s
  | .qskip q a => Sys2Proof.Machine.execQskip q a s
  | .qcrd d q la => Sys2Proof.Machine.execQcrd d q la s
  | .qend d q la => Sys2Proof.Machine.execQend d q la s
  | .qctl d q a la => Sys2Proof.Machine.execQctl d q a la s
  | .qsave q a => Sys2Proof.Machine.execQsave q a s
  | .qload q a => Sys2Proof.Machine.execQload q a s
  | .fchk d a la => Sys2Proof.Machine.execFchk d a la s
  | .hstart d a b => Sys2Proof.Machine.execHstart d a b s
  | .hwait d a => Sys2Proof.Machine.execHwait d a s
  | .hkill d a => Sys2Proof.Machine.execHkill d a s
  | .hkillSelf d b => Sys2Proof.Machine.execHkillSelf d b s
  | .hstat d a => Sys2Proof.Machine.execHstat d a s
  | .hlend d a => Sys2Proof.Machine.execHlend d a s
  | .hrecl d a => Sys2Proof.Machine.execHrecl d a s
  | .self d => Sys2Proof.Machine.execSelf d s
  | .yield => Sys2Proof.Machine.execYield s
  | .migr d a => Sys2Proof.Machine.execMigr d a s
  | .pin d => Sys2Proof.Machine.execPin d s
  | .unpin d => Sys2Proof.Machine.execUnpin d s
  | .park d a => Sys2Proof.Machine.execPark d a s
  | .wake a => Sys2Proof.Machine.execWake a s
  | .tenq d a b => Sys2Proof.Machine.execTenq d a b s
  | .tenqd d a => Sys2Proof.Machine.execTenqd d a s
  | .tdone => Sys2Proof.Machine.execTdone s
  | .tsettle => Sys2Proof.Machine.execTsettle s
  | .tabort a => Sys2Proof.Machine.execTabort a s
  | .tsrd d a => Sys2Proof.Machine.execTsrd d a s
  | .tgvt d => Sys2Proof.Machine.execTgvt d s
  | .tnest d => Sys2Proof.Machine.execTnest d s
  | .tleave d => Sys2Proof.Machine.execTleave d s
  | .tdefer a b => Sys2Proof.Machine.execTdefer a b s
  | .mxwait d => Sys2Proof.Machine.execMxwait d s
  | .mxstat d a => Sys2Proof.Machine.execMxstat d a s
  | .mxspc d => Sys2Proof.Machine.execMxspc d s
  | .cpy d a => Sys2Proof.Machine.execCpy d a s
  | .cpywait d a => Sys2Proof.Machine.execCpywait d a s
  | .cpyq d a => Sys2Proof.Machine.execCpyq d a s
  | .publ d a b => Sys2Proof.Machine.execPubl d a b s
  | .embg d a => Sys2Proof.Machine.execEmbg d a s
  | .rmove d a => Sys2Proof.Machine.execRmove d a s
  | .racq d a b la => Sys2Proof.Machine.execRacq d a b la s
  | .rcom d a b la => Sys2Proof.Machine.execRcom d a b la s
  | .rpeek d a la => Sys2Proof.Machine.execRpeek d a la s
  | .rpeekTake d a la => Sys2Proof.Machine.execRpeekTake d a la s
  | .rrel d a b la => Sys2Proof.Machine.execRrel d a b la s
  | .rdisp d a b la => Sys2Proof.Machine.execRdisp d a b la s
  | .barr a => Sys2Proof.Machine.execBarr a s
  | .bwait d => Sys2Proof.Machine.execBwait d s
  | .bsync d a => Sys2Proof.Machine.execBsync d a s
  | .bred d a b op => Sys2Proof.Machine.execBred d a b op s
  | .bset d a b => Sys2Proof.Machine.execBset d a b s
  | .trap code => Sys2Proof.Machine.execTrap code s
  | .eret => Sys2Proof.Machine.execEret s
  | .ebrk code => Sys2Proof.Machine.execEbrk code s
  | .jrd d a => Sys2Proof.Machine.execJrd d a s
  | .sysrd d n => Sys2Proof.Machine.execSysrd d n s
  | .syswr n a => Sys2Proof.Machine.execSyswr n a s
  | .bstat cond a off => Sys2Proof.Machine.execBstat cond a off s
  | .tlbinv a b sc => Sys2Proof.Machine.execTlbinv a b sc s
  | .tlbsync sc => Sys2Proof.Machine.execTlbsync sc s
  | .ctxsv d a b la => Sys2Proof.Machine.execCtxsv d a b la s
  | .ctxld d a b la => Sys2Proof.Machine.execCtxld d a b la s
  | .rmapw d a b la => Sys2Proof.Machine.execRmapw d a b la s
  | .mbrd d a la => Sys2Proof.Machine.execMbrd d a la s
  | .mbwr a => Sys2Proof.Machine.execMbwr a s
  | .loadRequest m => Sys2Proof.Machine.execLoadRequest m s
  | .storeRequest m => Sys2Proof.Machine.execStoreRequest m s
  | .l1Invalidate h c => Sys2Proof.Machine.execL1Invalidate h c s
  | .homeWritePerform h => Sys2Proof.Machine.execHomeWritePerform h s
  | .atomicRequest m => Sys2Proof.Machine.execAtomicRequest m s
  | .reductionRequest m => Sys2Proof.Machine.execReductionRequest m s
  | .rlogRecord m => Sys2Proof.Machine.execRlogRecord m s
  | .replicaTimeout m => Sys2Proof.Machine.execReplicaTimeout m s
  | .replyLands m => Sys2Proof.Machine.execReplyLands m s
  | .acknowledgement m => Sys2Proof.Machine.execAcknowledgement m s
  | .negativeAcknowledgement m => Sys2Proof.Machine.execNegativeAcknowledgement m s
  | .l2cfgWrite c v => Sys2Proof.Machine.execL2cfgWrite c v s
  | .taskcfgWrite c v => Sys2Proof.Machine.execTaskcfgWrite c v s
  | .atblWrite p v => Sys2Proof.Machine.execAtblWrite p v s
  | .windowWrite c n v => Sys2Proof.Machine.execWindowWrite c n v s
  | .uplogWrite p v => Sys2Proof.Machine.execUplogWrite p v s
  | .publishRegionWrite p size v => Sys2Proof.Machine.execPublishRegionWrite p size v s
  | .gsmarkWrite p v => Sys2Proof.Machine.execGsmarkWrite p v s
  | .pwrcapWrite pkg v => Sys2Proof.Machine.execPwrcapWrite pkg v s
  | .registerWrite c n v => Sys2Proof.Machine.execRegisterWrite c n v s
  | .rccmdLoad c addr ix => Sys2Proof.Machine.execRccmdLoad c addr ix s
  | .rccmdStore c addr ix => Sys2Proof.Machine.execRccmdStore c addr ix s
  | .rccmdRelease c ix => Sys2Proof.Machine.execRccmdRelease c ix s
  | .rcrst c ix => Sys2Proof.Machine.execRcrst c ix s
  | .debugHalt t => Sys2Proof.Machine.execDebugHalt t s
  | .debugResume t => Sys2Proof.Machine.execDebugResume t s
  | .debugResumeOne t => Sys2Proof.Machine.execDebugResumeOne t s
  | .dbgdat m => Sys2Proof.Machine.execDbgdat m s
  | .mma c => Sys2Proof.Machine.execMma c s
  | .accz c => Sys2Proof.Machine.execAccz c s
  | .accld c => Sys2Proof.Machine.execAccld c s
  | .accst c => Sys2Proof.Machine.execAccst c s
  | .ringdefDefine c => Sys2Proof.Machine.execRingdefDefine c s
  | .ringdefAppend c => Sys2Proof.Machine.execRingdefAppend c s
  | .qfence c => Sys2Proof.Machine.execQfence c s
  | .jobStart j => Sys2Proof.Machine.execJobStart j s
  | .copyJob j n => Sys2Proof.Machine.execCopyJob j n s
  | .gatherJob j n => Sys2Proof.Machine.execGatherJob j n s
  | .compressJob j => Sys2Proof.Machine.execCompressJob j s
  | .decompressJob j => Sys2Proof.Machine.execDecompressJob j s
  | .embgSum j => Sys2Proof.Machine.execEmbgSum j s
  | .embgMean j => Sys2Proof.Machine.execEmbgMean j s
  | .embgUpdateSum j => Sys2Proof.Machine.execEmbgUpdateSum j s
  | .embgUpdateMean j => Sys2Proof.Machine.execEmbgUpdateMean j s
  | .rmoveJob j => Sys2Proof.Machine.execRmoveJob j s
  | .jobCompletion j => Sys2Proof.Machine.execJobCompletion j s
  | .publishSwap x => Sys2Proof.Machine.execPublishSwap x s
  | .tlbInvalidation x g => Sys2Proof.Machine.execTlbInvalidation x g s
  | .invalidationAck x g => Sys2Proof.Machine.execInvalidationAck x g s
  | .tableWalk w => Sys2Proof.Machine.execTableWalk w s
  | .taskArrival m => Sys2Proof.Machine.execTaskArrival m s
  | .taskRefill u => Sys2Proof.Machine.execTaskRefill u s
  | .taskDispatch c => Sys2Proof.Machine.execTaskDispatch c s
  | .equinoxRound p => Sys2Proof.Machine.execEquinoxRound p s
  | .roundComplete p => Sys2Proof.Machine.execRoundComplete p s
  | .migrationReserve m => Sys2Proof.Machine.execMigrationReserve m s
  | .reservationReply m => Sys2Proof.Machine.execReservationReply m s
  | .reservationTimeout c => Sys2Proof.Machine.execReservationTimeout c s
  | .reservationCancel m => Sys2Proof.Machine.execReservationCancel m s
  | .migrationDepart c => Sys2Proof.Machine.execMigrationDepart c s
  | .migrationArrival m => Sys2Proof.Machine.execMigrationArrival m s
  | .exitComplete c => Sys2Proof.Machine.execExitComplete c s
  | .exitNotice m => Sys2Proof.Machine.execExitNotice m s
  | .killArrival m => Sys2Proof.Machine.execKillArrival m s
  | .wakeArrival m => Sys2Proof.Machine.execWakeArrival m s
  | .parkTimeout c => Sys2Proof.Machine.execParkTimeout c s
  | .neighbourWordArrival m => Sys2Proof.Machine.execNeighbourWordArrival m s
  | .barrierArrival m => Sys2Proof.Machine.execBarrierArrival m s
  | .barrierRelease c => Sys2Proof.Machine.execBarrierRelease c s
  | .journalTrap c => Sys2Proof.Machine.execJournalTrap c s
  | .taskUnitTrap u => Sys2Proof.Machine.execTaskUnitTrap u s
  | .inboundParkTimeout m => Sys2Proof.Machine.execInboundParkTimeout m s
  | .packetTrim m => Sys2Proof.Machine.execPacketTrim m s
  | .packetArrival m => Sys2Proof.Machine.execPacketArrival m s
  | .trimmedHeader m => Sys2Proof.Machine.execTrimmedHeader m s
  | .reRequest m => Sys2Proof.Machine.execReRequest m s
  | .deliveryMark m => Sys2Proof.Machine.execDeliveryMark m s
  | .bareDeliveryMark x => Sys2Proof.Machine.execBareDeliveryMark x s
  | .endToEndExpiry m => Sys2Proof.Machine.execEndToEndExpiry m s
  | .linkReplay pkg link => Sys2Proof.Machine.execLinkReplay pkg link s
  | .laneRetirement pkg lane cause => Sys2Proof.Machine.execLaneRetirement pkg lane cause s
  | .routerPowerDown pkg r => Sys2Proof.Machine.execRouterPowerDown pkg r s
  | .routerWake pkg r => Sys2Proof.Machine.execRouterWake pkg r s
  | .solsticeMark p => Sys2Proof.Machine.execSolsticeMark p s
  | .quiesceReport p pkg => Sys2Proof.Machine.execQuiesceReport p pkg s
  | .laggard p pkg => Sys2Proof.Machine.execLaggard p pkg s
  | .hardQuiesce p pkg => Sys2Proof.Machine.execHardQuiesce p pkg s
  | .restore p => Sys2Proof.Machine.execRestore p s
  | .sliceStart p => Sys2Proof.Machine.execSliceStart p s
  | .hostSyswr h => Sys2Proof.Machine.execHostSyswr h s
  | .hostSysrd h => Sys2Proof.Machine.execHostSysrd h s
  | .hostRmapw h => Sys2Proof.Machine.execHostRmapw h s
  | .form h => Sys2Proof.Machine.execForm h s
  | .start h => Sys2Proof.Machine.execStart h s
  | .route h => Sys2Proof.Machine.execRoute h s
  | .resume h => Sys2Proof.Machine.execResume h s
  | .dissolve h => Sys2Proof.Machine.execDissolve h s
  | .mbpost pkg p => Sys2Proof.Machine.execMbpost pkg p s
  | .mbtake pkg p => Sys2Proof.Machine.execMbtake pkg p s
  | .hcevtClear pkg v => Sys2Proof.Machine.execHcevtClear pkg v s
  | .hostWindowAccess pkg off bytes v => Sys2Proof.Machine.execHostWindowAccess pkg off bytes v s
  | .powerGood pkg => Sys2Proof.Machine.execPowerGood pkg s
  | .firmwareVerification pkg => Sys2Proof.Machine.execFirmwareVerification pkg s
  | .selfCalibration pkg failed => Sys2Proof.Machine.execSelfCalibration pkg failed s
  | .numbering pkg => Sys2Proof.Machine.execNumbering pkg s
  | .memoryInitialisation pkg => Sys2Proof.Machine.execMemoryInitialisation pkg s
  | .thermalEvaluation pkg temps power => Sys2Proof.Machine.execThermalEvaluation pkg temps power s
  | .lifetimeWrite pkg => Sys2Proof.Machine.execLifetimeWrite pkg s
  | .winterRewrite pkg => Sys2Proof.Machine.execWinterRewrite pkg s
  | .attestationRequest pkg nonce => Sys2Proof.Machine.execAttestationRequest pkg nonce s
  | .powerLoss pkg => Sys2Proof.Machine.execPowerLoss pkg s
  | .ringOperation m => Sys2Proof.Machine.execRingOperation m s
  | .pacingIntervalExpiry x => Sys2Proof.Machine.execPacingIntervalExpiry x s

end Sys2Proof.Machine
end

