-- ==== Sys2Proof/Machine/Fetch.lean ====
section
/-! DEFINITION. Fetching, and offering a core its issue slot (04_scalar_issue.md R86-R90, R94, R96; 02_encoding.md R32). -/
namespace Sys2Proof.Machine

/-- What fetching the word at a context's PC gives. -/
inductive FetchRes where
  | word (w : Nat) (s : State)
  | fault (cause : Nat) (s : State)
  | miss (s : State)

/-- What the instruction cache gives of a sector: its bytes, the cause of a failure, or nothing yet. -/
inductive CodeRes where
  | bytes (b : List Byte) (s : State)
  | fault (cause : Nat) (s : State)
  | wait (s : State)

/-- The L1 instruction cache holds a sector, or reads it (R96): it does not observe stores. In the core's own store it is read at once; else it is
asked of its home with a landing buffer (R371, R376), once for all contexts of the core that wait for it. -/
def State.fillL1i (s : State) (c : CtxId) (x : Ctx) (l : Loc) : CodeRes :=
  let sec := l.pa / 128 * 128
  let va := l.va / 128 * 128
  let target := l.reader.agent
  match amGet? (s.core c.core).l1i (l.pa / 128), x.reads.find? fun r => r.icount == x.icount && r.va == va && r.n == 0 with
  | some b, _ => .bytes b s
  | none, some r => .fault (r.cause.getD cMemErr) s
  | none, none =>
    if target == .core c.core then
      if s.writeUnderWay sec 128 then .wait s
      else if s.refused c.core l.home .rd sec 128 then .fault cWindow (s.countRefusal l.home)
      else if s.poisoned sec 128 then .fault cMemErr (s.meetBad sec 128)
      else
        let (b, s) := s.readBytes l.home sec 128
        .bytes b (s.keepL1i c.core (l.pa / 128) b)
    else if (s.core c.core).codeAsked.contains (l.pa / 128) then .wait s
    else if 128 ≤ s.buffersHeld c x then .wait (s.modCore c.core fun k => { k with lbWaits := (k.lbWaits + 1) % 2 ^ 32 })
    else
      let r : Req := { src := c, acc := x.icount, va := va, pa := sec, home := l.home, op := .load 128, task := none, posted := none, aseq := 0
                       replicated := l.repl, via := .code c va sec }
      .wait ((s.modCore c.core fun k => { k with codeAsked := k.codeAsked ++ [l.pa / 128] }).send c.core.part 0 (.core c.core) target 0 (.req r))

/-- The word at the PC: fetch translation, then the instruction cache (R32 order 1, R96, R235). DESIGN CHOICE (log 131): the spec names no
fault for a PC that is not a multiple of 4 and no rounding of it; four bytes are read there, those past its sector as zero. -/
def State.fetch (s : State) (c : CtxId) (x : Ctx) : FetchRes :=
  match s.resolve c.core (.fetch c.core) (some (.ctx c x.icount)) .fetch x.priv x.pc.toNat 4 with
  | (.fault f, s) => .fault f s
  | (.miss, s) => .miss (s.startWalk c.core.clu c.core (fld (s.part c.core.part).atbl 48 16) x.pc.toNat (.ctx c x.icount))
  | (.wait, _) => .miss s
  | (.ok l, s) =>
    match s.fillL1i c x l with
    | .fault f s => .fault f s
    | .wait s => .miss s
    | .bytes b s => .word (ofBytes ((b.drop (l.pa % 128)).take 4)) s

/-- A Solstice mark of the partition is due: from it on no core of the partition issues (R425, R426). -/
def State.markDue (s : State) (p : Nat) : Bool := (s.part p).gsmark != 0 && decide (markAt (s.part p).gsmark ≤ s.gtime)

/-- The context has been stopped: at a mark (R426), or because its task is to be aborted (R159). -/
def State.stopped (s : State) (c : CtxId) (x : Ctx) : Bool :=
  s.markDue c.core.part || (s.task? c.core.part x.task).any (·.aborting.isSome)

/-- The context may issue (R86): its partition is in its slice, it is live and not parked, halted, leaving, moving or
waiting, no refused access of it is still to be raised, and no access holds its next instruction (R193). A taken branch before it
has passed (R92), this is not the second cc of another context's SYSWR (R92), its task is not stopped for an abort (R159), and
no transfer of its cluster's task unit that has faulted is being tried again, whose trap comes before its next instruction (R405).
DESIGN CHOICE (log 147): in the second cc of a SYSWR the other contexts of its core do not count as ready (R86, R89). -/
def State.canIssue (s : State) (c : CtxId) (x : Ctx) : Bool :=
  (s.part c.core.part).live && !s.stopped c x && decide (x.nextAt ≤ s.clock) &&
  ((s.core c.core).solo.all fun y => y.1 == c.slot || y.2 != s.clock) && !(s.slot c).halted && x.parked.isNone && x.leaving.isNone && x.heldFault.isNone &&
  x.heldHalt.isNone && !(s.ofUnit c && (s.cluster c.core.clu).unitTry) && (match x.moving with | none => true | some m => m.answered && m.slot.isNone) &&
  !(x.out.any fun a => a.hold || a.err.isSome)

/-- A fault or a halt that waited is due (R31, R167, R401, R415): held until its task settled, or until results were written. -/
def State.overdue (s : State) (c : CtxId) (x : Ctx) : Bool :=
  (s.part c.core.part).live && !(s.slot c).halted && x.leaving.isNone && !s.speculative c.core.part x &&
  (((x.heldFault.isSome || x.heldHalt.isSome) && !x.resultsOut) || x.out.any (·.err.isSome))

/-- Raise what is due. -/
def State.raiseDue (s : State) (c : CtxId) (x : Ctx) : State :=
  match x.heldFault with
  | some (cause, tval, epc, late) =>
    s.takeTrap c { x with heldFault := none } false cause tval epc true late
  | none => match x.heldHalt with
    | some code => (s.putCtx c { x.retired (x.pc + 4) with heldHalt := none }).modSlot c fun l =>
        { l with halted := true, reason := 2, bcode := BitVec.ofNat 12 code }
    | none => s.raiseErr c

/-- Fetch, decode and execute the next instruction of a context, its faults in the order of R32. -/
def State.attempt (s : State) (c : CtxId) (x : Ctx) : Host.Outcome State Fault Refusal :=
  if s.canIssue c x then
    match { s with cur := c }.fetch c x with
    | .word w s' =>
      match decodeNat w with
      | .ok i => exec i s'
      | .error _ => .next (s'.takeFault c x cIllegal (wd w))
    | .fault cause s' =>
      -- a fault still awaiting results is not yet taken: the attempt is made again
      if x.resultsOut && !s.speculative c.core.part x then .next (s.faultWaits c) else .next (s'.takeFault c x cause x.pc)
    | .miss s' => .next s'
  else .next s

/-- An attempt has taken an exact fault. -/
def State.tookFault (s : State) (c : CtxId) (x : Ctx) : Bool :=
  match s.ctx? c with
  | some y => y.inh && !bitAt y.tcause 63 && y.icount == x.icount
  | none => false

/-- What a context does next: what is due is raised first; an asynchronous trap is taken unless the next instruction raises an
exact fault (R405). -/
def State.runCtx (s : State) (c : CtxId) : Host.Outcome State Fault Refusal :=
  match s.ctx? c with
  | none => .next s
  | some x =>
    if s.stopped c x then .next s
    else if s.overdue c x then .next (s.raiseDue c x)
    else if s.asyncPending c x then
      match s.attempt c x with
      | .next s' => if s'.tookFault c x then .next s' else .next (s.takeAsync c)
      | o => o
    else s.attempt c x

/-- An attempt has issued: its context's slot has changed, in more than a note that a fault waits for results. -/
def State.issued (s s' : State) (c : CtxId) : Bool :=
  match s.ctx? c, s'.ctx? c with
  | some x, some y => x.icount != y.icount || decide (s.slot c ≠ { s'.slot c with ctx := some { y with faultWaits := x.faultWaits } })
  | _, _ => true

/-- The context is ready (R86): an attempt of it issues. -/
def State.readyCtx (s : State) (c : CtxId) : Bool :=
  match s.runCtx c with
  | .next s' => s.issued s' c
  | _ => true

/-- The order of R87: the slot after P first. -/
def Core.order (k : Core) : List Nat := (List.range 11).map fun i => (k.ptr + 1 + i) % 11

/-- The slot that issues and the group after it (R87-R89): a starved context, the next member of the group, or the first
ready context, which forms a group with the ready contexts in its fetch block that follow it. DESIGN CHOICE (log 132): R89 does not say
what becomes of the group its pick goes ahead of; the rest of the group goes on after it, and the pick forms none. -/
def Core.pick (k : Core) (ready : List Nat) (block : Nat → Nat) : Option (Nat × List Nat) :=
  match ready.find? fun n => 15 ≤ k.waited.get (Fin.ofNat 11 n) with
  | some n => some (n, k.group.filter (· != n))
  | none =>
    let choose : Option (Nat × List Nat) := match ready with
      | [] => none
      | n :: r => some (n, (r.takeWhile fun m => block m == block n).take 3)
    match k.group with
    | g :: r => if ready.contains g then some (g, r) else choose
    | [] => choose

/-- Offer a core its issue slot, at the cc it is due or a later one (R86-R92): the contexts that are not ready wait, one that is ready
issues. Where none is ready the group ends and no wait counts (R88, R89); so it is in the cc that have passed since the slot was due, in none of
which one was ready. A context that yielded stands back while another is ready (R137). A round that must complete now goes first (R168). -/
def State.offer (s : State) (c : CoreId) : Host.Outcome State Fault Refusal :=
  let k := s.core c
  if s.clock < k.slotAt || s.ccEdge c != s.clock || (s.part c.part).roundDue s.clock then .next s else
  let k := if k.slotAt < s.clock then { k with group := [], waited := Vector.replicate 11 0 } else k
  let live := k.order.filter fun n => (s.ctx? { core := c, slot := n }).isSome
  let able := live.filter fun n => s.readyCtx { core := c, slot := n }
  let others := able.filter fun n => !((s.ctx? { core := c, slot := n }).any (·.yielded))
  let ready := if others.isEmpty then able else others
  let s := live.foldl (fun s n => s.modCtx { core := c, slot := n } fun x => { x with yielded := false }) s
  let s := (live.filter fun n => !able.contains n).foldl (fun s n => match s.runCtx { core := c, slot := n } with
    | .next s' => s'
    | _ => s) s
  let block (n : Nat) : Nat := ((s.ctx? { core := c, slot := n }).map fun x => x.pc.toNat / 64).getD 0
  match k.pick ready block with
  | none => .next (s.modCore c fun k => { k with group := [], waited := Vector.replicate 11 0, slotAt := s.ccAfter c 1 })
  | some (n, g) =>
    let waited := Vector.ofFn fun i : Fin 11 =>
      if ready.contains i.val && i.val != n then min 15 (k.waited.get i + 1) else 0
    match (s.modCore c fun k => { k with ptr := n, group := g, waited := waited, slotAt := s.ccAfter c 1 }).runCtx { core := c, slot := n } with
    | .next s => .next { s with turn := s.turn + 1 }
    | o => o

/-- Some context of a core is ready (R86). -/
def State.anyReady (s : State) (c : CoreId) : Bool := (slotsOf c).any fun k => (s.ctx? k).isSome && s.readyCtx k

/-- The clock a core's next cc of interest stands at: that of its next issue slot; the next cc, where that has come and a context is ready,
which it is offered at; else the first clock to come at which time alone may make one ready (R86, R89, R92, R93). -/
def State.coreStop (s : State) (c : CoreId) : Option Nat :=
  let k := s.core c
  if s.clock < k.slotAt then some k.slotAt
  else if s.anyReady c then some (s.ccEdge c)
  else
    let later := ((k.divFree :: (k.solo.map (·.2 + 1)).toList) ++ (slotsOf c).flatMap fun x => match s.ctx? x with
      | some x => x.nextAt :: (x.lat.map (·.2) ++ x.vlat.map (·.2))
      | none => []).filter fun d => s.clock < d
    match later with
    | [] => none
    | d :: r => some (r.foldl min d)

end Sys2Proof.Machine
end

