-- ==== Sys2Proof/Machine/Schedule.lean ====
section
/-! DEFINITION. What happens next: the environment's agenda (log 5), else the first step of the device that is enabled, else
an issue of the next core that can issue, else one cc passes. -/
namespace Sys2Proof.Machine

/-- What a step does. -/
abbrev Doing := State → Host.Outcome State Fault Refusal

/-- The steps that may take a packet on. -/
def Packet.steps (k : Packet) : List Doing :=
  let m := k.id
  match k.stage with
  | .flying => match k.msg with
    | .nbr _ _ _ _ => [execNeighbourWordArrival m]
    | .arrive _ _ _ _ _ _ => [execBarrierArrival m]
    | _ => [if k.trim then execTrimmedHeader m else execPacketArrival m]
  | .unsent | .window | .header => []
  | .parked => [execInboundParkTimeout m]
  | .ready => match k.msg with
    | .req r => match r.op with
      | .load _ => [execLoadRequest m, execReplicaTimeout m]
      | .store _ | .masked _ => [execStoreRequest m]
      | .atomic _ _ _ _ => [execAtomicRequest m]
      | .reduce _ _ _ => [execReductionRequest m]
      | .rlog _ _ _ _ => [execRlogRecord m]
    | .data _ _ _ _ | .jdata _ _ _ _ => [execReplyLands m]
    | .ack _ _ | .jack _ _ => [execAcknowledgement m]
    | .nack _ _ _ | .jnack _ _ _ => [execNegativeAcknowledgement m]
    | .ringReq _ _ _ _ _ => [execRingOperation m]
    | .task _ _ => [execTaskArrival m]
    | .reserve _ _ => [execMigrationReserve m]
    | .grant _ _ _ => [execReservationReply m]
    | .cancel _ _ => [execReservationCancel m]
    | .image _ _ _ => [execMigrationArrival m]
    | .kill _ _ _ _ => [execKillArrival m]
    | .wake _ _ _ _ _ => [execWakeArrival m]
    | .exit _ _ _ => [execExitNotice m]
    | .dbg _ _ _ _ _ => [execDbgdat m]
    | .mark _ _ _ _ _ => [execDeliveryMark m]
    | .rereq _ _ _ _ _ => [execReRequest m]
    | .arrive _ _ _ _ _ _ => [execBarrierArrival m]
    | .nbr _ _ _ _ => [execNeighbourWordArrival m]
    | .void => []

/-- The steps that may take a job on: pieces of 1,024 elements, else one. -/
def Job.steps (j : Job) : List Doing :=
  if !j.started then [execJobStart j.id]
  else if j.worked then [execJobCompletion j.id]
  else match j.kind with
    | .copy => [execCopyJob j.id 1024, execCopyJob j.id 1]
    | .gather => [execGatherJob j.id 1024, execGatherJob j.id 1]
    | .compress => [execCompressJob j.id]
    | .decompress => [execDecompressJob j.id]
    | .rmove => [execRmoveJob j.id]
    | .embg 0 => [execEmbgSum j.id]
    | .embg 1 => [execEmbgMean j.id]
    | .embg 2 => [execEmbgUpdateSum j.id]
    | .embg _ => [execEmbgUpdateMean j.id]

/-- The steps of a core's contexts and its matrix unit. -/
def State.coreSteps (s : State) (c : CoreId) : List Doing :=
  (if (s.core c).mxq.isEmpty then []
   else [execMma c, execAccz c, execAccld c, execAccst c, execRingdefDefine c, execRingdefAppend c, execQfence c]) ++
  (slotsOf c).flatMap fun x => match s.ctx? x with
    | some y => (if y.leaving.isSome then [execExitComplete x] else []) ++
        (if y.moving.isSome then [execReservationTimeout x, execMigrationDepart x] else []) ++
        (if y.parked.isSome then [execParkTimeout x] else []) ++ (if y.released.isSome then [execBarrierRelease x] else [])
    | none => if (s.slot x).state == .lent then [execTaskDispatch x] else []

/-- The rounds of a partition (R161), and the aborts that wait (R159): before the accesses of the same instant (R168). -/
def State.roundSteps (s : State) (p : Nat) : List Doing :=
  let q := s.part p
  if q.st = .running then (if q.round.isSome then [execRoundComplete p] else [execEquinoxRound p]) else []

/-- The other steps of a partition. -/
def State.partSteps (s : State) (p : Nat) : List Doing :=
  let q := s.part p
  match q.st with
  | .running =>
    (if q.tasks.isEmpty && !(s.clusters.any fun k => k.2.unitTry) then [] else (s.partClus p).map execTaskRefill) ++
    [execSolsticeMark p] ++
    (match q.phase with
      | .stopping _ left _ => left.flatMap fun g => [execQuiesceReport p g, execLaggard p g, execHardQuiesce p g]
      | .restored _ => [execSliceStart p]
      | _ => [])
  | _ => []

/-- The steps of the device that may be enabled, in the order the default schedule tries them (log 5). A resumption is the host's
to schedule, and the environment's faults and measurements are the agenda's. -/
def State.candidates (s : State) : List Doing :=
  (List.range 16).flatMap s.roundSteps ++
  s.net.flatMap Packet.steps ++
  s.outgoing.map (fun (o : Outgoing) => execEndToEndExpiry o.pkt.id) ++
  s.homeWrites.flatMap (fun (h : HomeWrite) => h.acks.map (fun k => execL1Invalidate h.id (coreOfKey k)) ++ [execHomeWritePerform h.id]) ++
  (s.walks.filter (·.done.isNone)).map (fun (w : Walk) => execTableWalk w.id) ++
  s.invals.flatMap (fun (x : Inval) => (List.range x.agents.length).flatMap fun g => [execTlbInvalidation x.id g, execInvalidationAck x.id g]) ++
  s.publishes.map (fun (x : Publish) => execPublishSwap x.id) ++
  s.jobs.flatMap Job.steps ++
  s.coreIds.flatMap s.coreSteps ++
  (List.range 16).flatMap s.partSteps ++
  (List.range s.pairs.length).flatMap (fun x => [execPacingIntervalExpiry x, execBareDeliveryMark x]) ++
  s.pkgs.flatMap fun g => g.2.hcbusy.toList.map execHostSyswr ++ [execLifetimeWrite g.1, execWinterRewrite g.1] ++ g.2.downRouters.map (execRouterWake g.1)

/-- The first step that changes the state. -/
def State.firstEvent (s : State) : List Doing → Option (Host.Outcome State Fault Refusal)
  | [] => none
  | f :: r => match f s with
    | .next s' => if s' = s then s.firstEvent r else some (.next s')
    | o => some o

/-- The first core, from the one whose turn it is, whose offer changes more than the cc it is offered next. -/
def State.firstOffer (s : State) : List CoreId → Option (Host.Outcome State Fault Refusal)
  | [] => none
  | c :: r => match s.offer c with
    | .next s' => if s'.modCore c (fun k => { k with slotAt := (s.core c).slotAt }) = s then s.firstOffer r else some (.next s')
    | o => some o

/-- The cores in the order of their turns. -/
def State.turns (s : State) : List CoreId :=
  let l := s.coreIds
  let n := s.turn % max 1 l.length
  l.drop n ++ l.take n

/-- The clocks at which something of a partition is due: a round's start, the end of the time it completes within (R161), a Solstice mark
(R425), the start of a slice (R427). -/
def State.dues (s : State) (p : Nat) : List Nat :=
  let q := s.part p
  (match q.live, q.round with
    | true, none => [q.nextRound]
    | true, some t => [t + q.cadence]
    | false, _ => []) ++
  (if q.live && q.gsmark != 0 then [markAt q.gsmark * Config.ccPerNs] else []) ++
  (match q.st, q.phase with
    | .running, .restored t => [(t / 256 + 1) * 256 * Config.ccPerNs]
    | _, _ => [])

/-- The clocks at which an hourly write of a package is due (R453). -/
def State.hourDues (s : State) : List Nat := (s.pkgs.filter fun g => g.2.phase != 0).map fun g => (g.2.hour + 1) * hourTicks

/-- Time may pass to a clock, but over nothing that is due (R161, R425, R427, R453), and over no cc of a core in which a context of it may be
ready (R89). -/
def State.passTo (s : State) (t : Nat) : State :=
  { s with clock := ((List.range 16).flatMap s.dues ++ s.hourDues ++ s.coreIds.filterMap s.coreStop).foldl (fun m d => min m (max s.clock d)) (max s.clock t) }

/-- The default schedule (log 5). -/
def State.default_ (s : State) : Host.Outcome State Fault Refusal :=
  match s.firstEvent s.candidates with
  | some o => o
  | none => match s.firstOffer s.turns with
    | some o => o
    | none => .next (s.passTo (s.clock + 1))

/-- A step the device or its environment takes by itself. The others are parts of an instruction or of a command, and are taken
where that one is executed. -/
def ofItself : Instr → Bool
  | .registerWrite _ _ _ | .l2cfgWrite _ _ | .taskcfgWrite _ _ | .atblWrite _ _ | .windowWrite _ _ _ | .uplogWrite _ _
  | .publishRegionWrite _ _ _ | .gsmarkWrite _ _ | .pwrcapWrite _ _ | .rccmdLoad _ _ _ | .rccmdStore _ _ _
  | .rccmdRelease _ _ | .debugHalt _ | .debugResume _ | .debugResumeOne _ | .journalTrap _ | .taskUnitTrap _ => false
  | i => (encode i).isNone

/-- Offer a core its next issue slot, once its cc has come. -/
def State.offerNext (s : State) (c : CoreId) : Host.Outcome State Fault Refusal :=
  (s.passTo (if s.clock < (s.core c).slotAt then (s.core c).slotAt else s.ccEdge c)).offer c

/-- Perform what the environment decides (log 5). -/
def State.perform (s : State) : Input → Host.Outcome State Fault Refusal
  | .event i => if ofItself i then exec i s else .next s
  | .tick n => .next (s.passTo (s.clock + n))
  | .issue c => s.offerNext c
  | .evictL1d c x => .next (s.modCore c fun k => { k with l1d := k.l1d.filter (· != x) })
  | .evictL1i c x => .next (s.modCore c fun k => { k with l1i := amErase k.l1i x })
  | .evictTlb c va => .next (s.modCore c fun k =>
      { k with itlb := k.itlb.filter fun e => !(e.va ≤ va && va < e.va + 2 ^ e.bits)
               dtlb := k.dtlb.filter fun e => !(e.va ≤ va && va < e.va + 2 ^ e.bits) })
  | .evictClu u va => .next (s.modCluster u fun k => { k with tlb := k.tlb.filter fun e => !(e.va ≤ va && va < e.va + 2 ^ e.bits) })
  | .cleanSector x => .next { s with dirty := s.dirty.filter (·.1 != x) }
  | .poison g => .next (if s.poison.contains g then s else { s with poison := g :: s.poison })
  | .corrected g => .next (s.eccEvent 0 (32 * g))
  | .l1Error c x => .next (
      if (s.core c).l1d.contains x || (amGet? (s.core c).l1i (x / 128)).isSome then
        (s.modCore c fun k => { k with l1d := k.l1d.filter (· != x), l1i := amErase k.l1i (x / 128) }).eccCore 0 c
      else s)
  | .aperture pkg off bytes (some v) => .next (s.aperture pkg off bytes v)
  | .aperture pkg off bytes none => .next (s.apertureLoad pkg off bytes)
  | .retire pkg kind unit => .next (s.retire pkg kind unit)
  | .raiseMin pkg version => .next (s.raiseMin pkg version)
  | .join pkg outer => .next (s.join pkg outer)
  | .cabled pkg outer => .next (s.onPkg pkg fun k => { k with outer := outer })
  | .poisonTile c t => .next (s.modCore c fun k => { k with tiles := k.tiles.set t { k.tiles.get t with bad := true } })
  | .readAhead c q => .next (match s.ctx? c with
      | none => s
      | some x => match x.streams.get q with
        | none => s
        | some t => if 16 ≤ t.buf.length then s else match (fetchMore c x false t).run.run s with
          | .ok (.ok t', s') => s'.modCtx c fun x => x.modStream q fun _ => t'
          -- no issue attempt is refused: LBST counts none (R376)
          | .error (.leave f) => (f s).modCore c.core fun k => { k with lbWaits := (s.core c.core).lbWaits }
          | .error (.walk u asid va) => s.startWalk u c.core asid va (.ctx c x.icount)
          | _ => s)

/-- Put a word at a physical place: memory, and its sector as it then stands in the instruction cache, so that the fetch awaits no reply. -/
def State.putWord (s : State) (c : CoreId) (pa w : Nat) : State :=
  let mem := Memory.writeN s.mem pa (toBytes w 4)
  { s with mem := mem }.modCore c fun k =>
    { k with l1i := amSet ((amErase k.l1i (pa / 128)).take 511) (pa / 128) (Memory.readN mem (pa / 128 * 128) 128) }

/-- A partition with one context at supervisor level, ready to fetch from offset 0 of its core's store: what a host's
FORM, image load and START leave (log 3). -/
def State.bootPart : Part :=
  { Part.fresh with
    st := .running, phase := .inSlice, everRun := true
    active := { vcore := [(0, 0)], clu := [(0, 0)], pkg := [(0, 0)] } }

/-- The machine with a word placed where the next step fetches it (log 3): at the PC of the current context when it may
issue, else in a partition made for it. -/
def State.placeWord (s : State) (w : Nat) : State :=
  let here : Option (Ctx × Loc) := match s.ctx? s.cur with
    | some x =>
      if s.canIssue s.cur x then
        match (s.resolve s.cur.core (.fetch s.cur.core) none .fetch x.priv x.pc.toNat 4).1 with
        | .ok l => some (x, l)
        | _ => none
      else none
    | none => none
  match here with
  | some (_, l) =>
    let s := s.putWord s.cur.core l.pa w
    let s := s.modCore s.cur.core fun k => { k with ptr := (s.cur.slot + 10) % 11, group := [], waited := Vector.replicate 11 0, slotAt := s.clock }
    { s with agenda := .issue s.cur.core :: s.agenda }
  | none =>
    let c : CtxId := { core := { part := 0, pkg := 0, vc := 0 }, slot := 0 }
    let s := s.setPart 0 State.bootPart
    let s := s.setCore c.core { Core.fresh with ptr := 10 }
    let s := s.setSlot c { Slot.empty with
      state := .held
      ctx := some { Ctx.blank c.core 0 .control with pc := 0x00FE000000000000, priv := .supervisor } }
    let s := s.putWord c.core (s.storePa c.core 0) w
    { s with cur := c, agenda := .issue c.core :: s.agenda }

end Sys2Proof.Machine
end

