-- ==== Sys2Proof/Machine/Step.lean ====
section
/-! DEFINITION. One step of the domain, and the placing of a word where the next step fetches (log 3). -/
namespace Sys2Proof.Machine

/-- One step: the head of the agenda, or the default schedule. -/
def step (s : State) : Host.Outcome State Fault Refusal :=
  match s.agenda with
  | i :: r => { s with agenda := r }.perform i
  | [] => s.default_

/-- Place a word where the next step fetches (log 3). -/
def State.withFetchWord (s : State) (_nbits w : Nat) : State := s.placeWord w

end Sys2Proof.Machine
end

