-- ==== Sys2Proof/Certificates/Slice0/Obligations.lean ====
section
/-! DEFINITION. The statements for the provers, with the words they are said in (namespace Sys2Proof.Claims). -/

namespace Sys2Proof.Claims
open Sys2Proof.Machine

/-! ### What the statements speak of -/

/-- An instruction of context `x` about to run in state `s`. -/
def start (s : State) (x : Ctx) : Ex := { st := s, cx := x, next := x.pc + 4, before := x.streams }

/-- The state once an instruction of context `x` has issued: its context is now `y` and its PC is `next` (what issuing adds is
in `RetiringMovesOnAndSteppingHalts`). -/
def issued (s : State) (x y : Ctx) (next : Word) : State :=
  Ex.retire { st := s, cx := y, next := next, before := x.streams }

/-- Nothing holds the context back at the registers: no lookahead window is open on them (R29), no result of an earlier instruction is
on its way to them (R91), none is still in the pipeline (R92). -/
def Unheld (s : State) (x : Ctx) (regs : List Reg) : Prop :=
  (∀ w ∈ x.windows, w.dest ∉ regs) ∧ (∀ a ∈ x.out, ∀ r ∈ regs, r ≠ 0 → a.writes r = false) ∧ ∀ p ∈ x.lat, p.1 ∈ regs → p.2 ≤ s.clock

/-- The registers hold their values: nothing holds the context back at them, and none is bound to a stream (R85). -/
def Ready (s : State) (x : Ctx) (regs : List Reg) : Prop := Unheld s x regs ∧ ∀ r ∈ regs, x.binding r = none

/-- The result of a register integer instruction or an immediate (R98, R99, R102), written from the tables: its sources in the
order they are read, its destination, its value. -/
def integerOp (pc : Word) : Instr → Option (List Reg × Reg × (List Word → Word))
  | .add d a b => some ([a, b], d, fun v => v.getD 0 0 + v.getD 1 0)
  | .sub d a b => some ([a, b], d, fun v => v.getD 0 0 - v.getD 1 0)
  | .and d a b => some ([a, b], d, fun v => v.getD 0 0 &&& v.getD 1 0)
  | .or d a b => some ([a, b], d, fun v => v.getD 0 0 ||| v.getD 1 0)
  | .xor d a b => some ([a, b], d, fun v => v.getD 0 0 ^^^ v.getD 1 0)
  | .andn d a b => some ([a, b], d, fun v => v.getD 0 0 &&& ~~~v.getD 1 0)
  | .orn d a b => some ([a, b], d, fun v => v.getD 0 0 ||| ~~~v.getD 1 0)
  | .sll d a b => some ([a, b], d, fun v => v.getD 0 0 <<< ((v.getD 1 0).toNat % 64))
  | .srl d a b => some ([a, b], d, fun v => v.getD 0 0 >>> ((v.getD 1 0).toNat % 64))
  | .sra d a b => some ([a, b], d, fun v => (v.getD 0 0).sshiftRight ((v.getD 1 0).toNat % 64))
  | .ror d a b => some ([a, b], d, fun v => (v.getD 0 0).rotateRight ((v.getD 1 0).toNat % 64))
  | .mul d a b => some ([a, b], d, fun v => v.getD 0 0 * v.getD 1 0)
  | .mulhs d a b => some ([a, b], d, fun v =>
      (((v.getD 0 0).signExtend 128 * (v.getD 1 0).signExtend 128) >>> 64).setWidth 64)
  | .mulhz d a b => some ([a, b], d, fun v =>
      (((v.getD 0 0).zeroExtend 128 * (v.getD 1 0).zeroExtend 128) >>> 64).setWidth 64)
  | .divs d a b => some ([a, b], d, fun v => if v.getD 1 0 = 0 then BitVec.allOnes 64 else (v.getD 0 0).sdiv (v.getD 1 0))
  | .divz d a b => some ([a, b], d, fun v => if v.getD 1 0 = 0 then BitVec.allOnes 64 else v.getD 0 0 / v.getD 1 0)
  | .rems d a b => some ([a, b], d, fun v => if v.getD 1 0 = 0 then v.getD 0 0 else (v.getD 0 0).srem (v.getD 1 0))
  | .remz d a b => some ([a, b], d, fun v => if v.getD 1 0 = 0 then v.getD 0 0 else v.getD 0 0 % v.getD 1 0)
  | .mins d a b => some ([a, b], d, fun v => if (v.getD 0 0).toInt < (v.getD 1 0).toInt then v.getD 0 0 else v.getD 1 0)
  | .maxs d a b => some ([a, b], d, fun v => if (v.getD 0 0).toInt < (v.getD 1 0).toInt then v.getD 1 0 else v.getD 0 0)
  | .minz d a b => some ([a, b], d, fun v => if (v.getD 0 0).toNat < (v.getD 1 0).toNat then v.getD 0 0 else v.getD 1 0)
  | .maxz d a b => some ([a, b], d, fun v => if (v.getD 0 0).toNat < (v.getD 1 0).toNat then v.getD 1 0 else v.getD 0 0)
  | .slts d a b => some ([a, b], d, fun v => if (v.getD 0 0).toInt < (v.getD 1 0).toInt then 1 else 0)
  | .sltz d a b => some ([a, b], d, fun v => if (v.getD 0 0).toNat < (v.getD 1 0).toNat then 1 else 0)
  | .clz d a => some ([a], d, fun v => wd (((List.range 64).find? fun i => (v.getD 0 0).getLsbD (63 - i)).getD 64))
  | .ctz d a => some ([a], d, fun v => wd (((List.range 64).find? fun i => (v.getD 0 0).getLsbD i).getD 64))
  | .popc d a => some ([a], d, fun v => wd ((List.range 64).filter fun i => (v.getD 0 0).getLsbD i).length)
  | .brev d a => some ([a], d, fun v => (v.getD 0 0).reverse)
  | .bswp d a => some ([a], d, fun v => BitVec.ofNat 64 ((List.range 8).foldl (fun n i =>
      n + ((v.getD 0 0) >>> (8 * i)).toNat % 256 * 2 ^ (56 - 8 * i)) 0))
  | .exts d a .b => some ([a], d, fun v => ((v.getD 0 0).setWidth 8).signExtend 64)
  | .exts d a .h => some ([a], d, fun v => ((v.getD 0 0).setWidth 16).signExtend 64)
  | .exts d a .w => some ([a], d, fun v => ((v.getD 0 0).setWidth 32).signExtend 64)
  | .extz d a .b => some ([a], d, fun v => ((v.getD 0 0).setWidth 8).zeroExtend 64)
  | .extz d a .h => some ([a], d, fun v => ((v.getD 0 0).setWidth 16).zeroExtend 64)
  | .extz d a .w => some ([a], d, fun v => ((v.getD 0 0).setWidth 32).zeroExtend 64)
  | .ins d a b t => some ([a, b, d], d, fun v =>
      let p := (v.getD 1 0).toNat % 64
      let n := match t with | .b => 8 | .h => 16 | .w => 32
      BitVec.ofNat 64 ((List.range 64).foldl (fun m i =>
        m + (if p ≤ i ∧ i < p + n then (v.getD 0 0).getLsbD (i - p) else (v.getD 2 0).getLsbD i).toNat * 2 ^ i) 0))
  | .idx d a b n => some ([a, b], d, fun v => v.getD 0 0 + v.getD 1 0 <<< n.val)
  | .addi d a imm => some ([a], d, fun v => v.getD 0 0 + imm.signExtend 64)
  | .andi d a imm => some ([a], d, fun v => v.getD 0 0 &&& imm.signExtend 64)
  | .ori d a imm => some ([a], d, fun v => v.getD 0 0 ||| imm.zeroExtend 64)
  | .xori d a imm => some ([a], d, fun v => v.getD 0 0 ^^^ imm.zeroExtend 64)
  | .slli d a n => some ([a], d, fun v => v.getD 0 0 <<< n.val)
  | .srli d a n => some ([a], d, fun v => v.getD 0 0 >>> n.val)
  | .srai d a n => some ([a], d, fun v => (v.getD 0 0).sshiftRight n.val)
  | .sltsi d a imm => some ([a], d, fun v => if (v.getD 0 0).toInt < (imm.signExtend 64).toInt then 1 else 0)
  | .sltzi d a imm => some ([a], d, fun v => if (v.getD 0 0).toNat < (imm.signExtend 64).toNat then 1 else 0)
  | .lih d k imm => some ([d], d, fun v =>
      (v.getD 0 0 &&& ~~~(0xFFFF#64 <<< (16 * k.val))) ||| (imm.zeroExtend 64 <<< (16 * k.val)))
  | .pcrel d imm => some ([], d, fun _ => pc + imm.signExtend 64 * 4)
  | _ => none

/-- The condition of a branch (R38, R104): its operands, its offset in words, when it is taken. -/
def branchOp : Instr → Option (Reg × Reg × Word × (Word → Word → Bool))
  | .beq a b off => some (a, b, off.signExtend 64, fun x y => decide (x = y))
  | .bne a b off => some (a, b, off.signExtend 64, fun x y => decide (x ≠ y))
  | .blt a b off => some (a, b, off.signExtend 64, fun x y => decide (x.toInt < y.toInt))
  | .bge a b off => some (a, b, off.signExtend 64, fun x y => decide (y.toInt ≤ x.toInt))
  | .blo a b off => some (a, b, off.signExtend 64, fun x y => decide (x.toNat < y.toNat))
  | .bhs a b off => some (a, b, off.signExtend 64, fun x y => decide (y.toNat ≤ x.toNat))
  | _ => none

/-- After a taken branch the context's next instruction issues 2 cc later (R92). -/
def jumped (s : State) (x : Ctx) : Ctx := { x with nextAt := s.ccAfter s.cur.core 2 }

/-- A scalar floating-point instruction (R107-R113): its sources, its destination, and what it makes of the context that reads
them and of their values: the word written and the context with its flags and its stochastic counter. -/
def floatOp : Instr → Option (List Reg × Reg × (Ctx → List Word → Word × Ctx))
  | .fadd d a b p r => some ([a, b], d, rounds p r fun dn l => exAdd dn (fv l 0) (fv l 1))
  | .fsub d a b p r => some ([a, b], d, rounds p r fun dn l => exAdd dn (fv l 0) (fv l 1).neg)
  | .fmul d a b p r => some ([a, b], d, rounds p r fun _ l => exMul (fv l 0) (fv l 1))
  | .fdiv d a b p r => some ([a, b], d, rounds p r fun _ l => exDiv (fv l 0) (fv l 1))
  | .fsqrt d a p r => some ([a], d, rounds p r fun _ l => exSqrt (fv l 0))
  | .fmad d a b c p r => some ([a, b, c], d, rounds p r fun dn l => exFma dn (fv l 0) (fv l 1) (fv l 2))
  | .fmin d a b p => some ([a, b], d, selects p false)
  | .fmax d a b p => some ([a, b], d, selects p true)
  | .feq d a b p => some ([a, b], d, compares p .eq)
  | .flt d a b p => some ([a, b], d, compares p .lt)
  | .fle d a b p => some ([a, b], d, compares p .le)
  | .fcls d a p => some ([a], d, fun x v => (wd (2 ^ fpClass p.ffmt (lowBits (v.getD 0 0) p.ffmt.width)), x))
  | .fsgn d a b p k => some ([a, b], d, fun x v =>
      (wd (fpSign p.ffmt k (lowBits (v.getD 0 0) p.ffmt.width) (lowBits (v.getD 1 0) p.ffmt.width)), x))
  | .fcvt d a dst src r => some ([a], d, fun x v =>
      let m := x.mode r
      let res := cvtRes dst m (cvtArg src (v.getD 0 0))
      (res.1, flagged x m.code res.2))
  | _ => none
where
  /-- FFLAGS takes the flags; SRCTR advances by 1 under SR. -/
  flagged (x : Ctx) (code : Nat) (f : Flags) : Ctx :=
    let y := { x with fflags := x.fflags ||| BitVec.ofNat 5 f.toNat }
    if code = 4 then { y with srctr := y.srctr + 1 } else y
  rounds (p : Prec) (r : Rnd) (f : Bool → List FV → Exact × Flags) (x : Ctx) (v : List Word) : Word × Ctx :=
    let m := x.mode r
    let res := p.ffmt.deliver m (f (m.code == 3) (v.map (fpArg p)))
    (wd res.1, flagged x m.code res.2)
  selects (p : Prec) (isMax : Bool) (x : Ctx) (v : List Word) : Word × Ctx :=
    let res := p.ffmt.minMax isMax (lowBits (v.getD 0 0) p.ffmt.width) (lowBits (v.getD 1 0) p.ffmt.width)
    (wd res.1, { x with fflags := x.fflags ||| BitVec.ofNat 5 res.2.toNat })
  compares (p : Prec) (k : CmpKind) (x : Ctx) (v : List Word) : Word × Ctx :=
    let res := fpCompare k (fpArg p (v.getD 0 0)) (fpArg p (v.getD 1 0))
    (if res.1 then 1 else 0, { x with fflags := x.fflags ||| BitVec.ofNat 5 res.2.toNat })

/-- The cc from the issue of a computing instruction to that of one that uses its result (R92), by its operands. -/
def latency (i : Instr) (v : List Word) : Nat :=
  match i with
  | .mul _ _ _ | .mulhs _ _ _ | .mulhz _ _ _ => 3
  | .divs _ _ _ | .rems _ _ _ => division (v.getD 0 0).toInt.natAbs
  | .divz _ _ _ | .remz _ _ _ => division (v.getD 0 0).toNat
  | .fadd _ _ _ _ _ | .fsub _ _ _ _ _ | .fmul _ _ _ _ _ | .fmad _ _ _ _ _ _ | .fmin _ _ _ _ | .fmax _ _ _ _ | .feq _ _ _ _
  | .flt _ _ _ _ | .fle _ _ _ _ | .fcvt _ _ _ _ _ => 4
  | .fdiv _ _ _ p _ | .fsqrt _ _ p _ => match p with | .h | .b => 10 | .s => 14 | .d => 24
  | _ => 1
where
  /-- The significant bits of a number are those its binary numeral has; half of them, rounded up. -/
  division (m : Nat) : Nat := max 10 (4 + ((if m = 0 then 0 else Nat.log2 m + 1) + 1) / 2)
/-- It takes the divide unit (R93). -/
def takesUnit : Instr → Bool
  | .divs _ _ _ | .rems _ _ _ | .divz _ _ _ | .remz _ _ _ | .fdiv _ _ _ _ _ | .fsqrt _ _ _ _ => true
  | _ => false
/-- The instruction takes the divide unit of the core, and it is held (R93). -/
abbrev UnitHeld (s : State) (i : Instr) : Prop := takesUnit i = true ∧ s.clock < (s.core s.cur.core).divFree
/-- The divide unit taken for the latency, if the instruction takes it (R92). -/
def unitTaken (s : State) (i : Instr) (v : List Word) : State :=
  if takesUnit i then s.modCore s.cur.core fun k => { k with divFree := s.ccAfter s.cur.core (latency i v) } else s
/-- A result in register `d` of a longer latency than 1 is noted with the cc from which it may be used (R92). -/
def timed (s : State) (x : Ctx) (i : Instr) (v : List Word) (d : Reg) : Ctx :=
  if latency i v = 1 ∨ d = 0 then x
  else { x with lat := (d, s.ccAfter s.cur.core (latency i v)) :: x.lat.filter fun e => e.1 != d && decide (s.clock < e.2) }
/-- The context with a result in its register. -/
def wrote (s : State) (x : Ctx) (i : Instr) (d : Reg) (v : List Word) (r : Word) : Ctx := timed s (x.setReg d r) i v d

/-- A computing instruction of any of these kinds: sources, destination, value and context. -/
def computeOp (pc : Word) (i : Instr) : Option (List Reg × Reg × (Ctx → List Word → Word × Ctx)) :=
  match integerOp pc i with
  | some (srcs, d, f) => some (srcs, d, fun x v => (f v, x))
  | none => floatOp i

end Sys2Proof.Claims

open Sys2Proof Sys2Proof.Machine Sys2Proof.Claims

/-! ### Integer and floating-point results -/

/-- R98, R99, R102: every register integer instruction and immediate whose operands are ready issues, writes its value to its
destination (to nothing where that is s0), moves the PC on by 4 and changes nothing else of the context, no flag in
particular.
R92, R93: a multiplication's result may be used after 3 cc; a division holds the core's divide unit for its latency and its result may be
used after it; the others' after 1. A division waits, with no effect, while the core's divide unit is held. -/
def Obligations.IntegerInstructionWritesItsResult : Prop :=
  ∀ (s : State) (x : Ctx) (i : Instr) (srcs : List Reg) (d : Reg) (f : List Word → Word),
    s.ctx? s.cur = some x → integerOp x.pc i = some (srcs, d, f) → Ready s x (srcs ++ [d]) →
    let v := srcs.map x.reg
    exec i s = .next (if UnitHeld s i then s else issued (unitTaken s i v) x (wrote s x i d v (f v)) (x.pc + 4))

/-- R107-R113: a scalar floating-point instruction whose operands are ready writes its rounded result, ORs its flags into FFLAGS,
advances SRCTR under SR, moves the PC on by 4, and changes nothing else of the context.
R92, R93: its result may be used after its latency; FDIV and FSQRT hold the core's divide unit so long, and wait, with no effect, while it
is held. -/
def Obligations.FloatInstructionWritesItsResultAndFlags : Prop :=
  ∀ (s : State) (x : Ctx) (i : Instr) (srcs : List Reg) (d : Reg) (f : Ctx → List Word → Word × Ctx),
    s.ctx? s.cur = some x → floatOp i = some (srcs, d, f) → Ready s x (srcs ++ [d]) →
    let v := srcs.map x.reg
    exec i s = .next (if UnitHeld s i then s else issued (unitTaken s i v) x (wrote s (f x v).2 i d v (f x v).1) (x.pc + 4))

/-! ### Branches and calls -/

/-- R104, R92: a conditional branch with ready operands goes to PC + offset * 4 when its condition holds and to PC + 4 when it does
not; it writes no register; after a taken one the context's next instruction issues 2 cc later. -/
def Obligations.BranchGoesToItsTarget : Prop :=
  ∀ (s : State) (x : Ctx) (i : Instr) (a b : Reg) (off : Word) (c : Word → Word → Bool),
    s.ctx? s.cur = some x → branchOp i = some (a, b, off, c) → Ready s x [a, b] →
    exec i s = .next (if c (x.reg a) (x.reg b) then issued s x (jumped s x) (x.pc + off * 4) else issued s x x (x.pc + 4))

/-- R104, R105: CALL and JMPR write PC + 4 to their link (to nothing where it is s0) and go to their target, JMPR to the value
its target register held before the link was written; an unaligned JMPR target writes nothing and raises Alignment with the
target as TVAL, saving the PC of the JMPR.
R92: the context's next instruction issues 2 cc later. -/
def Obligations.CallAndJumpLinkAndGo : Prop :=
  ∀ (s : State) (x : Ctx) (d t : Reg) (off : BitVec 21), s.ctx? s.cur = some x →
    (Ready s x [d] → exec (.call d off) s =
      .next (issued s x (jumped s (x.setReg d (x.pc + 4))) (x.pc + off.signExtend 64 * 4))) ∧
    (Ready s x [t, d] → (x.reg t).toNat % 4 = 0 →
      exec (.jmpr d t) s = .next (issued s x (jumped s (x.setReg d (x.pc + 4))) (x.reg t))) ∧
    (Ready s x [t, d] → (x.reg t).toNat % 4 ≠ 0 → exec (.jmpr d t) s = .next (s.takeFault s.cur x 1 (x.reg t)))

/-! ### Issuing, the frame of the computing instructions, and the step -/

namespace Sys2Proof.Claims
open Sys2Proof.Machine

/-- The lookahead windows after one more instruction (R29): one opened by that instruction itself keeps its count. -/
def windowsAfter (y : Ctx) : List Window :=
  (y.windows.map fun w => if y.icount + 1 ≤ w.acc then w else { w with left := w.left - 1 }).filter fun w => w.left != 0

/-- The state in which an offer runs the one live context of a core (R86, R87, R92): its pointer at that slot, no group, no slot
waiting, the next issue slot a cc later, and the context no longer standing back for a YIELD. -/
def offered (s : State) (c : CtxId) (x : Ctx) : State :=
  (s.putCtx c { x with yielded := false }).modCore c.core fun k =>
    { k with ptr := c.slot, group := [], waited := Vector.ofFn fun _ => 0, slotAt := s.ccAfter c.core 1 }

/-- Every slot of a core but one is empty. -/
def Alone (s : State) (c : CtxId) : Prop :=
  c.slot < 11 ∧ ∀ n < 11, n ≠ c.slot → s.ctx? { core := c.core, slot := n } = none

/-- Two slots of the machine are different places. -/
def Apart (c d : CtxId) : Prop := c.core.key ≠ d.core.key ∨ c.core = d.core ∧ c.slot % 11 ≠ d.slot % 11

/-- Everything outside one slot is as it was, but for the time at which a core's divide unit frees. -/
def SameButSlot (s t : State) (c : CtxId) : Prop :=
  t.clock = s.clock ∧ t.mem = s.mem ∧ t.poison = s.poison ∧ t.dirty = s.dirty ∧ t.clusters = s.clusters ∧ t.parts = s.parts ∧
  t.pkgs = s.pkgs ∧ t.jobs = s.jobs ∧ t.etlbs = s.etlbs ∧ t.net = s.net ∧ t.kept = s.kept ∧ t.outgoing = s.outgoing ∧ t.pairs = s.pairs ∧
  t.homeWrites = s.homeWrites ∧ t.replies = s.replies ∧ t.walks = s.walks ∧ t.invals = s.invals ∧
  t.publishes = s.publishes ∧ t.cur = s.cur ∧ t.agenda = s.agenda ∧ (∀ d, Apart d c → t.slot d = s.slot d) ∧
  ∀ k, { t.core k with slots := (s.core k).slots, divFree := (s.core k).divFree } = s.core k

/-- The registers of a context that only system instructions, traps and the context's own kind of instruction write. -/
def SameSpecial (x y : Ctx) : Prop :=
  y.priv = x.priv ∧ y.tcause = x.tcause ∧ y.tval = x.tval ∧ y.epc = x.epc ∧ y.tsave0 = x.tsave0 ∧ y.tsave1 = x.tsave1 ∧
  y.epriv = x.epriv ∧ y.inh = x.inh ∧ y.frm = x.frm ∧ y.srkey = x.srkey ∧ y.thresh = x.thresh ∧ y.rah = x.rah ∧
  y.qhvec = x.qhvec ∧ y.vregs = x.vregs ∧ y.vtags = x.vtags ∧ y.grant = x.grant ∧ y.streams = x.streams ∧ y.lastv = x.lastv ∧
  y.out = x.out ∧ y.jobs = x.jobs ∧ y.parked = x.parked ∧ y.pin = x.pin ∧ y.task = x.task

end Sys2Proof.Claims

/-- R7, R29: what issuing adds to an instruction's own effect where the context does not step: the PC takes its next value, the
open lookahead windows count down, what the instruction kept between its attempts is forgotten, and nothing else of the machine
changes.
R410: with STEP set, or resumed for one instruction, the context halts with REASON 1 after the instruction.
R420: a debug halt asked for while an exact fault of the context waited takes effect after the next instruction, with REASON 3. -/
def Obligations.RetiringMovesOnAndSteppingHalts : Prop :=
  (∀ (s : State) (x y : Ctx) (next : Word), (s.slot s.cur).step = false → y.stepOne = false →
     let t := s.putCtx s.cur { y with
       pc := next, windows := windowsAfter y, icount := y.icount + 1, reads := [], posted := none, moving := none
       faultWaits := false, tried := [], stepOne := false }
     (y.haltReq = false → issued s x y next = t) ∧ (y.haltReq = true → issued s x y next = t.halt s.cur 3)) ∧
  (∀ (s : State) (x y : Ctx) (next : Word), (s.slot s.cur).step = true ∨ y.stepOne = true →
     ((issued s x y next).slot s.cur).halted = true ∧ ((issued s x y next).slot s.cur).reason = 1)

/-- R50: s0 reads zero and discards writes, whatever is written to it and whatever any other register holds.
The frame of the register forms: an integer or floating-point instruction, a branch, CALL or JMPR whose operands are ready
and which issues (its PC counts up) leaves every register but its destination alone, every special register, accumulator and
saved register alone, every other context, every partition, package and table alone, and every byte of memory. Only a
floating-point instruction changes FFLAGS or SRCTR (R7, R90, R98, R102, R104, R105, R107-R114). -/
def Obligations.RegisterZeroAndRegisterForms : Prop :=
  (∀ (x : Ctx) (r : Reg) (v : Word), x.reg 0 = 0 ∧ x.setReg 0 v = x ∧ (x.setReg r v).reg 0 = 0 ∧
     (r ≠ 0 → (x.setReg r v).reg r = v) ∧ ∀ q, q ≠ r → (x.setReg r v).reg q = x.reg q) ∧
  (∀ (s t : State) (x y : Ctx) (i : Instr) (srcs : List Reg) (d : Reg),
     s.ctx? s.cur = some x → (s.slot s.cur).step = false → x.stepOne = false → x.haltReq = false → Ready s x (srcs ++ [d]) →
     ((∃ f, computeOp x.pc i = some (srcs, d, f)) ∨ (∃ a b off c, branchOp i = some (a, b, off, c) ∧ srcs = [a, b] ∧ d = 0) ∨
       (∃ off, i = .call d off ∧ srcs = []) ∨ (∃ r, i = .jmpr d r ∧ srcs = [r] ∧ (x.reg r).toNat % 4 = 0)) →
     exec i s = .next t → t.ctx? s.cur = some y →
     SameButSlot s t s.cur ∧ SameSpecial x y ∧ (∀ r, r ≠ d → y.reg r = x.reg r) ∧
     (∀ a, Memory.read t.mem a = Memory.read s.mem a) ∧
     (floatOp i = none → y.fflags = x.fflags ∧ y.srctr = x.srctr))

/-- A step runs the decoded instruction: when the step offers a core its issue slot, its one live context may issue, nothing
pends on it, and the word at its PC decodes to `i`, the step is `exec i` in the state the fetch leaves, and the turn moves on by
one; the core's next issue slot is a cc later. -/
def Obligations.StepRunsTheDecodedInstruction : Prop :=
  ∀ (s s0 s' t : State) (c : CtxId) (x : Ctx) (rest : List Input) (w : Nat) (i : Instr),
    s.agenda = .issue c.core :: rest → s0 = { s with agenda := rest } → s0.ctx? c = some x → Alone s0 c →
    (s0.core c.core).group = [] → (s0.core c.core).slotAt ≤ s0.clock → s0.ccEdge c.core = s0.clock →
    (s0.part c.core.part).roundDue s0.clock = false → s0.readyCtx c = true →
    (offered s0 c x).canIssue c { x with yielded := false } = true → (offered s0 c x).overdue c { x with yielded := false } = false →
    (offered s0 c x).asyncPending c { x with yielded := false } = false →
    ({ offered s0 c x with cur := c }).fetch c { x with yielded := false } = .word w s' → decodeNat w = .ok i →
    exec i s' = .next t →
    step s = .next { t with turn := t.turn + 1 }

/-! ### Faults, traps and the return from them -/

namespace Sys2Proof.Claims
open Sys2Proof.Machine

/-- A context that takes its exact fault at once: its task, if it has one, has settled, its results are written, it is not in a
handler, and its partition names one. -/
def TakesFault (s : State) (x : Ctx) : Prop :=
  s.ctx? s.cur = some x ∧ s.speculative s.cur.core.part x = false ∧ x.resultsOut = false ∧ x.inh = false ∧
  (s.part s.cur.core.part).tvec ≠ 0

/-- The state in which the current context has entered the handler (R401). The windows closed and the park given up are the
model's reading (log 18; R127); what the attempt had read so far is forgotten, and what its walks found (R235). With STEP set the context halts
after entry (R410); so it does where a debug halt was asked for while its fault waited (R420). -/
def entered (s : State) (x : Ctx) (cause : Nat) (tval epc : Word) : State :=
  let s := s.leaveWalks fun b => b.ofCtx s.cur
  let y : Ctx := { x.giveUp.unpark with
    epc := epc, tcause := wd cause, tval := tval, epriv := x.priv.code, inh := true, heldBit := false, late := false
    priv := if x.priv = .firmware then .firmware else .supervisor
    pc := (s.part s.cur.core.part).tvec, windows := [] }
  let t := s.putCtx s.cur y
  if (s.slot s.cur).step || x.stepOne then t.halt s.cur 1 else if x.haltReq then t.halt s.cur 3 else t

end Sys2Proof.Claims

/-- R401: an exact fault saves the PC, the cause, TVAL and the level, sets INH, raises the level to supervisor (a firmware
context stays there) and goes to TVEC.
R402: a fault that arises in a handler, or with no handler named, halts the context with REASON 4; its trap registers keep
their values. -/
def Obligations.ExactFaultEntersTheHandlerOrHalts : Prop :=
  (∀ (s : State) (x : Ctx) (cause : Nat) (tval : Word), TakesFault s x → cause ≠ 9 →
     s.takeFault s.cur x cause tval = entered s x cause tval x.pc) ∧
  (∀ (s : State) (x : Ctx) (cause : Nat) (tval : Word),
     s.ctx? s.cur = some x → s.speculative s.cur.core.part x = false → x.resultsOut = false →
     (x.inh = true ∨ (s.part s.cur.core.part).tvec = 0) →
     ((s.takeFault s.cur x cause tval).slot s.cur).halted = true ∧ ((s.takeFault s.cur x cause tval).slot s.cur).reason = 4 ∧
     ∃ y, (s.takeFault s.cur x cause tval).ctx? s.cur = some y ∧ y.epc = x.epc ∧ y.tcause = x.tcause ∧ y.tval = x.tval ∧
       y.epriv = x.epriv ∧ y.inh = x.inh ∧ y.pc = x.pc)

/-- R415, R401: TRAP enters the handler with cause 9, its code in TVAL and its PC + 4 saved; EBRK without BRKEN enters it with
cause 15 and its own PC saved.
R415: with BRKEN set EBRK halts its context with REASON 2 and its code, to resume at PC + 4. -/
def Obligations.TrapAndBreakpointAreTaken : Prop :=
  (∀ (s : State) (x : Ctx) (code : BitVec 12), TakesFault s x →
     exec (.trap code) s = .next (entered s x 9 (code.setWidth 64) (x.pc + 4)) ∧
     ((s.slot s.cur).brken = false → exec (.ebrk code) s = .next (entered s x 15 (code.setWidth 64) x.pc))) ∧
  (∀ (s : State) (x : Ctx) (code : BitVec 12), s.ctx? s.cur = some x → s.speculative s.cur.core.part x = false →
     (s.slot s.cur).brken = true →
     ∃ (t : State) (y : Ctx), exec (.ebrk code) s = .next t ∧ (t.slot s.cur).halted = true ∧ (t.slot s.cur).reason = 2 ∧
       (t.slot s.cur).bcode = code ∧ t.ctx? s.cur = some y ∧ y.pc = x.pc + 4 ∧ t.mem = s.mem)

/-- R416: ERET at supervisor or firmware level goes to EPC at the saved level with INH clear; an EPC that is not a multiple of 4
raises Alignment with TVAL = EPC.
R33: at program level ERET raises Privilege with its word as TVAL.
R410: with STEP set, or resumed for one instruction, the context halts with REASON 1 after its ERET. -/
def Obligations.EretReturnsToTheSavedPlace : Prop :=
  ∀ (s : State) (x : Ctx), s.ctx? s.cur = some x →
    (x.priv = .program → exec .eret s = .next (s.takeFault s.cur x 3 (wordOf .eret))) ∧
    (x.priv ≠ .program → x.epc.toNat % 4 = 0 → ∃ (t : State) (y : Ctx), exec .eret s = .next t ∧ t.ctx? s.cur = some y ∧ y.pc = x.epc ∧
      y.priv = Priv.ofCode x.epriv ∧ y.inh = false ∧ y.regs = x.regs ∧ t.mem = s.mem ∧
      ((s.slot s.cur).step = true ∨ x.stepOne = true → (t.slot s.cur).halted = true ∧ (t.slot s.cur).reason = 1)) ∧
    (x.priv ≠ .program → x.epc.toNat % 4 ≠ 0 → exec .eret s = .next (s.takeFault s.cur x 1 x.epc))

/-! ### Memory: loads, stores, atomics, posted accesses -/

namespace Sys2Proof.Claims
open Sys2Proof.Machine

/-- The operands of instruction `i` in the running context `x`: its sources give `vs`, its result goes by `p`, and `e` is what
popping bound streams leaves (R32, R85, R91, R273). -/
def Operands (s : State) (x : Ctx) (i : Instr) (srcs : List Reg) (d : Option Reg) (vs : List Word) (p : Plan) (e : Ex) : Prop :=
  s.ctx? s.cur = some x ∧ (operands i srcs d).run (start s x) = .ok ((vs, p), e) ∧ e.st.cur = s.cur

/-- A number held least significant byte first (R57). -/
def leNat (b : List Byte) : Nat := b.foldr (fun x n => x.toNat + 256 * n) 0

/-- What an instruction asks of memory (R39-R43, R199-R209): its sources and destination, the permission it needs, how many bytes,
their address and the request it makes, and how the result is delivered. -/
structure AccessForm where
  srcs : List Reg
  dest : Option Reg
  kind : TKind
  bytes : Nat
  va : List Word → Word
  op : List Word → ReqOp
  signed : Bool := false
  la : Fin 16 := 0
  wide : Bool := false

def szBytes : Size → Nat | .b => 1 | .h => 2 | .w => 4 | .d => 8
def dbBytes (dbl : Bool) : Nat := if dbl then 8 else 4
/-- The low bytes of an operand. -/
def lowPart (vs : List Word) (i n : Nat) : Nat := (vs.getD i 0).toNat % 2 ^ (8 * n)

def atomicForm (op : AtOp) (d a b : Reg) (dbl old : Bool) (la : Fin 16) : AccessForm :=
  let n := dbBytes dbl
  { srcs := if old then [a, b, d] else [a, b], dest := some d, kind := .rw, bytes := n, va := fun v => v.getD 0 0
    op := fun v => .atomic op n (lowPart v 1 n) (lowPart v 2 n), la := la }

/-- Loads, stores and atomics (R200, R203). -/
def accessForm : Instr → Option AccessForm
  | .ld d a t off la => some
      { srcs := [a], dest := some d, kind := .read, bytes := szBytes t
        va := fun v => v.getD 0 0 + off.signExtend 64 * wd (szBytes t), op := fun _ => .load (szBytes t), la := la }
  | .lds d a t off la => some
      { srcs := [a], dest := some d, kind := .read, bytes := szBytes t
        va := fun v => v.getD 0 0 + off.signExtend 64 * wd (szBytes t), op := fun _ => .load (szBytes t), signed := true, la := la }
  | .ldx d a b t la => some
      { srcs := [a, b], dest := some d, kind := .read, bytes := szBytes t, va := fun v => v.getD 0 0 + v.getD 1 0
        op := fun _ => .load (szBytes t), la := la }
  | .lda d a b t sc la => some
      { srcs := [a, b], dest := some d, kind := .read, bytes := szBytes t, va := fun v => v.getD 0 0 + v.getD 1 0
        op := fun _ => .load (szBytes t), la := la, wide := sc != .ctx }
  | .st d a t off => some
      { srcs := [a, d], dest := none, kind := .write, bytes := szBytes t
        va := fun v => v.getD 0 0 + off.signExtend 64 * wd (szBytes t), op := fun v => .store (toBytes (v.getD 1 0).toNat (szBytes t)) }
  | .stl d a b t sc => some
      { srcs := [a, b, d], dest := none, kind := .write, bytes := szBytes t, va := fun v => v.getD 0 0 + v.getD 1 0
        op := fun v => .store (toBytes (v.getD 2 0).toNat (szBytes t)), wide := sc != .ctx }
  | .aadd d a b w la => some (atomicForm .add d a b w false la)
  | .aand d a b w la => some (atomicForm .and d a b w false la)
  | .aor d a b w la => some (atomicForm .or d a b w false la)
  | .axor d a b w la => some (atomicForm .xor d a b w false la)
  | .amin d a b .s w la => some (atomicForm .mins d a b w false la)
  | .amin d a b .z w la => some (atomicForm .minz d a b w false la)
  | .amax d a b .s w la => some (atomicForm .maxs d a b w false la)
  | .amax d a b .z w la => some (atomicForm .maxz d a b w false la)
  | .aswp d a b w la => some (atomicForm .swap d a b w false la)
  | .acas d a b w la => some (atomicForm .cas d a b w true la)
  | .afadd d a b w la => some (atomicForm .fadd d a b w false la)
  | _ => none

/-- Posted accesses (R200, R206), with the kind, the signedness bit and the size code of their journal entry and the operand that
is its data (R404). -/
def postedForm : Instr → Option (AccessForm × Nat × Bool × Nat × Nat)
  | .stp d a b t => some (
      { srcs := [a, b, d], dest := none, kind := .write, bytes := szBytes t, va := fun v => v.getD 0 0 + v.getD 1 0
        op := fun v => .store (toBytes (lowPart v 2 (szBytes t)) (szBytes t)) }, 0, false,
        (match t with | .b => 0 | .h => 1 | .w => 2 | .d => 3), 2)
  | .radd a b w => some (red .add a b w, 1, false, if w then 3 else 2, 1)
  | .rmin a b .s w => some (red .mins a b w, 2, false, if w then 3 else 2, 1)
  | .rmin a b .z w => some (red .minz a b w, 2, true, if w then 3 else 2, 1)
  | .rmax a b .s w => some (red .maxs a b w, 3, false, if w then 3 else 2, 1)
  | .rmax a b .z w => some (red .maxz a b w, 3, true, if w then 3 else 2, 1)
  | .rfadd a b w => some (red .fadd a b w, 4, false, if w then 3 else 2, 1)
  | _ => none
where
  red (op : AtOp) (a b : Reg) (w : Bool) : AccessForm :=
    { srcs := [a, b], dest := none, kind := .rw, bytes := dbBytes w, va := fun v => v.getD 0 0
      op := fun v => .reduce op (dbBytes w) (lowPart v 1 (dbBytes w)) }

/-- RLOG as an access of its address (R209). -/
def rlogForm (a b : Reg) (dbl : Bool) : AccessForm :=
  { srcs := [a, b], dest := none, kind := .rw, bytes := dbBytes dbl, va := fun v => v.getD 0 0, op := fun _ => .load 0 }

/-- The value an atomic leaves (R203): `m` was there, `x` is its operand, `c` its comparand, `n` bytes each. -/
def atomicValue (op : AtOp) (n m x c : Nat) : Nat :=
  let a := BitVec.ofNat (8 * n) m
  let b := BitVec.ofNat (8 * n) x
  match op with
  | .add => (a + b).toNat
  | .and => (a &&& b).toNat
  | .or => (a ||| b).toNat
  | .xor => (a ^^^ b).toNat
  | .mins => if a.toInt < b.toInt then m else x
  | .minz => if m < x then m else x
  | .maxs => if a.toInt < b.toInt then x else m
  | .maxz => if m < x then x else m
  | .swap => x
  | .cas => if m = c then x else m
  | .fadd => let f := if n = 4 then fp32 else fp64; (f.deliver rneMode (exAdd false (f.dec m) (f.dec x))).1 % 2 ^ (8 * n)

/-- The address of an access of `n` bytes is aligned and resolves to a place (R200, R201): `t` is the state the translation
leaves. -/
def Located (e : Ex) (f : AccessForm) (vs : List Word) (l : Loc) (t : State) : Prop :=
  (f.va vs).toNat % f.bytes = 0 ∧
  e.st.resolve e.st.cur.core (.data e.st.cur.core) (some (.ctx e.st.cur e.cx.icount)) f.kind e.cx.priv (f.va vs).toNat f.bytes = (.ok l, t)

/-- The context has no access outstanding and no request in flight, no migration under way or refused and no task, and its partition runs none
(R142, R190). -/
def Quiet (s : State) (c : CtxId) (x : Ctx) : Prop :=
  x.out = [] ∧ x.moving = none ∧ x.tried = [] ∧ x.task = none ∧ (s.part c.core.part).tasks = [] ∧
  (∀ k ∈ s.net, ∀ r, k.msg = .req r → r.src = c → r.via ≠ .ctx) ∧ ∀ h ∈ s.homeWrites, h.req.src = c → h.req.via ≠ .ctx

/-- Nothing at their home holds an access to the bytes, and the manual says what they hold (R185, R189, R195, R196, R230, R429). -/
def Plain (s : State) (h : Home) (pa n : Nat) : Prop :=
  s.boardHeld h pa n = false ∧ s.writeUnderWay pa n = false ∧ s.poisoned pa n = false ∧
  ∀ i < n, s.early h false (pa + i) = false ∧ s.staleHome h (pa + i) = false ∧ s.openAt (pa + i) = false
/-- The bytes can be read and written at their home at once, no other access that has reached it waits there, and the manual says what they
hold (R191, R215). -/
def Settled (s : State) (h : Home) (pa n : Nat) : Prop := Plain s h pa n ∧ ∀ k ∈ s.net, k.dst = h.agent → k.cls = 0 → k.stage ≠ .ready

/-- The access stays here (R126): its count does not pass THRESH, and its page does not ask for a migration to another core. -/
def Stays (x : Ctx) (me : CoreId) (l : Loc) : Prop :=
  (x.thresh = 0 ∨ (x.countRemote me l.home).2 ≤ x.thresh) ∧
  ((l.rah && x.rah) = true → l.homeCore = some me ∨ l.homeCore = none)
/-- The context with its remote-access count after an access that stays (R126). -/
def counted (x : Ctx) (me : CoreId) (l : Loc) : Ctx :=
  if l.rah && x.rah then { (x.countRemote me l.home).1 with remCount := 0 } else (x.countRemote me l.home).1

/-- The context after a load or atomic that completed at once with value `v` (R29, R200). -/
def loaded (x : Ctx) (d : Reg) (v : Word) (la : Fin 16) (acq : Bool) : Ctx :=
  let y := { x with accCtr := x.accCtr + 1 }.setReg d v
  let y := if la ≠ 0 ∧ d ≠ 0 then
    { y with windows := y.windows ++ [{ dest := d, left := la.val, pc := y.pc, acc := y.icount + 1 }] } else y
  if acq then { y.refetchAll with allAfter := y.accCtr } else y

/-- The registers of a context that no access writes. -/
def SameControl (x y : Ctx) : Prop :=
  y.priv = x.priv ∧ y.tcause = x.tcause ∧ y.tval = x.tval ∧ y.epc = x.epc ∧ y.tsave0 = x.tsave0 ∧ y.tsave1 = x.tsave1 ∧
  y.epriv = x.epriv ∧ y.inh = x.inh ∧ y.fflags = x.fflags ∧ y.frm = x.frm ∧ y.srkey = x.srkey ∧ y.srctr = x.srctr ∧
  y.thresh = x.thresh ∧ y.rah = x.rah ∧ y.qhvec = x.qhvec ∧ y.vregs = x.vregs ∧ y.vtags = x.vtags ∧ y.grant = x.grant ∧
  y.lastv = x.lastv

/-- Instruction `i` took journal entry `j` and sent the request `op` to the home of `l`, and the context went on: the entry holds what
R404 says, no register and no byte of memory has changed. -/
def Posted (s u : State) (e : Ex) (l : Loc) (j : Fin 64) (i : Instr) (op : ReqOp) (kind : Nat) (fk sgn : Bool)
    (size data : Nat) : Prop :=
  ∃ (t : State) (y : Ctx) (k : Packet) (r : Req), exec i s = .next t ∧ k ∈ t.net ∧ k.src = .core e.st.cur.core ∧ k.dst = l.home.agent ∧ k.msg = .req r ∧
    r.src = e.st.cur ∧ r.va = l.va ∧ r.pa = l.pa ∧ r.home = l.home ∧ r.op = op ∧ r.posted = some j.val ∧
    (t.core e.st.cur.core).journal = (u.core e.st.cur.core).journal.set j
      { state := 1, kind := kind, fk := fk, sgn := sgn, size := size, origin := e.cx.origin, cause := 0, va := l.va
        data := wd data, acc := r.acc, slot := e.st.cur.slot } ∧
    t.mem = e.st.mem ∧ t.ctx? e.st.cur = some y ∧ y.regs = e.cx.regs ∧ SameControl e.cx y ∧ y.pc = e.next

/-- Memory reads as before but for `n` bytes at `pa`, which hold the number `v` (R57). -/
def OnlyBytes (m m' : List Host.Cell) (pa n v : Nat) : Prop :=
  leNat (Memory.readN m' pa n) = v ∧ ∀ a, a < pa ∨ pa + n ≤ a → Memory.read m' a = Memory.read m a

end Sys2Proof.Claims

/-- The stream forms (R85, R273, R276, R283): whatever streams the sources pop and the destination pushes, an integer or
floating-point instruction delivers the value of what its operands gave, by the plan its destination gave.
R50, R85, R271: operands that are registers give their values, and s0 zero; a source that names a bound stream whose head is
buffered gives the head's word and pops it. -/
def Obligations.OperandsAndResultsPassThroughStreams : Prop :=
  (∀ (s : State) (x : Ctx) (i : Instr) (srcs : List Reg) (d : Reg) (f : Ctx → List Word → Word × Ctx) (vs : List Word) (p : Plan)
     (e e' : Ex),
     s.ctx? s.cur = some x → computeOp x.pc i = some (srcs, d, f) → ¬ UnitHeld s i →
     (operands i srcs (some d)).run (start s x) = .ok ((vs, p), e) → e.cx.pc = x.pc →
     (putDest p (f e.cx vs).1).run { e with st := unitTaken e.st i vs, cx := (f e.cx vs).2 } = .ok ((), e') →
     exec i s = .next (Ex.retire (match p with
       | .reg d => { e' with cx := timed e'.st e'.cx i vs d }
       | _ => e'))) ∧
  ((∀ (s : State) (x : Ctx) (i : Instr) (srcs : List Reg) (d : Reg), s.ctx? s.cur = some x → Ready s x (srcs ++ [d]) →
     Operands s x i srcs (some d) (srcs.map x.reg) (.reg d) (start s x)) ∧
   (∀ (s : State) (x : Ctx) (i : Instr) (srcs : List Reg), s.ctx? s.cur = some x → Ready s x srcs →
     Operands s x i srcs none (srcs.map x.reg) (.reg 0) (start s x)) ∧
   ∀ (s : State) (x : Ctx) (i : Instr) (r d : Reg) (q : Fin 8) (t : Stream) (w : Word) (crd pres nA nB : Nat) (rest : List SElem),
     s.ctx? s.cur = some x → Unheld s x [r, d] → x.binding r = some (q, t) → x.binding d = none →
     t.kind ≠ .nbr → t.kind ≠ .patWrite → t.buf = .data w crd pres nA nB :: rest →
     Operands s x i [r] (some d) [w] (.reg d) { start s x with cx := x.modStream q Stream.pop })

/-- R200, R190, R57: a load whose bytes are in the core's own store, or in its L1 data cache, writes the little-endian number
they hold to its destination, sign-extended for LDS; LDA orders what follows; nothing else changes, but that an access to the core's own store is
the one its home performs in this cycle (R191, R215). -/
def Obligations.LoadWritesItsRegister : Prop :=
  ∀ (s t : State) (x : Ctx) (i : Instr) (f : AccessForm) (d : Reg) (vs : List Word) (e : Ex) (l : Loc),
    accessForm i = some f → f.kind = .read → f.dest = some d → Operands s x i f.srcs f.dest vs (.reg d) e →
    Located e f vs l t → Quiet t e.st.cur e.cx → Stays e.cx e.st.cur.core l → Settled t l.home l.pa f.bytes →
    (l.home = .core e.st.cur.core ∧ l.reader = l.home ∧ l.repl = none ∨ t.l1Serves e.st.cur e.cx l f.bytes = true) →
    let m := BitVec.ofNat (8 * f.bytes) (leNat (Memory.readN t.mem l.pa f.bytes))
    let la := if l.remoteLocal e.st.cur.core then 0 else f.la
    let y := loaded (counted e.cx e.st.cur.core l) d (if f.signed then m.signExtend 64 else m.setWidth 64) la f.wide
    exec i s = .next (Ex.retire { e with st := if t.l1Serves e.st.cur e.cx l f.bytes then t else t.ownDone e.st.cur.core, cx := y })

/-- R200, R57: a store to the core's own store writes the low bytes of its data, least significant first, at its address; every
other byte of memory and every register is left alone. -/
def Obligations.StoreWritesItsBytes : Prop :=
  ∀ (s u : State) (x : Ctx) (i : Instr) (f : AccessForm) (data : List Byte) (vs : List Word) (p : Plan) (e : Ex) (l : Loc),
    accessForm i = some f → f.op vs = .store data → Operands s x i f.srcs f.dest vs p e →
    Located e f vs l u → Quiet u e.st.cur e.cx → Stays e.cx e.st.cur.core l → Settled u l.home l.pa f.bytes →
    l.home = .core e.st.cur.core → l.repl = none → (f.wide = true → u.nbrLanded e.st.cur.core = true) →
    u.holders e.st.cur.core l.pa f.bytes = [] → Memory.wf e.st.mem = true →
    data.length = f.bytes ∧ ∃ (t : State) (y : Ctx), exec i s = .next t ∧ OnlyBytes e.st.mem t.mem l.pa f.bytes (leNat data) ∧
      t.ctx? e.st.cur = some y ∧ y.regs = e.cx.regs ∧ SameControl e.cx y ∧ y.pc = e.next

/-- R203: an atomic on the core's own store answers what its bytes held and leaves there the value of its operation; every other
byte of memory and every other register is left alone. -/
def Obligations.AtomicAnswersTheOldValue : Prop :=
  ∀ (s u : State) (x : Ctx) (i : Instr) (f : AccessForm) (op : AtOp) (n v c : Nat) (d : Reg) (vs : List Word) (e : Ex) (l : Loc),
    accessForm i = some f → f.op vs = .atomic op n v c → f.dest = some d → Operands s x i f.srcs f.dest vs (.reg d) e →
    Located e f vs l u → Quiet u e.st.cur e.cx → Stays e.cx e.st.cur.core l → Settled u l.home l.pa n →
    l.home = .core e.st.cur.core → l.repl = none → u.holders e.st.cur.core l.pa n = [] → Memory.wf e.st.mem = true →
    let m := leNat (Memory.readN e.st.mem l.pa n)
    ∃ (t : State) (y : Ctx), exec i s = .next t ∧ OnlyBytes e.st.mem t.mem l.pa n (atomicValue op n m v c) ∧ t.ctx? e.st.cur = some y ∧
      (d ≠ 0 → y.reg d = wd m) ∧ (∀ r, r ≠ d → y.reg r = e.cx.reg r) ∧ SameControl e.cx y ∧ y.pc = e.next

/-- R190, R371: a load, store or atomic whose home is another agent sends it one request and the context goes on; no register and
no byte of memory has changed, and what the destination waits for is one outstanding access. -/
def Obligations.RemoteAccessSendsARequest : Prop :=
  ∀ (s u : State) (x : Ctx) (i : Instr) (f : AccessForm) (vs : List Word) (p : Plan) (e : Ex) (l : Loc),
    accessForm i = some f → Operands s x i f.srcs f.dest vs p e → (∀ d, f.dest = some d → p = .reg d) →
    Located e f vs l u → Quiet u e.st.cur e.cx → Stays e.cx e.st.cur.core l →
    l.home ≠ .core e.st.cur.core → l.reader ≠ .core e.st.cur.core → (f.kind = .read → u.l1Serves e.st.cur e.cx l f.bytes = false) →
    u.buffersHeld e.st.cur e.cx < 128 → u.unanswered e.st.cur e.cx l.home < 63 →
    (f.kind = .write → f.wide = true → u.nbrLanded e.st.cur.core = true) →
    ∃ (t : State) (y : Ctx) (k : Packet) (r : Req), exec i s = .next t ∧ k ∈ t.net ∧ k.src = .core e.st.cur.core ∧
      k.dst = (if f.kind = .read then l.reader else l.home).agent ∧ k.msg = .req r ∧
      r.src = e.st.cur ∧ r.va = l.va ∧ r.pa = l.pa ∧ r.home = l.home ∧ r.op = f.op vs ∧ r.posted = none ∧
      t.mem = e.st.mem ∧ t.ctx? e.st.cur = some y ∧ y.regs = e.cx.regs ∧ SameControl e.cx y ∧ y.pc = e.next ∧
      ∃ a, y.out = [a] ∧ a.acc = r.acc ∧
        a.dest = (match f.dest with | some d => if d = 0 then .none else .reg d f.signed | none => .none)

/-- R200, R201: an access whose address is not a multiple of its size raises Alignment with the address as TVAL, before anything
else it would do.
R126: a load, store or atomic of a context that may migrate, made to another core when the count passes THRESH or to a
page that asks for it, begins a migration to the home instead, with the count at 0, and has no other effect. -/
def Obligations.AccessMisalignedOrOverThresh : Prop :=
  (∀ (s : State) (x : Ctx) (i : Instr) (f : AccessForm) (vs : List Word) (p : Plan) (e : Ex),
     x.task = none →
     (accessForm i = some f ∨ (∃ k, postedForm i = some (f, k)) ∨ ∃ a b flt dbl, i = .rlog a b flt dbl ∧ f = rlogForm a b dbl) →
     Operands s x i f.srcs f.dest vs p e → (f.va vs).toNat % f.bytes ≠ 0 →
     exec i s = .next (s.takeFault s.cur x 1 (f.va vs))) ∧
  (∀ (s u : State) (x : Ctx) (i : Instr) (f : AccessForm) (vs : List Word) (p : Plan) (e : Ex) (l : Loc) (h : CoreId),
     accessForm i = some f → Operands s x i f.srcs f.dest vs p e → Located e f vs l u → e.cx.moving = none → e.cx.tried = [] →
     e.cx.movable = true → l.homeCore = some h → h ≠ e.st.cur.core →
     (e.cx.thresh ≠ 0 ∧ e.cx.thresh < (e.cx.countRemote e.st.cur.core l.home).2 ∨ (l.rah && e.cx.rah) = true) →
     exec i s = .next (s.startMove s.cur
       { x with remCount := 0, remHome := (e.cx.countRemote s.cur.core l.home).1.remHome, tried := [] } h none))

/-! ### Fences, cache control, the merge of a log -/

namespace Sys2Proof.Claims
open Sys2Proof.Machine

/-- What later accesses wait for after a fence of a scope wider than ctx (R212): the loads before it, or every access before
it; an acquire reads the streams again (R275). -/
def fenced (x : Ctx) : FenceKind → Ctx
  | .acq => { x.refetchAll with ldAfterLd := x.accCtr, stAfterLd := x.accCtr }
  | .rel => { x with stAfterAll := x.accCtr }
  | .acqrel => { x.refetchAll with ldAfterLd := x.accCtr, stAfterLd := x.accCtr, stAfterAll := x.accCtr }
  | .sc => { x.refetchAll with ldAfterAll := x.accCtr, stAfterAll := x.accCtr }

end Sys2Proof.Claims

/-- R212, R213: a fence of scope ctx does nothing; one of a wider scope sets what later accesses wait for once the core's
neighbour words have arrived (an acquire does not wait for them); SBWAIT goes on once every store has been performed and
waits before that.
R213: CPREF brings a sector that can be cached and that nothing is writing into the core's L1 data cache; CFLUSH leaves the
sector clean at its home; CDROP takes it out of both L1 caches of every core of the partition. None of them changes memory or a
register. That CPREF brings the sector in at once is the model's choice (log 31). -/
def Obligations.FencesAndCacheInstructions : Prop :=
  (∀ (s : State) (x : Ctx), s.ctx? s.cur = some x →
     (∀ k, exec (.fence k .ctx) s = .next (issued s x x (x.pc + 4))) ∧
     (∀ k sc, sc ≠ .ctx → k = .acq ∨ s.nbrLanded s.cur.core = true →
       exec (.fence k sc) s = .next (issued s x (fenced x k) (x.pc + 4))) ∧
     ((∀ a ∈ x.out, a.storeLike = false) → s.nbrLanded s.cur.core = true →
       exec .sbwait s = .next (issued s x x (x.pc + 4))) ∧
     ((∃ a ∈ x.out, a.storeLike = true) → exec .sbwait s = .next s)) ∧
  (∀ (s u : State) (x : Ctx) (a : Reg) (l : Loc), s.ctx? s.cur = some x → Ready s x [a] →
     (s.resolve s.cur.core (.data s.cur.core) (some (.ctx s.cur x.icount)) .read x.priv (x.reg a).toNat 1 = (.ok l, u) →
       inStore l.pa = false → u.writeUnderWay (l.pa / 128 * 128) 128 = false → u.poisoned (l.pa / 128 * 128) 128 = false →
       ∃ (t : State) (y : Ctx), exec (.cpref a) s = .next t ∧ l.pa / 128 * 128 ∈ (t.core s.cur.core).l1d ∧ t.mem = s.mem ∧
         t.ctx? s.cur = some y ∧ y.regs = x.regs ∧ y.pc = x.pc + 4) ∧
     (s.resolve s.cur.core (.data s.cur.core) (some (.ctx s.cur x.icount)) .none_ x.priv (x.reg a).toNat 1 = (.ok l, u) →
       (x.busyAt l.home = false →
         ∃ (t : State) (y : Ctx), exec (.cflush a) s = .next t ∧ (l.pa / 128 * 128, l.home) ∉ t.dirty ∧ t.mem = s.mem ∧
           t.ctx? s.cur = some y ∧ y.regs = x.regs ∧ y.pc = x.pc + 4) ∧
       ∃ (t : State) (y : Ctx), exec (.cdrop a) s = .next t ∧ t.mem = s.mem ∧ t.ctx? s.cur = some y ∧ y.regs = x.regs ∧ y.pc = x.pc + 4 ∧
         ((∀ c ∈ s.cores, (c.2.l1i.map (·.1)).Pairwise (· < ·)) →
           ∀ k c, (k, c) ∈ t.cores → (coreOfKey k).part = s.cur.core.part →
             l.pa / 128 * 128 ∉ c.l1d ∧ amGet? c.l1i (l.pa / 128) = none)))

/-- R200, R206, R404: a posted store and a reduction take the lowest free journal entry, send one request to the home and go on;
they write no register and no byte of memory themselves.
R209: RLOG to a byte whose home is a core is journalled and sent as the other posted accesses, with the number of its core's
sequence, which it advances; to any other byte it raises Access.
R211: RMRG applies the records of its core's log in order of target, source and sequence, empties the log, and writes the
number applied to the low half of its destination and the number skipped to the high half. That it does so in one step, once the places of
all its records are translated, and that a record whose place cannot be read counts as skipped is the model's choice (log 30). -/
def Obligations.PostedAccessesLogRecordsAndMerges : Prop :=
  ((∀ (s u : State) (x : Ctx) (i : Instr) (f : AccessForm) (kind size ix : Nat) (sgn : Bool) (vs : List Word) (p : Plan) (e : Ex)
      (l : Loc) (j : Fin 64),
      postedForm i = some (f, kind, sgn, size, ix) → x.task = none → Operands s x i f.srcs none vs p e → Located e f vs l u →
      Quiet u e.st.cur e.cx → Stays e.cx e.st.cur.core l → (u.core e.st.cur.core).freeEntry = some j →
      u.unanswered e.st.cur e.cx l.home < 63 →
      Posted s u e l j i (f.op vs) kind false sgn size (lowPart vs ix f.bytes)) ∧
   (∀ (s u : State) (x : Ctx) (a b : Reg) (flt dbl : Bool) (vs : List Word) (p : Plan) (e : Ex) (l : Loc),
      x.task = none → Operands s x (.rlog a b flt dbl) [a, b] none vs p e → Located e (rlogForm a b dbl) vs l u →
      (∀ (h : CoreId) (j : Fin 64), l.home = .core h → Quiet u e.st.cur e.cx → Stays e.cx e.st.cur.core l → (u.core e.st.cur.core).freeEntry = some j →
        u.unanswered e.st.cur e.cx l.home < 63 →
        Posted s u e l j (.rlog a b flt dbl)
          (.rlog flt dbl (lowPart vs 1 (dbBytes dbl)) (u.core e.st.cur.core).rlseq.toNat) 5 flt false (if dbl then 3 else 2)
          (lowPart vs 1 (dbBytes dbl)) ∧
        ∃ t, exec (.rlog a b flt dbl) s = .next t ∧ (t.core e.st.cur.core).rlseq = (u.core e.st.cur.core).rlseq + 1) ∧
      (∀ g n, l.home = .llc g n → exec (.rlog a b flt dbl) s = .next (s.takeFault s.cur x 5 (wd l.va))))) ∧
  (∀ (s : State) (x : Ctx) (d : Reg) (la : Fin 16) (u : State) (ap sk : Nat),
     s.ctx? s.cur = some x → Ready s x [d] → Quiet s s.cur x →
     let c := s.cur.core
     (∀ i < (s.core c).logCount, ∃ r, s.translate (.data c) (some (.ctx s.cur x.icount)) .none_ .supervisor (s.recordVa c i) = (r, s) ∧
       r ≠ .miss ∧ r ≠ .wait) →
     let recs := s.logRecs c (s.core c).logCount
     let good := sortBy LogRec.le (recs.filterMap id)
     (∀ r ∈ good, s.mustWait { core := c, task := none } (.core c) r.pa (dbBytes r.dbl) = false) →
     s.mergeAll c good 0 (recs.filter (·.isNone)).length = (u, ap, sk) →
     ∃ (t : State) (y : Ctx), exec (.rmrg d la) s = .next t ∧ (t.core c).logCount = 0 ∧ t.mem = u.mem ∧ t.ctx? s.cur = some y ∧
       (d ≠ 0 → y.reg d = wd (sk * 2 ^ 32 + ap)) ∧ (∀ r, r ≠ d → y.reg r = x.reg r) ∧ y.pc = x.pc + 4)

/-! ### The vector pool -/

namespace Sys2Proof.Claims
open Sys2Proof.Machine

/-- The vector registers are granted and none of them awaits a load or a result (R248, R255). -/
def Granted (s : State) (x : Ctx) (rs : List Nat) : Prop :=
  (∀ r ∈ rs, r < x.grant) ∧ (∀ a ∈ x.out, ∀ r off, a.dest = .vec r off → r ∉ rs) ∧ ∀ p ∈ x.vlat, p.1 ∈ rs → p.2 ≤ s.clock

/-- The cc from the issue of a register-to-register vector instruction to that of one that uses its result (R255). -/
def vecLatency : Instr → Nat
  | .vadd _ _ _ _ | .vsub _ _ _ _ | .vmul _ _ _ _ | .vfma _ _ _ _ | .vmax _ _ _ _ | .vmin _ _ _ _ => 4
  | .vexp _ _ _ | .vrcp _ _ _ | .vrsq _ _ _ => 12
  | .vred _ _ _ _ => 8
  | .vperm _ _ _ _ | .vcmp _ _ _ _ _ => 2
  | _ => 1
/-- The result in vector register `r` of a longer latency than 1 is noted with the cc from which it may be used (R255). -/
def vecTimed (s : State) (x : Ctx) (n r : Nat) : Ctx :=
  if n = 1 then x else { x with vlat := (r, s.ccAfter s.cur.core n) :: x.vlat.filter fun e => e.1 != r && decide (s.clock < e.2) }

/-- Element `k` of a vector register (R252). -/
def lane (t : VType) (v : VWord) (k : Nat) : Nat := v.toNat / 2 ^ (t.width * k) % 2 ^ t.width

/-- An exact integer in an element: wrapped, with WR where it does not fit (R57, R262). -/
def wrapped (w : Nat) (v : Int) : Nat × Flags :=
  ((BitVec.ofInt w v).toNat, if (BitVec.ofInt w v).toInt = v then 0 else fWR)
/-- An element as a signed integer. -/
def signedLane (t : VType) (n : Nat) : Int := (BitVec.ofNat t.width n).toInt

/-- A lane of the three-operand arithmetic (R75, R262): rounded under FRM for floating types, wrapped for integer types. -/
def arithLane (t : VType) (va vb vd : VReg) (fl : Bool → FV → FV → FV → Exact × Flags) (int : Int → Int → Int → Int) (x : Ctx)
    (k : Nat) : Nat × Flags :=
  let a := lane t (x.vec va.val) k
  let b := lane t (x.vec vb.val) k
  let d := lane t (x.vec vd.val) k
  match t.fmt.elem with
  | .flt f => f.deliver (x.modeAt x.frm.toNat k) (fl (x.frm == 3) (f.dec a) (f.dec b) (f.dec d))
  | .int _ => wrapped t.width (int (signedLane t a) (signedLane t b) (signedLane t d))
/-- A lane of VMIN and VMAX (R63). -/
def pickLane (t : VType) (isMax : Bool) (va vb : VReg) (x : Ctx) (k : Nat) : Nat × Flags :=
  let a := lane t (x.vec va.val) k
  let b := lane t (x.vec vb.val) k
  match t.fmt.elem with
  | .flt f => f.minMax isMax a b
  | .int _ => (if isMax then (if signedLane t a < signedLane t b then b else a)
               else if signedLane t a < signedLane t b then a else b, 0)
/-- A lane of VEXP, VRCP and VRSQ (R262). -/
def unaryLane (t : VType) (va : VReg) (fl : FV → Exact × Flags) (x : Ctx) (k : Nat) : Nat × Flags :=
  match t.fmt.elem with
  | .flt f => f.deliver (x.modeAt x.frm.toNat k) (fl (f.dec (lane t (x.vec va.val) k)))
  | .int _ => (0, 0)
/-- A lane of VCMP (R263): all ones where the relation holds. -/
def compareLane (t : VType) (k : CmpKind) (va vb : VReg) (x : Ctx) (n : Nat) : Nat × Flags :=
  let a := lane t (x.vec va.val) n
  let b := lane t (x.vec vb.val) n
  let r : Bool × Flags := match t.fmt.elem with
    | .flt f => fpCompare k (f.dec a) (f.dec b)
    | .int _ => (match k with
      | .eq => decide (a = b) | .ne => decide (a ≠ b)
      | .lt => decide (signedLane t a < signedLane t b) | .le => decide (signedLane t a ≤ signedLane t b), 0)
  (if r.1 then 2 ^ t.width - 1 else 0, r.2)

/-- The register-to-register vector instructions (R261-R263): the registers they name, the destination, the type, whether they
round under FRM, and the elements they write with their flags. -/
def vectorOp : Instr → Option (List VReg × VReg × VType × Bool × (Ctx → List (Nat × Flags)))
  | .vadd d a b t => some (each [d, a, b] d t true (arithLane t a b d (fun r p q _ => exAdd r p q) fun p q _ => p + q))
  | .vsub d a b t => some (each [d, a, b] d t true (arithLane t a b d (fun r p q _ => exAdd r p q.neg) fun p q _ => p - q))
  | .vmul d a b t => some (each [d, a, b] d t true (arithLane t a b d (fun _ p q _ => exMul p q) fun p q _ => p * q))
  | .vfma d a b t => some (each [d, a, b] d t true (arithLane t a b d exFma fun p q r => p * q + r))
  | .vmax d a b t => some (each [d, a, b] d t false (pickLane t true a b))
  | .vmin d a b t => some (each [d, a, b] d t false (pickLane t false a b))
  | .vexp d a t => if t.isFloat then some (each [d, a] d t true (unaryLane t a exExp)) else none
  | .vrcp d a t => if t.isFloat then some (each [d, a] d t true (unaryLane t a exRecip)) else none
  | .vrsq d a t => if t.isFloat then some (each [d, a] d t true (unaryLane t a exRsqrt)) else none
  | .vred d a k t => some ([d, a], d, t, false, fun x =>
      [redTree k t.fmt.elem 7 ((List.range t.lanes).map (lane t (x.vec a.val))) 0])
  | .vperm d a b t => some (each [d, a, b] d t false fun x k =>
      (lane t (x.vec a.val) (lane t (x.vec b.val) k % t.lanes), 0))
  | .vcmp d a b k t => some (each [d, a, b] d t false (compareLane t k a b))
  | .vsel d a b t => some (each [d, a, b] d t false fun x k =>
      (if lane t (x.vec d.val) k ≠ 0 then lane t (x.vec a.val) k else lane t (x.vec b.val) k, 0))
  | _ => none
where
  each (rs : List VReg) (d : VReg) (t : VType) (rounds : Bool) (f : Ctx → Nat → Nat × Flags) :
      List VReg × VReg × VType × Bool × (Ctx → List (Nat × Flags)) :=
    (rs, d, t, rounds, fun x => (List.range t.lanes).map (f x))

/-- The bytes lie in the local memory of the core that runs, a live core of its package, at offset `off` (R22, R181, R186). -/
def InOwnMemory (s : State) (va off n : Nat) : Prop :=
  va = 0x00FE000000000000 + off ∧ off + n ≤ s.l2Base s.cur.core ∧ s.logCore s.cur.core < 2048

/-- The pieces of a vector access that go elsewhere (R259, R260): addresses, offsets and bytes. -/
def Elsewhere (s : State) (x : Ctx) (k : TKind) (ps : List (Nat × Nat × Nat)) (loc : Nat → Loc) : Prop :=
  (∀ p ∈ ps, s.resolve s.cur.core (.data s.cur.core) (some (.ctx s.cur x.icount)) k x.priv p.1 p.2.2 = (.ok (loc p.1), s) ∧
    (loc p.1).home ≠ .core s.cur.core ∧ (loc p.1).reader ≠ .core s.cur.core ∧
    s.refused s.cur.core (loc p.1).home (if k = .read then .rd else .wr) (loc p.1).pa p.2.2 = false ∧
    (k = .read → s.l1Serves s.cur x (loc p.1) p.2.2 = false)) ∧
  s.buffersHeld s.cur x + ps.length ≤ 128 ∧ s.keptBytes (.core s.cur.core) + 128 * ps.length ≤ 65536

/-- Each piece has its request on the way, and the context went on with its registers and memory as they were. -/
def PiecesSent (s : State) (x : Ctx) (i : Instr) (ps : List (Nat × Nat × Nat)) (loc : Nat → Loc)
    (op : Nat × Nat × Nat → ReqOp) : Prop :=
  ∃ (t : State) (y : Ctx), exec i s = .next t ∧ t.mem = s.mem ∧ t.ctx? s.cur = some y ∧ y.regs = x.regs ∧ y.vregs = x.vregs ∧ y.pc = x.pc + 4 ∧
    y.out.length = ps.length ∧
    ∀ p ∈ ps, ∃ (k : Packet) (r : Req), k ∈ t.net ∧ k.src = .core s.cur.core ∧ k.msg = .req r ∧ r.src = s.cur ∧ r.pa = (loc p.1).pa ∧
      r.home = (loc p.1).home ∧ r.op = op p

end Sys2Proof.Claims

/-- R252, R253, R261-R263: a register-to-register vector instruction whose registers are granted writes every element of its
destination (VRED its element 0, the rest zero) and the register's status tag, advances SRCTR under SR by its elements, and changes
nothing else; FFLAGS in particular keeps its value.
R255: its result may be used after its latency. -/
def Obligations.VectorInstructionWritesItsElements : Prop :=
  ∀ (s : State) (x : Ctx) (i : Instr) (rs : List VReg) (d : VReg) (t : VType) (rounds : Bool) (f : Ctx → List (Nat × Flags)),
    s.ctx? s.cur = some x → vectorOp i = some (rs, d, t, rounds, f) → Granted s x (rs.map (·.val)) →
    let code := if rounds && t.isFloat then x.frm.toNat else 0
    let y := x.setVec d.val (ofLanes t.width ((f x).map (·.1))) (tagOf ((f x).map (·.2)) code)
    exec i s = .next (issued s x (vecTimed s (y.advance code t.lanes) (vecLatency i) d.val) (x.pc + 4))

/-- R261: VMVS reads the element its index selects, sign-extended for integer types; VMSV replaces that element and VBCAST every
element, and both leave a clear tag; VIND copies the register its operand selects, with its tag.
R264: VCVT converts 32 elements of a block-scaled format, else as many as the wider side holds, and writes the destination
register, or the pair, with the flags in its tag; scalar registers and every other vector register keep their values. -/
def Obligations.VectorMovesAndConversionsWriteElements : Prop :=
  (∀ (s : State) (x : Ctx) (t : VType), s.ctx? s.cur = some x →
     (∀ (d b : Reg) (va : VReg), Ready s x [b, d] → Granted s x [va.val] →
       let e := BitVec.ofNat t.width (lane t (x.vec va.val) ((x.reg b).toNat % t.lanes))
       exec (.vmvs d va b t) s =
         .next (issued s x (x.setReg d (if t.isFloat then e.setWidth 64 else e.signExtend 64)) (x.pc + 4))) ∧
     (∀ (vd : VReg) (a b : Reg), Ready s x [a, b] → Granted s x [vd.val] →
       exec (.vmsv vd a b t) s = .next (issued s x (x.setVec vd.val (ofLanes t.width ((List.range t.lanes).map fun k =>
         if k = (x.reg b).toNat % t.lanes then (x.reg a).toNat % 2 ^ t.width else lane t (x.vec vd.val) k)) VTag.clear) (x.pc + 4))) ∧
     (∀ (vd : VReg) (a : Reg), Ready s x [a] → Granted s x [vd.val] →
       exec (.vbcast vd a t) s = .next (issued s x (x.setVec vd.val (ofLanes t.width ((List.range t.lanes).map fun _ =>
         (x.reg a).toNat % 2 ^ t.width)) VTag.clear) (x.pc + 4))) ∧
     ∀ (vd vb : VReg) (a : Reg), Ready s x [a] → Granted s x [vd.val, vb.val + (x.reg a).toNat] →
       let r := Fin.ofNat 64 (vb.val + (x.reg a).toNat)
       exec (.vind vd vb a) s = .next (issued s x (x.setVec vd.val (x.vregs.get r) (x.vtags.get r)) (x.pc + 4))) ∧
  (∀ (s : State) (x : Ctx) (vd va : VReg) (dst src : Fmt) (r : Rnd), s.ctx? s.cur = some x → x.grant ≤ 64 →
     let blocked := dst.block ≠ 0 || src.block ≠ 0
     let n := if blocked then 32 else 512 / max src.width dst.width
     let wide (f : Fmt) := blocked && (f.block ≠ 0 || f.width == 32)
     let out := encArray dst ((List.range n).map fun k => x.modeAt (rndCode r x.frm) k) (vcvtSource x src va.val n)
     Granted s x ([va.val] ++ (if wide src then [va.val + 1] else []) ++ [vd.val] ++ if wide dst then [vd.val + 1] else []) →
     ∃ (t : State) (y : Ctx), exec (.vcvt vd va dst src r) s = .next t ∧ t.ctx? s.cur = some y ∧ t.mem = s.mem ∧ y.regs = x.regs ∧
       y.pc = x.pc + 4 ∧ y.vec vd.val = BitVec.ofNat 512 (packAll dst.width out.codes) ∧
       y.vtags.get vd = tagOf out.flags (match dst.elem, src.elem with | .int _, .int _ => 0 | _, _ => rndCode r x.frm) ∧
       (wide dst = true → y.vec (vd.val + 1) =
         if dst.block = 0 then BitVec.ofNat 512 (packAll dst.width out.codes / 2 ^ 512) else BitVec.ofNat 512 (packAll 8 out.scales)) ∧
       (∀ q : VReg, q ≠ vd → ¬(wide dst = true ∧ q.val = vd.val + 1) → y.vec q.val = x.vec q.val) ∧
       y.srctr = if rndCode r x.frm = 4 then x.srctr + wd n else x.srctr)

/-- R248, R255: a vector instruction that names a register above its context's grant raises Grant with its word, and one that names
a register that a load or an earlier result is still to write waits.
R258, R253: VGRANT to a larger count takes that many registers when the pool has them free beyond the control context's
reservation, the new ones zero; VRETN to a smaller count gives registers back; both answer the count then held, and change no other
register. A count that is no multiple of 8 up to 64 raises Illegal. -/
def Obligations.VectorGrantRulesTheVectorRegisters : Prop :=
  (∀ (s : State) (x : Ctx) (i : Instr) (rs : List VReg) (d : VReg) (t : VType) (rounds : Bool) (f : Ctx → List (Nat × Flags)),
     s.ctx? s.cur = some x → vectorOp i = some (rs, d, t, rounds, f) →
     ((∃ r ∈ rs, x.grant ≤ r.val) → exec i s = .next (s.takeFault s.cur x 11 (wordOf i))) ∧
     ((∀ r ∈ rs, r.val < x.grant) →
       ((∃ a ∈ x.out, ∃ r ∈ rs, ∃ off, a.dest = .vec r.val off) ∨ ∃ p ∈ x.vlat, ∃ r ∈ rs, p.1 = r.val ∧ s.clock < p.2) →
       exec i s = .next s)) ∧
  (∀ (s : State) (x : Ctx) (d a : Reg), s.ctx? s.cur = some x → Ready s x [a, d] → x.out = [] → (∀ p ∈ x.vlat, p.2 ≤ s.clock) →
     let n := (x.reg a).toNat
     let keep := if s.cur.slot = 0 then 0 else (s.core s.cur.core).vpResv - s.vheld0 s.cur x
     (¬(n % 8 = 0 ∧ n ≤ 64) → exec (.vgrant d a) s = .next (s.takeFault s.cur x 2 (wordOf (.vgrant d a))) ∧
       exec (.vretn d a) s = .next (s.takeFault s.cur x 2 (wordOf (.vretn d a)))) ∧
     (n % 8 = 0 → n ≤ 64 → x.grant < n → (n - x.grant) / 8 ≤ s.vfree s.cur x - keep →
       exec (.vgrant d a) s = .next (issued s x (({ x.clearVecs x.grant n with grant := n } : Ctx).setReg d (wd n)) (x.pc + 4)) ∧
       exec (.vretn d a) s = .next (issued s x (x.setReg d (wd x.grant)) (x.pc + 4))) ∧
     (n % 8 = 0 → n ≤ 64 → (n ≤ x.grant ∨ s.vfree s.cur x - keep < (n - x.grant) / 8) →
       exec (.vgrant d a) s = .next (issued s x (x.setReg d (wd x.grant)) (x.pc + 4))) ∧
     (n % 8 = 0 → n ≤ 64 → n < x.grant →
       exec (.vretn d a) s = .next (issued s x (({ x.clearVecs n x.grant with grant := n } : Ctx).setReg d (wd n)) (x.pc + 4))))

/-- R256, R257, R260: in the core's own local memory VLD reads 64 bytes into its register with a clear tag; VST writes 64 bytes,
and under SWST the status doubleword after them; VLDX and VSTX read and write one element at each address their index register
gives. No scalar register and no other vector register changes, nor any other byte of memory.
R259, R260: a vector access to bytes whose home is another agent sends one request for each sector it touches, or for each
element of a gather or scatter, and the context goes on; nothing is written before the replies. -/
def Obligations.VectorAccessMovesElementsOrSendsPieces : Prop :=
  (∀ (s : State) (x : Ctx) (vd vb : VReg) (a b : Reg) (t : VType) (off : Nat),
     s.ctx? s.cur = some x → Quiet s s.cur x →
     let pa := s.storePa s.cur.core
     let va := (x.reg a + x.reg b).toNat
     let w := t.width / 8
     let at_ (k : Nat) : Nat := (x.reg a + (BitVec.ofNat t.width (lane t (x.vec vb.val) k)).signExtend 64 * wd w).toNat
     let b64 := toBytes (x.vec vd.val).toNat 64 ++
       if x.swst then toBytes (vecStatus t (x.vec vd.val) (x.vtags.get vd)).toNat 8 else []
     (Ready s x [a, b] → Granted s x [vd.val] → va % w = 0 → InOwnMemory s va off 64 → Settled s (.core s.cur.core) (pa off) 64 →
       ∃ (u : State) (y : Ctx), exec (.vld vd a b t) s = .next u ∧ u.mem = s.mem ∧ u.ctx? s.cur = some y ∧ y.regs = x.regs ∧ y.pc = x.pc + 4 ∧
         y.vregs = x.vregs.set vd (BitVec.ofNat 512 (leNat (Memory.readN s.mem (pa off) 64))) ∧ y.vtags.get vd = VTag.clear) ∧
     (Ready s x [a, b] → Granted s x [vd.val] → va % w = 0 → (x.swst = true → va % 64 = 0) → InOwnMemory s va off b64.length →
       Settled s (.core s.cur.core) (pa off) b64.length →
       ∃ (u : State) (y : Ctx), exec (.vst vd a b t) s = .next u ∧ u.mem = Memory.writeN s.mem (pa off) b64 ∧ u.ctx? s.cur = some y ∧
         y.regs = x.regs ∧ y.vregs = x.vregs ∧ y.pc = x.pc + 4) ∧
     (Ready s x [a] → Granted s x [vd.val, vb.val] →
       (∀ k < t.lanes, ∃ o, InOwnMemory s (at_ k) o w ∧ at_ k % w = 0 ∧ Settled s (.core s.cur.core) (pa o) w) →
       (∃ (u : State) (y : Ctx), exec (.vldx vd a vb t) s = .next u ∧ u.mem = s.mem ∧ u.ctx? s.cur = some y ∧ y.regs = x.regs ∧ y.pc = x.pc + 4 ∧
         (∀ q : VReg, q ≠ vd → y.vregs.get q = x.vregs.get q) ∧
         ∀ k < t.lanes, lane t (y.vec vd.val) k = leNat (Memory.readN s.mem (pa (at_ k - 0x00FE000000000000)) w)) ∧
       ∃ (u : State) (y : Ctx), exec (.vstx vd a vb t) s = .next u ∧ u.ctx? s.cur = some y ∧ y.regs = x.regs ∧ y.vregs = x.vregs ∧
         y.pc = x.pc + 4 ∧
         u.mem = (List.range t.lanes).foldl (fun m k =>
           Memory.writeN m (pa (at_ k - 0x00FE000000000000)) (toBytes (lane t (x.vec vd.val) k) w)) s.mem)) ∧
  (∀ (s : State) (x : Ctx) (vd vb : VReg) (a b : Reg) (t : VType) (loc : Nat → Loc),
     s.ctx? s.cur = some x → Quiet s s.cur x → x.swst = false →
     let va := (x.reg a + x.reg b).toNat
     let w := t.width / 8
     let pieces := if va % 128 ≤ 64 then [(va, 0, 64)] else
       [(va, 0, 128 - va % 128), ((va + (128 - va % 128)) % 2 ^ 64, 128 - va % 128, va % 128 - 64)]
     let elems := (List.range t.lanes).map fun k =>
       ((x.reg a + (BitVec.ofNat t.width (lane t (x.vec vb.val) k)).signExtend 64 * wd w).toNat, k * w, w)
     (Ready s x [a, b] → Granted s x [vd.val] → va % w = 0 → va ≠ 0x00FE000000100000 →
       (Elsewhere s x .read pieces loc → PiecesSent s x (.vld vd a b t) pieces loc fun p => .load p.2.2) ∧
       (Elsewhere s x .write pieces loc → PiecesSent s x (.vst vd a b t) pieces loc fun p =>
         .store (((toBytes (x.vec vd.val).toNat 64).drop p.2.1).take p.2.2))) ∧
     (Ready s x [a] → Granted s x [vd.val, vb.val] → (∀ p ∈ elems, p.1 % w = 0) →
       (Elsewhere s x .read elems loc → PiecesSent s x (.vldx vd a vb t) elems loc fun p => .load p.2.2) ∧
       (Elsewhere s x .write elems loc → PiecesSent s x (.vstx vd a vb t) elems loc fun p =>
         .store (toBytes (lane t (x.vec vd.val) (p.2.1 / w)) w))))

/-! ### Streams -/

namespace Sys2Proof.Claims
open Sys2Proof.Machine

/-- Reads made in state `s` give `v` and leave state `u` (R279). -/
def Reads {α : Type} (a : WalkM RM α) (s : State) (v : α) (u : State) : Prop := a.run.run s = .ok (.ok v, u)

/-- The core has stream slots for a binding beyond the control context's reservation, the register's own counted as free (R266,
R267). -/
def RoomFor (s : State) (x : Ctx) (q : Fin 8) (k : SKind) : Prop :=
  let own := ((x.streams.get q).map (·.kind.slots)).getD 0
  let keep := if s.cur.slot = 0 then 0 else (s.core s.cur.core).qsResv - s.qheld0 s.cur x
  k.slots + keep ≤ s.qfreeSlots s.cur x + own

/-- An unread binding: nothing popped, nothing buffered (R268). -/
def newStream (k : SKind) (desc : Nat) : Stream := { Stream.fresh k with desc := desc }

end Sys2Proof.Claims

/-- R268-R270, R279-R285: QBIND, QFIB, QISECT and QUNION read and check their descriptor and bind the register at its first element;
QNBR binds it to the neighbour of a direction that no other context of the core has bound; QFREE ends the binding. A descriptor that
breaks its layout raises Stream with sub-code 4 and binds nothing. Without stream slots a binding waits before it reads anything.
R279: what the core's own local memory holds is read at once. That a context may bind one direction to two registers of its own, and that
only another context's binding of it raises NBRBUSY, is the model's choice (log 34).
R269, R270, R274: a binding and its end leave the stream's register zero and every other register as it was; where the context has no
other binding they clear the handler registers, and where it has one they keep them. -/
def Obligations.StreamsAreBoundFromTheirDescriptors : Prop :=
  (∀ (s : State) (x : Ctx) (va off n : Nat), s.ctx? s.cur = some x → Quiet s s.cur x → x.reads = [] → InOwnMemory s va off n →
     0 < n → va % 128 + n ≤ 128 → Settled s (.core s.cur.core) (s.storePa s.cur.core off) n →
     Reads (ctxRead s.cur x false va n) s (Memory.readN s.mem (s.storePa s.cur.core off) n) (s.ownDone s.cur.core)) ∧
  (∀ (s u : State) (x : Ctx) (q : Fin 8) (a : Reg), s.ctx? s.cur = some x → Ready s x [a] → Unheld s x [streamReg q] →
     let va := (x.reg a).toNat
     let rd := ctxRead s.cur x false
     (¬RoomFor s x q .patRead → exec (.qbind q a) s = .next s) ∧
     (∀ b p, va % 64 = 0 → Reads (rd va 64) s b u → patternOf b = some p → RoomFor s x q .patRead →
       exec (.qbind q a) s = .next (issued u x (x.setStream q (some
         { newStream (if p.wr then .patWrite else .patRead) va with pat := p })) (x.pc + 4))) ∧
     (∀ b, va % 64 = 0 → Reads (rd va 64) s b u → patternOf b = none → RoomFor s x q .patRead →
       exec (.qbind q a) s = .next (s.takeFault s.cur x 12 (streamTval (.qbind q a) 4 q))) ∧
     (∀ w, va % 32 = 0 → Reads (do readWalker rd true (← rd va 32)) s (some w) u → RoomFor s x q .fibre →
       exec (.qfib q a) s = .next (issued u x (x.setStream q (some { newStream .fibre va with wa := w })) (x.pc + 4))) ∧
     (∀ w v, va % 64 = 0 →
       Reads (do
         let d ← rd va 64
         let m ← readWalker rd true (d.take 32)
         let n ← readWalker rd true (d.drop 32)
         return (m, n)) s (some w, some v) u → RoomFor s x q .isect →
       exec (.qisect q a) s =
         .next (issued u x (x.setStream q (some { newStream .isect va with wa := w, wb := v })) (x.pc + 4)) ∧
       exec (.qunion q a) s =
         .next (issued u x (x.setStream q (some { newStream .union va with wa := w, wb := v })) (x.pc + 4))) ∧
     (∀ dir n, x.task = none → s.neighbour s.cur.core dir = some n → RoomFor s x q .nbr →
       (∀ k ∈ slotsOf s.cur.core, k ≠ s.cur → ∀ y, s.ctx? k = some y → ∀ t ∈ y.streams.toList, ∀ b, t = some b →
         ¬(b.kind = .nbr ∧ b.dir = dir)) →
       exec (.qnbr q dir) s = .next (issued s x (x.setStream q (some { newStream .nbr 0 with dir := dir })) (x.pc + 4))) ∧
     exec (.qfree q) s = .next (issued s x (if (x.streams.get q).isSome then x.setStream q none else x) (x.pc + 4))) ∧
  (∀ (x : Ctx) (q : Fin 8) (t : Option Stream),
     (x.setStream q t).reg (streamReg q) = 0 ∧ (x.setStream q t).streams.get q = t ∧
     (∀ r, r ≠ streamReg q → (x.setStream q t).reg r = x.reg r) ∧
     (∀ p, p ≠ q → (x.setStream q t).streams.get p = x.streams.get p) ∧
     ((∀ p, p ≠ q → x.streams.get p = none) →
       (x.setStream q t).qhvec = 0 ∧ (x.setStream q t).qhpc = 0 ∧ (x.setStream q t).qhval = 0) ∧
     (∀ p, p ≠ q → (x.streams.get p).isSome = true → (x.setStream q t).qhvec = x.qhvec ∧ (x.setStream q t).qhpc = x.qhpc ∧
       (x.setStream q t).qhval = x.qhval))

/-- R286-R289: of a bound stream whose elements are buffered, QCRD answers the head's coordinate (all ones at a control value; the
ordinal of a write pattern), QEND answers zero at a data word and else pops the control value and answers it with the stream's number,
QSKIP drops the elements whose coordinates lie below its operand without counting them as popped, QCTL answers the state word, the ordinal or the presence of the
head (at a control value, where the spec states none, two free bits: DESIGN CHOICE, log 35), sends an NEND to the neighbour on 3, waiting while its
queue is full, and reads the stream again on 4. A register with no binding raises Stream with sub-code 1 where one is needed.
R290, R304: in the core's own local memory QSAVE writes the 64 bytes of its stream's image and no other byte; QLOAD of an
image that names no stream ends the binding, and of one that names a pattern, fibre, combined or neighbour stream binds it where it stood; FCHK answers zero for a
sound tree and the report of the first entry that is not. -/
def Obligations.StreamsAnswerAndTheirImagesMove : Prop :=
  (∀ (s : State) (x : Ctx) (q : Fin 8) (d a : Reg) (la : Fin 16), s.ctx? s.cur = some x → x.windows = [] → x.out = [] → x.lat = [] →
     x.binding d = none → x.binding a = none →
     let opened (y : Ctx) : Ctx := if la ≠ 0 ∧ d ≠ 0 then
       { y with windows := y.windows ++ [{ dest := d, left := la.val, pc := y.pc, acc := y.icount + 1 }] } else y
     let done (i : Instr) (y : Ctx) : Prop := exec i s = .next (issued s x (opened y) (x.pc + 4))
     let n := (x.reg a).toNat
     (x.streams.get q = none →
       exec (.qcrd d q la) s = .next (s.takeFault s.cur x 12 (streamTval (.qcrd d q la) 1 q)) ∧
       exec (.qend d q la) s = .next (s.takeFault s.cur x 12 (streamTval (.qend d q la) 1 q)) ∧
       exec (.qskip q a) s = .next (s.takeFault s.cur x 12 (streamTval (.qskip q a) 1 q)) ∧
       (n ≤ 1 → done (.qctl d q a la) (x.setReg d 0))) ∧
     (4 < n → exec (.qctl d q a la) s = .next (s.takeFault s.cur x 2 (wordOf (.qctl d q a la)))) ∧
     ∀ t, x.streams.get q = some t →
       (t.kind = .patWrite → done (.qcrd d q la) (x.setReg d (wd t.ord))) ∧
       (n = 1 → done (.qctl d q a la) (x.setReg d (wd t.ord))) ∧
       (n = 0 → done (.qctl d q a la) (x.setReg d (wd (t.word0 + min 31 (if t.kind = .nbr then
         ((s.core s.cur.core).nbrq.get (dirIx t.dir)).length else t.buf.length) * 2 ^ 16)))) ∧
       (n = 3 → t.kind ≠ .nbr → exec (.qctl d q a la) s = .next (s.takeFault s.cur x 12 (streamTval (.qctl d q a la) 3 q))) ∧
       (n = 3 → t.kind = .nbr → x.task = none →
         (t.broken = true ∨ s.neighbour s.cur.core t.dir = none →
           exec (.qctl d q a la) s = .next (s.takeFault s.cur x 12 (streamTval (.qctl d q a la) 6 q))) ∧
         ∀ k, t.broken = false → s.neighbour s.cur.core t.dir = some k →
           (s.nbrCount k (dirOpp t.dir) < 16 → exec (.qctl d q a la) s =
             .next (issued (s.pushNbr s.cur.core k t.dir true 3) x (opened (x.setReg d 0)) (x.pc + 4))) ∧
           (16 ≤ s.nbrCount k (dirOpp t.dir) → exec (.qctl d q a la) s = .next s)) ∧
       (n = 4 → t.kind ≠ .nbr → t.kind ≠ .patWrite →
         done (.qctl d q a la) ((x.modStream q Stream.refetch).setReg d 0)) ∧
       ∀ e rest, t.kind ≠ .patWrite → t.kind ≠ .nbr → t.buf = e :: rest →
         (∀ w c p m k, e = .data w c p m k →
           done (.qcrd d q la) (x.setReg d (wd c)) ∧ done (.qend d q la) (x.setReg d 0) ∧
           (n = 2 → t.kind.isPair = true → done (.qctl d q a la) (x.setReg d (wd p)))) ∧
         (∀ w, e = .ctl w →
           done (.qcrd d q la) (x.setReg d (BitVec.allOnes 64)) ∧
           done (.qend d q la) ((x.modStream q Stream.pop).setReg d ((w &&& ~~~(7#64 <<< 8)) ||| wd (q.val * 256))) ∧
           (n = 2 → t.kind.isPair = true → ∃ v : Word, v.toNat < 4 ∧ exec (.qctl d q a la) s =
             .next (issued { s with fresh := s.fresh + 1 } x (opened (x.setReg d v)) (x.pc + 4)))) ∧
         ∀ low e' more, t.kind.isFibre = true → t.buf = low ++ e' :: more → low.length < 2 ^ 40 →
           (∀ z ∈ low, ∃ w c p m k, z = .data w c p m k ∧ c < n) → (∀ w c p m k, e' = .data w c p m k → n ≤ c) →
           exec (.qskip q a) s = .next (issued s x (x.modStream q fun _ => { t.popN low.length with ord := t.ord }) (x.pc + 4))) ∧
  (∀ (s u : State) (x : Ctx) (q : Fin 8) (d a : Reg) (la : Fin 16) (off : Nat), s.ctx? s.cur = some x → Quiet s s.cur x →
     Ready s x [a] → Unheld s x [streamReg q] →
     let va := (x.reg a).toNat
     (va % 64 = 0 → InOwnMemory s va off 64 → Settled s (.core s.cur.core) (s.storePa s.cur.core off) 64 →
       ∃ (t : State) (y : Ctx), exec (.qsave q a) s = .next t ∧
         t.mem = Memory.writeN s.mem (s.storePa s.cur.core off) (imageOf (x.streams.get q)) ∧
         t.ctx? s.cur = some y ∧ y.regs = x.regs ∧ y.streams = x.streams ∧ y.pc = x.pc + 4) ∧
     (∀ b, va % 64 = 0 → Reads (ctxRead s.cur x false va 64) s b u → imageOk b = true →
       (b.headD 0).toNat % 16 = 0 →
       exec (.qload q a) s = .next (issued u x (if (x.streams.get q).isSome then x.setStream q none else x) (x.pc + 4))) ∧
     (∀ b p, va % 64 = 0 → Reads (ctxRead s.cur x false va 64) s b u → imageOk b = true →
       (b.headD 0).toNat % 16 = (if p.wr then 2 else 1) → dword b 1 % 64 = 0 → ∀ b' v,
       Reads (ctxRead u.cur x false (dword b 1) 64) u b' v → patternOf b' = some p → RoomFor u x q .patRead →
       exec (.qload q a) s = .next (issued v x (x.setStream q (some (Stream.resume
         { newStream (if p.wr then .patWrite else .patRead) (dword b 1) with pat := p } b))) (x.pc + 4))) ∧
     (∀ b w v, va % 64 = 0 → Reads (ctxRead s.cur x false va 64) s b u → imageOk b = true → (b.headD 0).toNat % 16 = 3 →
       dword b 1 % 32 = 0 → let rd := ctxRead u.cur x false
       Reads (do readWalker rd true (← rd (dword b 1) 32)) u (some w) v → RoomFor u x q .fibre →
       exec (.qload q a) s = .next (issued v x (x.setStream q (some (Stream.resume
         { newStream .fibre (dword b 1) with wa := w } b))) (x.pc + 4))) ∧
     (∀ b m n v, va % 64 = 0 → Reads (ctxRead s.cur x false va 64) s b u → imageOk b = true →
       (b.headD 0).toNat % 16 = 4 ∨ (b.headD 0).toNat % 16 = 5 → dword b 1 % 64 = 0 →
       let rd := ctxRead u.cur x false
       let k : SKind := if (b.headD 0).toNat % 16 = 4 then .isect else .union
       Reads (do
         let e ← rd (dword b 1) 64
         let m ← readWalker rd true (e.take 32)
         let n ← readWalker rd true (e.drop 32)
         return (m, n)) u (some m, some n) v → RoomFor u x q k →
       exec (.qload q a) s = .next (issued v x (x.setStream q (some (Stream.resume
         { newStream k (dword b 1) with wa := m, wb := n } b))) (x.pc + 4))) ∧
     (∀ b dir n, va % 64 = 0 → Reads (ctxRead s.cur x false va 64) s b u → imageOk b = true → (b.headD 0).toNat % 16 = 6 →
       dir = dirOfNat (dword b 0 / 2 ^ 8 % 4) → u.neighbour u.cur.core dir = some n → RoomFor u x q .nbr →
       (∀ k ∈ slotsOf u.cur.core, k ≠ u.cur → ∀ y, u.ctx? k = some y → ∀ t ∈ y.streams.toList, ∀ b, t = some b →
         ¬(b.kind = .nbr ∧ b.dir = dir)) →
       exec (.qload q a) s = .next (issued u x (x.setStream q (some (Stream.resume { newStream .nbr 0 with dir := dir } b))) (x.pc + 4))) ∧
     (∀ b lv, Ready s x [a, d] → va % 32 = 0 → Reads (do
         let b ← ctxRead s.cur x false va 32
         let w ← readWalker (ctxRead s.cur x false) false b
         return (w, fld (wd (dword b 2)) 0 3)) s (none, lv) u → b = fchkReport 6 lv va →
       ∃ (t : State) (y : Ctx), exec (.fchk d a la) s = .next t ∧ t.ctx? u.cur = some y ∧ t.mem = u.mem ∧ (d ≠ 0 → y.reg d = wd b) ∧
         (∀ r, r ≠ d → y.reg r = x.reg r) ∧ y.pc = x.pc + 4) ∧
     ∀ w lv v res f, Ready s x [a, d] → va % 32 = 0 → Reads (do
         let b ← ctxRead s.cur x false va 32
         let w ← readWalker (ctxRead s.cur x false) false b
         return (w, fld (wd (dword b 2)) 0 3)) s (some w, lv) u →
       Reads ((fchkGo (ctxReadN s.cur x false) w.frec (w.frec.levels.length - w.level) w.level
         (if w.level = 0 then 0 else w.parent)).run.run { work := 0, counts := [], limit := none }) u (res, f) v →
       f.limit = none →
       ∃ (t : State) (y : Ctx), exec (.fchk d a la) s = .next t ∧ t.ctx? v.cur = some y ∧ t.mem = v.mem ∧
         (d ≠ 0 → y.reg d = match res with | .ok _ => 0 | .error r => wd r) ∧
         (∀ r, r ≠ d → y.reg r = x.reg r) ∧ y.pc = x.pc + 4)

/-! ### Contexts -/

namespace Sys2Proof.Claims
open Sys2Proof.Machine

/-- An instruction that writes a value to its destination and has no other effect. -/
def Answers (s : State) (x : Ctx) (i : Instr) (d : Reg) (v : Word) : Prop :=
  exec i s = .next (issued s x (x.setReg d v) (x.pc + 4))

/-- An exact fault of an instruction that has had no effect (R401). -/
def Raises (s : State) (x : Ctx) (i : Instr) (cause : Nat) (tval : Word) : Prop := exec i s = .next (s.takeFault s.cur x cause tval)

/-- The control context's helper slot `n`. -/
def helper (s : State) (n : Nat) : CtxId := { s.cur with slot := n }

/-- The instruction word with a value in its destination, in a state the instruction has changed outside the context. -/
def Leaves (s : State) (x : Ctx) (i : Instr) (d : Reg) (v : Word) (after : State) : Prop :=
  exec i s = .next (issued after x (x.setReg d v) (x.pc + 4))

end Sys2Proof.Claims

/-- R132, R133, R140: HSTART of a free slot with a 64-byte block whose PC is aligned answers 0 and starts a HELD context there at that
PC with s2 to s8 from the block, every other register zero, and the rounding mode, the stochastic key and the migration settings of the
control context; a slot in use answers 1 and a bad PC 8, and nothing starts. A slot number outside 1 to 10 raises Illegal, before HSTART in
another context than the control context raises Context. -/
def Obligations.HelperStartsFromItsBlock : Prop :=
  ∀ (s : State) (x : Ctx) (d a b : Reg), s.ctx? s.cur = some x → Ready s x [a, b, d] →
    let n := (x.reg a).toNat
    (n = 0 ∨ 10 < n → Raises s x (.hstart d a b) 2 (wordOf (.hstart d a b))) ∧
    (1 ≤ n → n ≤ 10 → s.cur.slot ≠ 0 → Raises s x (.hstart d a b) 10 (wordOf (.hstart d a b))) ∧
    ∀ (u : State) (blk : List Byte), x.out = [] → s.cur.slot = 0 → 1 ≤ n → n ≤ 10 → (x.reg b).toNat % 64 = 0 →
      Reads (ctxRead s.cur x false (x.reg b).toNat 64) s blk u → u.cur = s.cur →
      let h := helper s n
      ((u.slot h).state ≠ .free → Leaves s x (.hstart d a b) d 1 u) ∧
      ((u.slot h).state = .free → dword blk 0 % 4 ≠ 0 → Leaves s x (.hstart d a b) d 8 u) ∧
      ((u.slot h).state = .free → dword blk 0 % 4 = 0 → u.nbrLanded s.cur.core = true →
        ∃ (t : State) (y z : Ctx), exec (.hstart d a b) s = .next t ∧ t.ctx? s.cur = some y ∧ (d ≠ 0 → y.reg d = 0) ∧
          (∀ r, r ≠ d → y.reg r = x.reg r) ∧ y.pc = x.pc + 4 ∧ t.mem = u.mem ∧ (t.slot h).state = .held ∧ t.ctx? h = some z ∧
          z.pc = wd (dword blk 0) ∧ z.priv = .program ∧ z.kind = .held ∧ z.frm = x.frm ∧ z.srkey = x.srkey ∧ z.rah = x.rah ∧
          z.thresh = x.thresh ∧ z.grant = 0 ∧ (∀ p, z.streams.get p = none) ∧
          ∀ r : Reg, z.reg r = if 2 ≤ r.val ∧ r.val ≤ 8 then wd (dword blk (r.val - 1)) else 0)

/-- R134-R136, R140: HWAIT answers a slot's exit value once its context has ended, and waits before; HKILL sends a kill to a context
that runs, here or away, and answers 0, else 2; its self-exit form stops the context with its value; HSTAT answers the slot's state word, of slot 0
the word 8; HLEND lends the free slots of its mask and answers them, and HRECL takes back lent ones and answers every slot that is free after it.
They are the control context's alone and raise Context in another, but for the self-exit, which waits once a kill of its context is under way; a slot
number outside 1 to 10 (of HSTAT 0 to 10) and a mask bit outside 1 to 10 raise Illegal before that. -/
def Obligations.ControlContextManagesItsHelpers : Prop :=
  ∀ (s : State) (x : Ctx) (d a : Reg), s.ctx? s.cur = some x → Ready s x [a, d] →
    let n := (x.reg a).toNat
    let l := s.slot (helper s n)
    let inMask (m : Nat) : Bool := m != 0 && m < 11 && (x.reg a).getLsbD m
    let free (m : Nat) : Bool := inMask m && (s.slot (helper s m)).state == .free
    let bits (p : Nat → Bool) : Word := wd (((List.range 11).filter p).foldl (fun v m => v + 2 ^ m) 0)
    (s.cur.slot ≠ 0 → n ≤ 10 → (1 ≤ n → Raises s x (.hwait d a) 10 (wordOf (.hwait d a)) ∧
      Raises s x (.hkill d a) 10 (wordOf (.hkill d a))) ∧ Raises s x (.hstat d a) 10 (wordOf (.hstat d a))) ∧
    (n = 0 ∨ 10 < n → Raises s x (.hwait d a) 2 (wordOf (.hwait d a)) ∧ Raises s x (.hkill d a) 2 (wordOf (.hkill d a))) ∧
    (10 < n → Raises s x (.hstat d a) 2 (wordOf (.hstat d a))) ∧
    (x.reg a &&& ~~~(0x7FE#64) ≠ 0 → Raises s x (.hlend d a) 2 (wordOf (.hlend d a)) ∧ Raises s x (.hrecl d a) 2 (wordOf (.hrecl d a))) ∧
    (x.reg a &&& ~~~(0x7FE#64) = 0 → s.cur.slot ≠ 0 →
      Raises s x (.hlend d a) 10 (wordOf (.hlend d a)) ∧ Raises s x (.hrecl d a) 10 (wordOf (.hrecl d a))) ∧
    (s.cur.slot = 0 → n = 0 → Answers s x (.hstat d a) d 8) ∧
    (s.cur.slot = 0 → 1 ≤ n → n ≤ 10 →
      (l.state ≠ .held → l.state ≠ .away → l.state ≠ .recall → Answers s x (.hwait d a) d l.exitVal) ∧
      (l.state = .held ∨ l.state = .away ∨ l.state = .recall → exec (.hwait d a) s = .next s) ∧
      (l.state ≠ .held → l.state ≠ .away → Answers s x (.hkill d a) d 2) ∧
      (s.stopping (helper s n) = true → Answers s x (.hkill d a) d 2) ∧
      (l.state = .held ∨ l.state = .away → s.stopping (helper s n) = false → Leaves s x (.hkill d a) d 0
        ((s.modSlot (helper s n) fun l => { l with killSent := true }).send s.cur.core.part 2 (.core s.cur.core)
          (.core (if l.state = .away then { s.cur.core with pkg := l.awayPkg, vc := l.awayVc } else s.cur.core)) 0
          (.kill (helper s n) s.cur.core.pkg s.cur.core.vc n))) ∧
      Answers s x (.hstat d a) d (wd ((if l.state = .away then l.awayPkg * 2 ^ 20 + l.awayVc * 2 ^ 9 else 0) + l.exitHow * 2 ^ 7 +
        (match l.ctx with
          | some y => (if y.pin then 2 ^ 6 else 0) + (if y.light then 2 ^ 5 else 0) + (if y.parked.isSome then 2 ^ 4 else 0)
          | none => 0) + l.state.code))) ∧
    (s.cur.slot = 0 → x.reg a &&& ~~~(0x7FE#64) = 0 →
      (∃ (t : State) (y : Ctx), exec (.hlend d a) s = .next t ∧ t.ctx? s.cur = some y ∧ (d ≠ 0 → y.reg d = bits free) ∧ y.pc = x.pc + 4 ∧
        ∀ m < 11, (t.slot (helper s m)).state = if free m then .lent else (s.slot (helper s m)).state) ∧
      ∃ (t : State) (y : Ctx), exec (.hrecl d a) s = .next t ∧ t.ctx? s.cur = some y ∧ y.pc = x.pc + 4 ∧
        (∀ m < 11, (t.slot (helper s m)).state =
          if inMask m && (s.slot (helper s m)).state == .lent then (if s.holdsTask (helper s m) then .recall else .free)
          else (s.slot (helper s m)).state) ∧
        (d ≠ 0 → y.reg d = bits fun m => m != 0 && (t.slot (helper s m)).state == .free)) ∧
    (∀ b e, Ready s x [b] → (e ≠ 0 → Raises s x (.hkillSelf e b) 2 (wordOf (.hkillSelf e b))) ∧
      (x.kind = .control ∨ x.kind = .lent → Raises s x (.hkillSelf 0 b) 10 (wordOf (.hkillSelf 0 b)))) ∧
    (x.kind = .held ∨ x.kind = .guest → ∀ b, Ready s x [b] →
      ((s.slot (x.originCtx s.cur.core.part)).killSent = true → exec (.hkillSelf 0 b) s = .next s) ∧
      ((s.slot (x.originCtx s.cur.core.part)).killSent = false → exec (.hkillSelf 0 b) s = .next (issued s x { x with leaving := some { value := x.reg b, how := 1 } } (x.pc + 4))))

/-- R119, R137, R139, R140, R127: SELF answers the identity; YIELD stands the context back; PIN and UNPIN write PIN and answer its old value;
PARK answers 1 and clears a wake that stands, answers how a finished park ended, and else parks, with a time where its operand is
not 0; in a lent context it raises Context. WAKE of the context itself keeps the wake, and of another sends it to its origin.
R21: there is no context 11 to 15, and WAKE of one raises Illegal: the model's reading (log 41). A core that is not of the partition has no context to
wake, and WAKE of one has no effect: the model's reading too (log 41).
R166, R175: in a speculative task WAKE is queued for the task's commit; a ninth action waits, and its task remembers that. -/
def Obligations.ContextsYieldPinParkAndWake : Prop :=
  ∀ (s : State) (x : Ctx) (d a : Reg), s.ctx? s.cur = some x → Ready s x [a, d] →
    let v := x.reg a
    Answers s x (.self d) d (wd (x.kind.code * 2 ^ 48 + s.cur.core.pkg * 2 ^ 39 + s.cur.core.vc * 2 ^ 28 + s.cur.slot * 2 ^ 24 +
      (x.opkg * 2 ^ 15 + x.ovc * 2 ^ 4 + x.oslot))) ∧
    exec .yield s = .next (issued s x { x with yielded := true } (x.pc + 4)) ∧
    exec (.pin d) s = .next (issued s x ({ x with pin := true }.setReg d (if x.pin then 1 else 0)) (x.pc + 4)) ∧
    exec (.unpin d) s = .next (issued s x ({ x with pin := false }.setReg d (if x.pin then 1 else 0)) (x.pc + 4)) ∧
    (x.kind = .lent → Raises s x (.park d a) 10 (wordOf (.park d a))) ∧
    (x.kind ≠ .lent → x.parkDone = none → x.wakep = true →
      exec (.park d a) s = .next (issued s x ({ x with wakep := false }.setReg d 1) (x.pc + 4))) ∧
    (∀ woken, x.kind ≠ .lent → x.parkDone = some woken →
      exec (.park d a) s = .next (issued s x ({ x with parkDone := none }.setReg d (if woken then 1 else 0)) (x.pc + 4))) ∧
    (x.kind ≠ .lent → x.parkDone = none → x.wakep = false →
      exec (.park d a) s = .next (s.putCtx s.cur { x with
        parked := some (if v = 0 then none else some (s.clock + v.toNat * 4)) })) ∧
    (10 < v.toNat % 16 → Raises s x (.wake a) 2 (wordOf (.wake a))) ∧
    (v.toNat % 16 ≤ 10 → x.task = none → v.toNat % 2 ^ 21 = x.origin →
      exec (.wake a) s = .next (issued s x { x with wakep := true } (x.pc + 4))) ∧
    (v.toNat % 16 ≤ 10 → x.task = none → v.toNat % 2 ^ 21 ≠ x.origin →
      let o : CtxId := { core := { part := s.cur.core.part, pkg := v.toNat / 2 ^ 15 % 2 ^ 6, vc := v.toNat / 2 ^ 4 % 2 ^ 11 }
                         slot := v.toNat % 16 }
      exec (.wake a) s = .next (issued (if s.hasCore o.core then s.send s.cur.core.part 2 (.core s.cur.core) (.core o.core) 0
        (.wake o o.core.pkg o.core.vc o.slot s.cur) else s) x x (x.pc + 4))) ∧
    ∀ t, v.toNat % 16 ≤ 10 → s.task? s.cur.core.part x.task = some t → t.settled = false →
      (t.actions.length < 8 → exec (.wake a) s = .next (issued (s.modTask s.cur.core.part t.id fun t =>
        { t with actions := t.actions ++ [(s.nextId, .wake v)] }) x x (x.pc + 4))) ∧
      (8 ≤ t.actions.length → exec (.wake a) s = .next (s.modTask s.cur.core.part t.id fun t => { t with waitedOp := true }))

/-- R121, R122, R138: MIGR answers 4 in a context that is not light, 6 in one of another kind or in a handler, 5 in a pinned one, 7 where
the address has no home core, 3 at home; a movable context begins its migration to the home core and completes with 0 in its
destination once it departs, and answers 1 when its attempt was refused. -/
def Obligations.MigrateMovesALightContext : Prop :=
  ∀ (s u : State) (x : Ctx) (d a : Reg) (l : Loc), s.ctx? s.cur = some x → Ready s x [a, d] →
    let i := Instr.migr d a
    (x.moving.isSome = true → exec i s = .next (issued s x ({ x with moving := none }.setReg d 1) (x.pc + 4))) ∧
    (x.moving = none →
      (x.light = false → Answers s x i d 4) ∧
      (x.light = true → ¬(x.kind = .held ∨ x.kind = .guest) ∨ x.inh = true → Answers s x i d 6) ∧
      (x.light = true → (x.kind = .held ∨ x.kind = .guest) → x.inh = false → x.pin = true → Answers s x i d 5) ∧
      (x.movable = true →
        s.resolve s.cur.core (.data s.cur.core) (some (.ctx s.cur x.icount)) .none_ x.priv (x.reg a).toNat 1 = (.ok l, u) →
        (l.homeCore = none → Leaves s x i d 7 u) ∧
        (l.homeCore = some u.cur.core → Leaves s x i d 3 u) ∧
        ∀ h, l.homeCore = some h → h ≠ u.cur.core → exec i s = .next (u.startMove u.cur x h (some d)) ∧
          ∃ y m, (u.startMove u.cur x h (some d)).ctx? u.cur = some y ∧ y.moving = some m ∧ m.target = h ∧ m.dest = some d))

/-! ### Tasks -/

namespace Sys2Proof.Claims
open Sys2Proof.Machine

/-- The task a context runs. -/
def taskOf (s : State) (x : Ctx) : Option Task := s.task? s.cur.core.part x.task

/-- An enqueue that succeeded (R146, R171): the destination reads 0, one task more stands in the partition with the PC, chain, arguments
and parent the rule gives, and its record is on its way to a task unit of the partition. -/
def Enqueued (s u : State) (x : Ctx) (i : Instr) (d : Reg) (pc ts hint : Nat) (args : List Word) : Prop :=
  ∃ (t : State) (y : Ctx) (k : Packet) (n : Task), exec i s = .next t ∧ t.ctx? u.cur = some y ∧ (d ≠ 0 → y.reg d = 0) ∧ (∀ r, r ≠ d → y.reg r = x.reg r) ∧
    y.pc = x.pc + 4 ∧ t.mem = u.mem ∧ (t.part u.cur.core.part).tasks = (u.part u.cur.core.part).tasks ++ [n] ∧
    n.pc = wd pc ∧ n.hint = wd hint ∧ n.args = args ∧ n.st = .sent ∧ n.settled = false ∧ n.tagNs = u.gtime ∧
    n.chain = (match taskOf u x with | none => [ts] | some p => p.chain.take (p.edepth - 1) ++ [ts]) ∧
    n.parent = (taskOf u x).map (·.id) ∧ n.readyAt = u.gtime + 10 ∧
    k ∈ t.net ∧ k.msg = .task n.id n.clu ∧ k.dst = .task n.clu ∧ (hint = 0 → n.clu = u.cur.core.clu ∧ n.target = none)

/-- What an enqueue waits for: a context that runs no task has drained (R171), and the record can be sent (R377). -/
def CanEnqueue (u : State) (x : Ctx) : Prop :=
  (taskOf u x = none → x.out = [] ∧ u.nbrLanded u.cur.core = true) ∧
  u.keptBytes (.core u.cur.core) + 128 ≤ 65536

end Sys2Proof.Claims

/-- R171, R172: TENQ takes its PC and timestamp from its operands, its arguments from s4 to s7 and its hint from s8; TENQD takes them
from a block of 64 bytes. A PC that is not aligned answers 3, a timestamp below the floor 2, a full pool 1, a block whose last doubleword
is not 0 4, and nothing is enqueued; else the task is sent and 0 answered.
R149: a hint of 0 names the context's own cluster, another the cluster of the core it selects. R151: a task may be dispatched 10 ns after its enqueue;
that this is so whatever the cluster, without the hops of the way there, is the model's choice (log 69). -/
def Obligations.TasksAreEnqueued : Prop :=
  (∀ (s : State) (x : Ctx) (d a b : Reg), s.ctx? s.cur = some x → Ready s x [a, b, d] → Unheld s x [4, 5, 6, 7, 8] →
    let i := Instr.tenq d a b
    let q := s.part s.cur.core.part
    let pc := (x.reg a).toNat
    let ts := (x.reg b).toNat
    (pc % 4 ≠ 0 → Answers s x i d 3) ∧
    (pc % 4 = 0 → ts < enqFloor q (taskOf s x) → Answers s x i d 2) ∧
    (pc % 4 = 0 → enqFloor q (taskOf s x) ≤ ts → q.tasks.length = q.tcfg.pool → Answers s x i d 1) ∧
    (pc % 4 = 0 → enqFloor q (taskOf s x) ≤ ts → q.tasks.length ≠ q.tcfg.pool → x.reg 8 = 0 → CanEnqueue s x →
      Enqueued s s x i d pc ts 0 [x.reg 4, x.reg 5, x.reg 6, x.reg 7]) ∧
    (pc % 4 = 0 → enqFloor q (taskOf s x) ≤ ts → q.tasks.length ≠ q.tcfg.pool → x.reg 8 ≠ 0 → CanEnqueue s x →
      ∀ h v, (hintCore (x.reg 8).toNat).run (start s x) = .ok (h, { start s x with st := v }) → CanEnqueue v x → v.cur = s.cur →
      v.parts = s.parts → v.clock = s.clock →
      Enqueued s v x i d pc ts (x.reg 8).toNat [x.reg 4, x.reg 5, x.reg 6, x.reg 7])) ∧
  ∀ (s u : State) (x : Ctx) (d a : Reg) (blk : List Byte), s.ctx? s.cur = some x → Ready s x [a, d] → (x.reg a).toNat % 64 = 0 →
    Reads (ctxRead s.cur x false (x.reg a).toNat 64) s blk u →
    let i := Instr.tenqd d a
    let q := u.part u.cur.core.part
    (dword blk 7 ≠ 0 → Leaves s x i d 4 u) ∧
    (dword blk 7 = 0 → dword blk 0 % 4 ≠ 0 → Leaves s x i d 3 u) ∧
    (dword blk 7 = 0 → dword blk 0 % 4 = 0 → dword blk 1 < enqFloor q (taskOf u x) → Leaves s x i d 2 u) ∧
    (dword blk 7 = 0 → dword blk 0 % 4 = 0 → enqFloor q (taskOf u x) ≤ dword blk 1 → q.tasks.length = q.tcfg.pool → Leaves s x i d 1 u) ∧
    (dword blk 7 = 0 → dword blk 0 % 4 = 0 → enqFloor q (taskOf u x) ≤ dword blk 1 → q.tasks.length ≠ q.tcfg.pool →
      dword blk 2 = 0 → CanEnqueue u x →
      Enqueued s u x i d (dword blk 0) (dword blk 1) 0 [wd (dword blk 3), wd (dword blk 4), wd (dword blk 5), wd (dword blk 6)]) ∧
    (dword blk 7 = 0 → dword blk 0 % 4 = 0 → enqFloor q (taskOf u x) ≤ dword blk 1 → q.tasks.length ≠ q.tcfg.pool →
      dword blk 2 ≠ 0 → CanEnqueue u x →
      ∀ h v, (hintCore (dword blk 2)).run { start s x with st := u } = .ok (h, { start s x with st := v }) → CanEnqueue v x → v.cur = u.cur →
      v.parts = u.parts → v.clock = u.clock →
      Enqueued s v x i d (dword blk 0) (dword blk 1) (dword blk 2) [wd (dword blk 3), wd (dword blk 4), wd (dword blk 5), wd (dword blk 6)])

/-- R164, R173-R175: TDONE of a settled task commits it and empties its slot, of a speculative one leaves it finished for its round; where its cluster
holds 512 finished tasks, the one of them and of the task itself that all the others precede is aborted first. TSETTLE goes on once its context is not speculative and waits before; TABORT waits for the accesses of its task and aborts it, to run again or
for good, where no abort it brings must wait; each of TDONE and TABORT
raises Context outside a task, TABORT also in a settled task that can no longer be undone.
R162: the commit of a task takes it from its partition, and the partition's timestamp floor does not fall; it leaves every other task as it was, but
those that its queued stores abort.
R158, R159: TDONE of a settled task stops the tasks its queued stores will abort, and waits, while accesses of theirs are under way. -/
def Obligations.TasksEndSettleCommitAndAbort : Prop :=
  (∀ (s : State) (x : Ctx) (a : Reg), s.ctx? s.cur = some x → Ready s x [a] →
     let p := s.cur.core.part
     (taskOf s x = none → Raises s x .tdone 10 (wordOf .tdone) ∧ Raises s x (.tabort a) 10 (wordOf (.tabort a)) ∧
       exec .tsettle s = .next (issued s x x (x.pc + 4))) ∧
     ∀ t, taskOf s x = some t →
       (s.quiet s.cur x = true → t.settled = true → exec .tdone s = .next (if s.defersMeet p t = [] then (s.clearTaskSlot s.cur).commit p t.id
         else s.stopAll p (s.defersMeet p t))) ∧
       (∀ last, s.quiet s.cur x = true → t.settled = false → 512 ≤ ((s.part p).commitEntries t.clu).length →
         (last = t ∨ last ∈ (s.part p).commitEntries t.clu) → last = ((s.part p).commitEntries t.clu).foldl (fun m u => if m.precedes u then u else m) t →
         (s.mayAbort p last.id = false → exec .tdone s = .next (s.stopTask .capacity true p last.id)) ∧
         (s.mayAbort p last.id = true → last.id = t.id → exec .tdone s = .next (s.abort .capacity false p t.id)) ∧
         (s.mayAbort p last.id = true → ∀ y, (s.abort .capacity false p last.id).task? p (some t.id) = some y → y.st = .running → y.place = some s.cur →
           exec .tdone s = .next (((s.abort .capacity false p last.id).clearTaskSlot s.cur).modTask p t.id fun t => { t with st := .finished }))) ∧
       (s.quiet s.cur x = true → t.settled = false → ((s.part p).commitEntries t.clu).length < 512 → t.st = .running →
         t.place = some s.cur →
         exec .tdone s = .next ((s.clearTaskSlot s.cur).modTask p t.id fun t => { t with st := .finished })) ∧
       (s.quiet s.cur x = false → exec .tdone s = .next s) ∧
       (t.settled = true → exec .tsettle s = .next (issued s x x (x.pc + 4))) ∧
       (t.settled = false → exec .tsettle s = .next s) ∧
       (t.settled = true → t.unlogged = true ∨ t.waitedOp = true → Raises s x (.tabort a) 10 (wordOf (.tabort a))) ∧
       (t.settled = false ∨ (t.unlogged = false ∧ t.waitedOp = false) → s.taskBusy p t = true → exec (.tabort a) s = .next s) ∧
       (t.settled = false ∨ (t.unlogged = false ∧ t.waitedOp = false) → s.taskBusy p t = false → s.mayAbort p t.id = true →
         exec (.tabort a) s = .next ((s.abort .own (x.reg a != 0) p t.id).bump t.clu 3 1))) ∧
  (∀ (s : State) (p id : Nat) (t : Task), s.task? p (some id) = some t →
     (∀ u ∈ ((s.commit p id).part p).tasks, u.id ≠ id) ∧
     ((∀ a ∈ t.actions, ∀ va pa h pg v, a.2 ≠ .defer va pa h pg v) → ((s.commit p id).part p).tasks = (s.part p).tasks.filter fun u => u.id != id) ∧
     (s.part p).floor ≤ ((s.commit p id).part p).floor ∧ t.chain.headD 0 ≤ ((s.commit p id).part p).floor)

/-- R176-R179: TSRD answers the task's timestamp, depths, chain and state, the partition's and the cluster's counts, and raises Illegal for a
number the table lacks; TGVT answers the partition's GVT, all ones where there is none; TNEST and TLEAVE move the enqueue depth by
one within its bounds and answer 0, else 5 and 6; TDEFER queues its store in a speculative task and stores at once otherwise. -/
def Obligations.TaskStateIsReadAndMoved : Prop :=
  ∀ (s : State) (x : Ctx) (d a b : Reg), s.ctx? s.cur = some x → Ready s x [a, b, d] →
    let p := s.cur.core.part
    let n := (x.reg a).toNat
    let u := s.cur.core.clu
    (n = 7 ∨ 25 < n → Raises s x (.tsrd d a) 2 (wordOf (.tsrd d a))) ∧
    (taskOf s x = none → n ≤ 6 → Answers s x (.tsrd d a) d (if n = 2 then 1 else if n = 4 then wd (s.part p).tasks.length else 0)) ∧
    (∀ t, taskOf s x = some t → n ≤ 15 → n ≠ 7 →
      Answers s x (.tsrd d a) d (wd (if n = 0 then t.chain.getLastD 0 else if n = 1 then t.chain.length else if n = 2 then t.edepth
        else if n = 3 then (if t.settled then 0 else 1) else if n = 4 then (s.part p).tasks.length
        else if n = 5 then t.actions.length else if n = 6 then (if t.unlogged then 1 else 0) else t.chain.getD (n - 8) 0))) ∧
    (16 ≤ n → n ≤ 25 → Answers s x (.tsrd d a) d (wd (if n ≤ 22 then (s.cluster u).counters.getD (n - 16) 0
      else if n = 23 then (s.part p).heldEntries u else if n = 24 then ((s.part p).commitEntries u).length
      else (s.cluster u).counters.getD 7 0))) ∧
    (exec (.tgvt d) s = .next (issued s x (({ x.refetchAll with ldAfterLd := x.accCtr, stAfterLd := x.accCtr } : Ctx).setReg d
      (match (s.part p).gvt with | some g => wd g | none => BitVec.allOnes 64)) (x.pc + 4))) ∧
    (taskOf s x = none → Raises s x (.tnest d) 10 (wordOf (.tnest d)) ∧ Raises s x (.tleave d) 10 (wordOf (.tleave d))) ∧
    (∀ t, taskOf s x = some t →
      (t.edepth < 8 → t.edepth ≤ t.chain.length → Leaves s x (.tnest d) d 0 (s.modTask p t.id fun t => { t with edepth := t.edepth + 1 })) ∧
      (¬(t.edepth < 8 ∧ t.edepth ≤ t.chain.length) → Answers s x (.tnest d) d 5) ∧
      (1 < t.edepth → t.chain.length ≤ t.edepth → Leaves s x (.tleave d) d 0 (s.modTask p t.id fun t => { t with edepth := t.edepth - 1 })) ∧
      (¬(1 < t.edepth ∧ t.chain.length ≤ t.edepth) → Answers s x (.tleave d) d 6)) ∧
    ∀ l v, n % 8 = 0 →
      s.resolve s.cur.core (.data s.cur.core) (some (.ctx s.cur x.icount)) .write x.priv n 8 = (.ok l, v) → v.cur = s.cur → v.parts = s.parts →
      (∀ t, taskOf s x = some t → t.settled = false → t.actions.length < 8 →
        exec (.tdefer a b) s = .next (issued (v.modTask p t.id fun t =>
          { t with actions := t.actions ++ [(v.nextId, .defer l.va l.pa l.home l.page (x.reg b))] }) x x (x.pc + 4))) ∧
      (Quiet v s.cur x → l.home = .core s.cur.core → l.repl = none → Stays x s.cur.core l → Settled v l.home l.pa 8 →
        v.holders s.cur.core l.pa 8 = [] → Memory.wf v.mem = true →
        ∃ (t : State) (y : Ctx), exec (.tdefer a b) s = .next t ∧ OnlyBytes v.mem t.mem l.pa 8 (x.reg b).toNat ∧ t.ctx? s.cur = some y ∧
          y.regs = x.regs ∧ y.pc = x.pc + 4)

/-! ### The matrix unit -/

namespace Sys2Proof.Claims
open Sys2Proof.Machine

/-- The state word of MXSTAT (R324): commands pushed, the first refusal's sequence, refusals, its reason, commands in the queue. -/
def mxWord (x : Ctx) : Word :=
  wd (x.mxPushed * 2 ^ 32 + (if x.mxRefCnt = 0 then 0 else x.mxRefSeq) * 2 ^ 16 + x.mxRefCnt * 2 ^ 12 + x.mxReason * 2 ^ 8 + x.mxOut)

/-- An acquire: later accesses wait for the loads before it, and the streams are read again (R229, R275). -/
def acquired (x : Ctx) : Ctx := { x.refetchAll with ldAfterLd := x.accCtr, stAfterLd := x.accCtr }

/-- The head of a core's matrix queue is a command of a kind, well formed and of a slot that owns what it names (R311, R312), and its partition runs
on the core's chip (R328, R428). -/
def HeadIs (s : State) (c : CoreId) (q : MxCmd) (rest : List MxCmd) (k : MxKind) : Prop :=
  (s.core c).mxq = q :: rest ∧ q.kind = some k ∧ q.fieldsOk k = true ∧ q.owned = true ∧ (s.part c.part).onChip c.pkg = true

/-- The step took the head away and counted it out of its context's commands. -/
def Retired (s t : State) (c : CoreId) (q : MxCmd) (rest : List MxCmd) : Prop :=
  (t.core c).mxq = rest ∧ ∀ x, s.ctx? { core := c, slot := q.slot } = some x →
    t.ctx? { core := c, slot := q.slot } = some { x with mxOut := x.mxOut - 1 }

/-- A command may read or write a range of its core's local memory now (R186, R195, R196, R312). -/
def RangeFree (s : State) (c : CoreId) (off n : Nat) : Prop :=
  off + n ≤ s.l2Base c ∧ s.logCore c < 2048 ∧ (s.part c.part).tasks = [] ∧ s.boardHeld (.core c) (s.storePa c off) n = false ∧
  s.writeUnderWay (s.storePa c off) n = false ∧ s.poisoned (s.storePa c off) n = false

/-- The bytes of a core's store from an offset. -/
def storeBytes (s : State) (c : CoreId) (off n : Nat) : List Byte := Memory.readN s.mem (s.storePa c off) n

/-- A tile of 256 FP32 words read from 1,024 bytes, nothing of it poisoned and no flag raised. -/
def loadedTile (bs : List Byte) : Tile :=
  { words := (List.range 256).map fun e => BitVec.ofNat 32 (leNat ((bs.drop (4 * e)).take 4)), flags := 0, marks := [], bad := false }

/-- A tile of 256 words of FP16 or BF16, widened (R318, R76). -/
def widenedTile (f : FFmt) (bs : List Byte) : Tile :=
  let es := (List.range 256).map fun e => fp32.conv rneMode (f.dec (leNat ((bs.drop (2 * e)).take 2)))
  { words := es.map fun e => BitVec.ofNat 32 e.1, flags := orFlags (es.map (·.2))
    marks := (List.range 256).filter fun e => (es.getD e (0, 0)).2 != 0, bad := false }

end Sys2Proof.Claims

/-- R310, R324, R227: a VST of 64 bytes to the queue's address pushes them as a command, with the rounding mode and key of its context; MXWAIT answers
the state word once every command of the context has left the queue, and waits before, MXSTAT at once, clearing the refusals where asked, and MXSPC
the places free. A control word of MXSTAT above 1 raises Illegal.
R230, R322: MXWAIT covers what its context's ACCST commands wrote, on every core of the partition: reads issued after it find it as memory holds it.
That MXSTAT covers nothing is the model's choice (log 25). -/
def Obligations.MatrixCommandsArePushedAndCounted : Prop :=
  ∀ (s : State) (x : Ctx) (d a b : Reg) (vd : VReg) (t : VType), s.ctx? s.cur = some x → Ready s x [a, b, d] →
    let k := s.core s.cur.core
    (x.reg a + x.reg b = 0x00FE000000100000 → Granted s x [vd.val] → x.task = none → x.out = [] → k.mxq.length < 16 →
      s.nbrLanded s.cur.core = true →
      ∃ (u : State) (y : Ctx) (q : MxCmd), exec (.vst vd a b t) s = .next u ∧ (u.core s.cur.core).mxq = k.mxq ++ [q] ∧ u.mem = s.mem ∧
        q.bytes = toBytes (x.vec vd.val).toNat 64 ∧ q.slot = s.cur.slot ∧ q.frm = x.frm.toNat ∧ q.srkey = x.srkey ∧
        u.ctx? s.cur = some y ∧ y.mxPushed = (x.mxPushed + 1) % 2 ^ 16 ∧ y.mxOut = x.mxOut + 1 ∧ y.regs = x.regs ∧
        y.pc = x.pc + 4) ∧
    (x.mxOut = 0 → exec (.mxwait d) s = .next (issued
      (s.covered x) x ((acquired x).setReg d (mxWord x)) (x.pc + 4))) ∧
    ((s.covered x).mem = s.mem ∧ ∀ c, coreOfKey c.key = c → c.part = s.cur.core.part → ∀ e ∈ ((s.covered x).core c).early, e.1 ≠ x.owner) ∧
    (x.mxOut ≠ 0 → exec (.mxwait d) s = .next s) ∧
    (2 ≤ (x.reg a).toNat → Raises s x (.mxstat d a) 2 (wordOf (.mxstat d a))) ∧
    (x.reg a = 0 → exec (.mxstat d a) s =
      .next (issued s x ((if x.mxOut = 0 then acquired x else x).setReg d (mxWord x)) (x.pc + 4))) ∧
    (x.reg a = 1 → exec (.mxstat d a) s =
      .next (issued s x (({ (if x.mxOut = 0 then acquired x else x) with mxRefSeq := 0, mxReason := 0, mxRefCnt := 0 } : Ctx).setReg d
        (mxWord x)) (x.pc + 4))) ∧
    Answers s x (.mxspc d) d (wd (16 - k.mxq.length))

/-- R311, R312, R316-R321: the head of a core's queue takes effect: ACCZ clears its tile; ACCLD loads it with the words read, FP16 and BF16 widened to FP32;
ACCST writes the tile and its status; RINGDEF defines a ring or appends to it; QFENCE writes its doubleword; MMA multiplies the slots
at its rings' heads into its tile and moves each ring on unless told not to. No other tile or ring, and no other byte of memory,
changes.
R312: a command of a kind that does not exist is refused with 2, one whose fields are out of range with 8, one of a slot that does not own
what it names with 1; a refusal changes no tile, ring or byte, leaves the queue, and its context remembers the first and counts all
up to 15.
R328, R428: the commands of a partition that is not in a slice on the core's chip wait. -/
def Obligations.MatrixCommandsTakeEffectOrAreRefused : Prop :=
  (∀ (s : State) (c : CoreId) (q : MxCmd) (rest : List MxCmd),
     let k := s.core c
     let tile := k.tiles.get q.tile
     let off := fld (q.dw 1) 0 20
     (HeadIs s c q rest .accz → ∃ t, exec (.accz c) s = .next t ∧ Retired s t c q rest ∧ t.mem = s.mem ∧
       (t.core c).tiles = k.tiles.set q.tile Tile.zero ∧ (t.core c).rings = k.rings) ∧
     (HeadIs s c q rest .accld → off % 64 = 0 → q.f0 24 5 = 0 ∨ q.f0 24 5 = 3 → RangeFree s c off 1024 →
       ∃ t, exec (.accld c) s = .next t ∧ Retired s t c q rest ∧ t.mem = s.mem ∧ (t.core c).rings = k.rings ∧
         (t.core c).tiles = k.tiles.set q.tile (loadedTile (storeBytes s c off 1024))) ∧
     (HeadIs s c q rest .accld → off % 64 = 0 → q.f0 24 5 = 1 ∨ q.f0 24 5 = 2 → RangeFree s c off 512 →
       ∃ t, exec (.accld c) s = .next t ∧ Retired s t c q rest ∧ t.mem = s.mem ∧ (t.core c).rings = k.rings ∧
         (t.core c).tiles = k.tiles.set q.tile (widenedTile (if q.f0 24 5 = 1 then fp16 else bf16) (storeBytes s c off 512))) ∧
     (∀ f, HeadIs s c q rest .accst → fmtOfNat (q.f0 24 5) = some f → q.f0 32 3 ≠ 5 → q.f0 32 3 ≠ 6 → off % 64 = 0 →
       RangeFree s c off (tileBytes f + 8) → tile.bad = false → q.stores = [] →
       ∃ t, exec (.accst c) s = .next t ∧ Retired s t c q rest ∧ (t.core c).tiles = k.tiles ∧ (t.core c).rings = k.rings ∧
         t.mem = Memory.writeN s.mem (s.storePa c off) (accstBytes tile f (q.f0 36 1 == 1)
           (if q.f0 32 3 = 7 then q.frm else q.f0 32 3) (fld (q.dw 2) 0 32) q.srkey)) ∧
     (HeadIs s c q rest .define → off % 64 = 0 → off + fld (q.dw 2) 0 16 * fld (q.dw 2) 32 9 ≤ s.l2Base c →
       ∃ t, exec (.ringdefDefine c) s = .next t ∧ Retired s t c q rest ∧ t.mem = s.mem ∧ (t.core c).tiles = k.tiles ∧
         (t.core c).rings = k.rings.set q.ra { defd := true, fill := 0, head := 0, count := fld (q.dw 2) 32 9
                                               slot := fld (q.dw 2) 0 16 / 64, base := off }) ∧
     (let r := k.rings.get q.ra
      let n := fld (q.dw 1) 0 9
      HeadIs s c q rest .append → r.defd = true → s.ringLocal c r = true → r.fill + n ≤ r.count →
       ∃ t, exec (.ringdefAppend c) s = .next t ∧ Retired s t c q rest ∧ t.mem = s.mem ∧ (t.core c).tiles = k.tiles ∧
         (t.core c).rings = k.rings.set q.ra { r with fill := r.fill + n }) ∧
     (HeadIs s c q rest .qfence → off % 8 = 0 → RangeFree s c off 8 →
       ∃ t, exec (.qfence c) s = .next t ∧ Retired s t c q rest ∧ (t.core c).tiles = k.tiles ∧ (t.core c).rings = k.rings ∧
         t.mem = Memory.writeN s.mem (s.storePa c off) (toBytes (q.dw 2).toNat 8)) ∧
     ∀ fa fb, HeadIs s c q rest .mma → mxFmt (q.f0 24 5) = some fa → mxFmt (q.f0 32 5) = some fb →
       let ra := k.rings.get q.ra
       let rb := k.rings.get q.rb
       let n := q.f0 40 6 + 1
       let ovw := q.f0 20 1 == 1
       pairOk fa fb = true → ra.defd = true → rb.defd = true → q.ra ≠ q.rb → slotLeast fa ≤ ra.slot * 64 → slotLeast fb ≤ rb.slot * 64 →
       s.ringLocal c ra = true → s.ringLocal c rb = true → n ≤ ra.fill → n ≤ rb.fill → (tile.bad = false ∨ ovw = true) → q.stores = [] →
       (∀ r ∈ ra.reads n ++ rb.reads n, RangeFree s c r.1 r.2) →
       ∃ t, exec (.mma c) s = .next t ∧ Retired s t c q rest ∧ t.mem = s.mem ∧
         (t.core c).tiles = k.tiles.set q.tile (mmaTile tile fa fb ovw ((ra.reads n).map fun r => storeBytes s c r.1 r.2)
           ((rb.reads n).map fun r => storeBytes s c r.1 r.2)) ∧
         (t.core c).rings.get q.ra = (if q.f0 21 1 = 0 then ra.advance n else ra) ∧
         (t.core c).rings.get q.rb = (if q.f0 22 1 = 0 then rb.advance n else rb) ∧
         ∀ r, r ≠ q.ra → r ≠ q.rb → (t.core c).rings.get r = k.rings.get r) ∧
  (∀ (s : State) (c : CoreId) (q : MxCmd) (rest : List MxCmd) (i : Instr) (k : MxKind),
     (s.core c).mxq = q :: rest → (s.part c.part).onChip c.pkg = true →
     [(MxKind.mma, Instr.mma c), (.accz, .accz c), (.accld, .accld c), (.accst, .accst c), (.define, .ringdefDefine c),
       (.append, .ringdefAppend c), (.qfence, .qfence c)].contains (k, i) →
     ∀ code, (code = 2 ∧ q.kind = none) ∨ (code = 8 ∧ q.kind = some k ∧ q.fieldsOk k = false) ∨
         (code = 1 ∧ q.kind = some k ∧ q.fieldsOk k = true ∧ q.owned = false) →
       ∃ t, exec i s = .next t ∧ (t.core c).mxq = rest ∧ (t.core c).tiles = (s.core c).tiles ∧ (t.core c).rings = (s.core c).rings ∧
         t.mem = s.mem ∧ ∀ x, s.ctx? { core := c, slot := q.slot } = some x → ∃ y, t.ctx? { core := c, slot := q.slot } = some y ∧
           y.mxOut = x.mxOut - 1 ∧ y.mxRefCnt = min 15 (x.mxRefCnt + 1) ∧
           y.mxReason = (if x.mxRefCnt = 0 then code else x.mxReason) ∧
           y.mxRefSeq = (if x.mxRefCnt = 0 then q.pushed else x.mxRefSeq) ∧ y.regs = x.regs) ∧
  ∀ (s : State) (c : CoreId) (i : Instr), (s.part c.part).onChip c.pkg = false →
    i ∈ [Instr.mma c, .accz c, .accld c, .accst c, .ringdefDefine c, .ringdefAppend c, .qfence c] → exec i s = .next s

/-! ### Engine jobs and publishing -/

namespace Sys2Proof.Claims
open Sys2Proof.Machine

/-- The state in which an operation that waits to settle goes on: its task, if it has one, remembers it (R166, R175). -/
def settledOp (s : State) (x : Ctx) : State :=
  match x.task with
  | none => s
  | some id => s.modTask s.cur.core.part id fun t => { t with waitedOp := true }

/-- What an instruction asks of an engine (R333, R345, R349, R351): its record's size, the kind of job, the completion word's address,
whether it takes shadows, and the checks of acceptance. -/
structure JobForm where
  d : Reg
  a : Reg
  size : Nat
  kind : List Byte → JobKind
  compl : List Byte → Nat
  shadow : List Byte → Bool
  judge : Job → WalkM M Job

def jobForm : Instr → Option JobForm
  | .cpy d a => some { d := d, a := a, size := 256, compl := fun b => dword b 11, shadow := fun b => (wd (dword b 2)).getLsbD 27
                       kind := fun b => match fld (wd (dword b 2)) 24 3 with
                         | 1 => .compress | 2 => .decompress | 3 => .gather | _ => .copy
                       judge := judgeCpy }
  | .embg d a => some { d := d, a := a, size := 128, compl := fun b => dword b 9, shadow := fun _ => false
                        kind := fun b => .embg (fld (wd (dword b 1)) 36 2), judge := judgeEmb }
  | .rmove d a => some { d := d, a := a, size := 64, compl := fun _ => 0, shadow := fun _ => false
                         kind := fun _ => .rmove, judge := judgeMove }
  | _ => none

/-- The job a record asks for, before it is judged (R329-R331): its tag, its engine, and what it takes from its context. -/
def draft (v : State) (x : Ctx) (f : JobForm) (va : Nat) (b : List Byte) : Job :=
  { id := v.nextId, tag := x.jobCtr, issuer := v.cur, pkg := v.logPkg v.cur.core.part v.cur.core.pkg, engine := v.engineOf v.cur.core
    kind := f.kind b, priv := x.priv, task := x.task, recVa := va, recBytes := b, mode := x.frm.toNat, srkey := x.srkey, seqJob := false
    compl := if f.compl b % 8 = 0 then f.compl b else 0, started := false, worked := false, pos := 0, flags := 0, count := 0
    fault := none, pages := [], touched := [], publish := none, old := none, frec := none, note := [], accNo := 0, reads := [], out := []
    sent := [], after := none, told := false }

/-- The engine and the context have room for a job and the context has drained (R329, R351). -/
def JobRoom (v : State) : Prop :=
  (v.jobs.filter fun j => j.issuer == v.cur).length < 16 ∧
  v.placesUsed (v.logPkg v.cur.core.part v.cur.core.pkg) (v.engineOf v.cur.core) < 64 ∧ v.nbrLanded v.cur.core = true

/-- A status word (R332): its kind, its code and its value. -/
def statusOf (kind code val : Nat) : Word := wd (kind * 2 ^ 62 + code % 64 * 2 ^ (if kind = 2 then 56 else 48) + val % 2 ^ (if kind = 2 then 56 else 48))

/-- The status a tag shows (R352): that of its entry, or that there is none; tag 0 shows the first fault, else the latest job's. -/
def shownStatus (x : Ctx) (tag : Nat) : Word :=
  if tag ≠ 0 then ((x.jobs.find? fun e => e.tag == tag).map (·.status)).getD (statusOf 3 0 0)
  else match x.jobs.find? fun e => fld e.status 62 2 == 2 with
    | some e => e.status
    | none => ((x.jobs.getLast?).map (·.status)).getD (statusOf 1 0 0)

/-- The work of a compress and of a decompress job (R337). -/
def packWork (run : CpyRec → Job → FRec → WalkM JM (Nat × Flags)) (j : Job) : WalkM JM JobAfter := do
  match j.frec with
  | none => throw (0x31, j.recVa)
  | some f =>
    let (n, fl) ← run (cpyRec j.recBytes) j f
    return { j.go with count := n, flags := fl, worked := true }

/-- The step of a running job: its job, the kind it serves, and its work (R335, R337, R346, R348, R349). -/
def jobStep : Instr → Option (Nat × JobKind × (Job → WalkM JM JobAfter))
  | .copyJob id n => some (id, .copy, copyWork n)
  | .gatherJob id n => some (id, .gather, copyWork n)
  | .compressJob id => some (id, .compress, packWork CpyRec.compress)
  | .decompressJob id => some (id, .decompress, packWork CpyRec.decompress)
  | .embgSum id => some (id, .embg 0, lookup false)
  | .embgMean id => some (id, .embg 1, lookup true)
  | .embgUpdateSum id => some (id, .embg 2, update false)
  | .embgUpdateMean id => some (id, .embg 3, update true)
  | .rmoveJob id => some (id, .rmove, moveWork)
  | _ => none

/-- What a piece of work answers: what it leaves, or the fault that ends the job. -/
def pieceLeft (j : Job) : Except (Nat × Nat) JobAfter → JobAfter
  | .ok a => a
  | .error f => { j.go with fault := some f }
/-- The writes a piece has laid out and sends now. -/
def laidNow (a : JobAfter) (out : List JobWrite) : List JobWrite := out.filter fun w => a.keep.all fun k => k.no != w.no
/-- The job once its piece has laid out its writes. -/
def laidOut (s : State) (id : Nat) (a : JobAfter) (out : List JobWrite) (acc : Nat) : State :=
  s.modJob id fun k => { k with reads := [], out := laidNow a out, accNo := acc, after := some a }
/-- The end of a piece whose writes have all been performed (R339): the fault it met ends the job; else the job has come further, and one
whose work is done releases its scoreboard entries. -/
def pieceEnded (s : State) (id : Nat) (a : JobAfter) : State :=
  match a.fault with
  | some (code, val) => (s.jobFault id code val).dropBoards id
  | none =>
    let t := s.modJob id fun k =>
      { k with pos := a.pos, flags := a.flags, count := a.count, worked := a.worked, note := a.note, reads := [], out := a.keep, after := none }
    if a.worked then t.dropBoards id else t

end Sys2Proof.Claims

/-- R352, R353: CPYWAIT waits while the job it names, or for tag 0 any of its context's, is queued or running, then writes the status; CPYQ
writes it at once; either acquires where it shows completion. PUBL checks its operands, names the pages that have pending shadows of
the partition, starts a publish of them and waits for it, and then writes the number of pages published. -/
def Obligations.StatusIsShownAndPagesPublished : Prop :=
  (∀ (s : State) (x : Ctx) (d a : Reg), s.ctx? s.cur = some x → Ready s x [a, d] →
    let t := (x.reg a).toNat
    let w := shownStatus x t
    let y := if fld w 62 2 = 1 ∨ fld w 62 2 = 2 then acquired x else x
    exec (.cpyq d a) s = .next (issued s x (y.setReg d w) (x.pc + 4)) ∧
    ((∃ e ∈ x.jobs, fld e.status 62 2 = 0 ∧ (t = 0 ∨ e.tag = t)) → exec (.cpywait d a) s = .next s) ∧
    ((∀ e ∈ x.jobs, ¬(fld e.status 62 2 = 0 ∧ (t = 0 ∨ e.tag = t))) →
      exec (.cpywait d a) s = .next (issued s x (y.setReg d w) (x.pc + 4)))) ∧
  ∀ (s w : State) (x : Ctx) (d a b : Reg) (pages names : List Nat), s.ctx? s.cur = some x → Ready s x [a, b, d] →
    let i := Instr.publ d a b
    let p := s.cur.core.part
    let n := fld (x.reg b) 0 13
    let ok := 1 ≤ n ∧ n ≤ 4096 ∧ fld (x.reg b) 16 3 ≤ 5 ∧ x.reg b &&& ~~~(0x71FFF#64) = 0
    (s.speculative p x = true → exec i s = .next s) ∧
    (s.speculative p x = false →
      (¬ok → Raises s x i 2 (wordOf i)) ∧
      (ok → (x.reg a).toNat % 524288 ≠ 0 → Raises s x i 1 (x.reg a)) ∧
      (ok → (x.reg a).toNat % 524288 = 0 →
        (∀ id, x.publ = some (id, x.pc) →
          ((∃ k ∈ s.publishes, k.id = id) → exec i s = .next s) ∧
          ((∀ k ∈ s.publishes, k.id ≠ id) →
            exec i s = .next (issued (settledOp s x) x ({ x with publ := none }.setReg d (wd x.publCount)) (x.pc + 4)))) ∧
        (x.publ = none → x.out = [] →
          (publNames (x.reg a).toNat (List.range n)).run { start s x with st := settledOp s x } =
            .ok ((pages, names), { start s x with st := w }) → w.cur = s.cur → w.nbrLanded s.cur.core = true →
          ∃ (t : State) (y : Ctx) (k : Publish), exec i s = .next t ∧ t.publishes = w.publishes ++ [k] ∧ k.part = p ∧ k.owner = none ∧ k.core = s.cur.core ∧
            k.names = ((w.part p).shadows.filter fun h => h.owner == none && names.contains h.name).map (·.name) ∧
            k.vas = pages ∧ Scope.code k.scope = fld (x.reg b) 16 3 ∧ k.sent = false ∧ t.mem = w.mem ∧ t.ctx? s.cur = some y ∧
            y.publ = some (k.id, x.pc) ∧ y.pc = x.pc ∧ y.regs = x.regs)))

/-- R329-R331, R338, R351: CPY, EMBG and RMOVE read their record and, where the context has drained and room is left, give the job the next
tag and answer it: a job accepted joins its engine with status 0; a record that breaks a rule ends its job at once with the fault's
code, in the job table or, where the record names a completion word, through it. A record address that is not a multiple of 64 raises
Alignment, and RMOVE at program level Privilege.
R330-R332, R335-R337, R343, R346, R348, R349: a queued job starts, unless it must follow an earlier one or another owner has a shadow of its
pages, with the frames its pages need, or ends with NOSHADOW; a running job's step does a piece of its work, waits for what the piece has asked for, sends
what it has laid out, and once all of that is performed comes further or ends with the piece's fault or that of its lowest failed write, what it had
held back for later elements written first, or, where only log records were refused, with LOGFULL and their count; a job
whose work is done and whose writes are all performed stores its completion word, where it has one, and then puts its status in its context's table;
a publish whose pages no job writes sends its invalidations, and swaps every page once all have been acknowledged. That a job works in
pieces, its reads one at a time and its writes after them, is the model's choice (log 12), and so is that a refused record with a
completion word is told of through it (log 62). -/
def Obligations.JobsAreAcceptedWorkAndComplete : Prop :=
  (∀ (s u : State) (x : Ctx) (i : Instr) (f : JobForm) (b : List Byte), s.ctx? s.cur = some x → jobForm i = some f →
     (x.priv = .program → ∀ d a, i = .rmove d a → Raises s x i 3 (wordOf i)) ∧
     ((∀ d a, i = .rmove d a → x.priv ≠ .program) → Ready s x [f.a, f.d] →
       let va := (x.reg f.a).toNat
       (va % 64 ≠ 0 → Raises s x i 1 (x.reg f.a)) ∧
       (va % 64 = 0 → (readRecordAt va f.size).run (start s x) = .ok (b, { start s x with st := u }) → u.cur = s.cur →
         f.shadow b = true ∨ u.speculative u.cur.core.part x = false → x.out = [] →
         let v := if f.shadow b then u else settledOp u x
         let j := draft v x f va b
         let w := { v with nextId := v.nextId + 1 }
         JobRoom v →
         (f.compl b % 8 ≠ 0 → exec i s = .next (issued w x ((x.addJob (statusOf 2 0x31 va)).setReg f.d (wd x.jobCtr)) (x.pc + 4))) ∧
         (f.compl b % 8 = 0 → ∀ k t, (f.judge j).run.run { start s x with st := w } = .ok (.ok k, { start s x with st := t }) →
           exec i s = .next (issued { t with jobs := t.jobs ++ [k] } x ((x.addJob 0).setReg f.d (wd x.jobCtr)) (x.pc + 4))) ∧
         (f.compl b % 8 = 0 → ∀ code val t, (f.judge j).run.run { start s x with st := w } = .ok (.error (code, val), { start s x with st := t }) →
           (f.compl b = 0 →
             exec i s = .next (issued t x ((x.addJob (statusOf 2 code val)).setReg f.d (wd x.jobCtr)) (x.pc + 4))) ∧
           (f.compl b ≠ 0 → exec i s = .next (issued
             { t with jobs := t.jobs ++ [{ j with started := true, worked := true, fault := some (code, val) }] } x
             ((x.addJob 0).setReg f.d (wd x.jobCtr)) (x.pc + 4)))) ∧
         (x.addJob 0).jobCtr = (x.jobCtr + 1) % 2 ^ 64))) ∧
  ((∀ (s : State) (j : Job), s.jobs.find? (fun k => k.id == j.id) = some j →
     let q := s.part j.issuer.core.part
     (s.jobLive j = false ∨ j.started = true ∨ j.worked = true → exec (.jobStart j.id) s = .next s) ∧
     (s.jobLive j = true → j.started = false → j.worked = false →
       (j.seqJob = true → (∃ k ∈ s.jobs, k.issuer = j.issuer ∧ k.tag < j.tag) → exec (.jobStart j.id) s = .next s) ∧
       ((∃ g ∈ j.pages, ∃ h, q.shadowOf g.2 = some h ∧ h.owner ≠ j.task) → exec (.jobStart j.id) s = .next s) ∧
       ((j.seqJob = true → ∀ k ∈ s.jobs, k.issuer = j.issuer → j.tag ≤ k.tag) →
         (∀ g ∈ j.pages, ∀ h, q.shadowOf g.2 = some h → h.owner = j.task) →
         s.swapping j.issuer.core.part j.task (j.pages.map (·.2)) = false →
         (∀ r, q.takeFrames j.task j.pages = .ok r → exec (.jobStart j.id) s =
           .next ((s.setPart j.issuer.core.part r).modJob j.id fun k => { k with started := true, touched := r.touched j.task j.pages })) ∧
         ∀ n, q.takeFrames j.task j.pages = .error n →
           exec (.jobStart j.id) s = .next ((s.modJob j.id fun k => { k with started := true }).jobFault j.id 0x30 n)))) ∧
   (∀ (s : State) (i : Instr) (j : Job) (k : JobKind) (f : Job → WalkM JM JobAfter), jobStep i = some (j.id, k, f) →
     s.jobs.find? (fun k => k.id == j.id) = some j → j.kind = k → j.started = true → j.worked = false → j.publish = none →
     s.jobLive j = true →
     (j.after = none → s.toFill j = none →
       let run := (f j).run.run { st := s, ix := 0, out := j.out, acc := j.accNo }
       (run = .error .wait → exec i s = .next s) ∧
       (∀ g, run = .error (.leave g) → exec i s = .next (g s)) ∧
       ∀ r x, run = .ok (r, x) →
         let a := pieceLeft j r
         (laidNow a x.out ≠ [] → (∃ k ∈ x.st.jobs, k.id = j.id) → exec i s = .next (laidOut x.st j.id a x.out x.acc)) ∧
         (laidNow a x.out = [] → (∃ k, x.st.jobs.find? (fun k => k.id == j.id) = some k ∧ k.sent = []) →
           exec i s = .next (pieceEnded (laidOut x.st j.id a x.out x.acc) j.id a))) ∧
     (∀ a, j.after = some a → j.out = [] →
       ((∃ w ∈ j.sent, w.cause = none) → exec i s = .next s) ∧
       (j.sent = [] → exec i s = .next (pieceEnded s j.id a)) ∧
       (∀ w ∈ j.sent, ∀ c, w.cause = some c → c ≠ 0x17 →
         (∀ v ∈ j.sent, v.cause ≠ none ∧ (v = w ∨ v.cause = some 0x17 ∨ w.no < v.no)) →
         (a.keep = [] → exec i s = .next ((s.jobFault j.id c w.va).dropBoards j.id)) ∧
         (a.keep ≠ [] → exec i s = .next (s.modJob j.id fun k => { k with out := a.keep, after := some { a with keep := [] } }))) ∧
       (j.sent ≠ [] → (∀ v ∈ j.sent, v.cause = some 0x17) →
         exec i s = .next ((s.jobFault j.id 0x35 j.sent.length).dropBoards j.id))) ∧
     ∀ a w d l u, j.after = some a → j.out = [w] → w.op = .masked d → w.cause = none → s.shadowAt j w = none →
       s.jobLoc j .data .write w.base d.length = (.ok l, u) → l.isLocal = false → u.canSend (.engine j.pkg j.engine) l.home.agent 1 = true → u.jobs = s.jobs →
       ∃ (t : State) (k : Packet) (q : Req), exec i s = .next t ∧ k ∈ t.net ∧ k.src = .engine j.pkg j.engine ∧ k.dst = l.home.agent ∧
         k.msg = .req q ∧ q.src = j.issuer ∧ q.acc = w.no ∧ q.pa = l.pa ∧ q.home = l.home ∧ q.op = .masked d ∧ q.task = j.task ∧ t.mem = u.mem ∧
         ∃ m ∈ t.jobs, m.id = j.id ∧ m.out = [] ∧ ∃ v ∈ m.sent, v.no = w.no ∧ v.cause = none) ∧
   (∀ (s : State) (j : Job), s.jobs.find? (fun k => k.id == j.id) = some j → j.worked = true → s.jobLive j = true →
     let w := match j.fault with
       | some (code, val) => statusOf 2 code val
       | none => wd (2 ^ 62 + j.flags.toNat * 2 ^ 48 + j.count % 2 ^ 48)
     let shows (w : Word) (t : State) : Prop := exec (.jobCompletion j.id) s = .next t ∧ (∀ k ∈ t.jobs, k.id ≠ j.id) ∧
       ∀ x, s.ctx? j.issuer = some x → t.ctx? j.issuer = some { x with
         jobs := x.jobs.map fun e => if e.tag == j.tag then { e with status := w } else e }
     ((∃ v ∈ j.sent, v.cause = none) → exec (.jobCompletion j.id) s = .next s) ∧
     ((∀ v ∈ j.sent, v.cause ≠ none) →
       (j.compl = 0 ∨ j.told = true ∧ j.sent = [] → ∃ t, shows w t ∧ t.mem = s.mem ∧ t.jobs = s.jobs.filter fun k => k.id != j.id) ∧
       (∀ v c, j.compl ≠ 0 → j.told = true → j.sent = [v] → v.cause = some c →
         ∃ t, shows (if j.fault = none then statusOf 2 c j.compl else w) t) ∧
       ∀ l u, j.compl ≠ 0 → j.told = false → j.task = none →
         s.resolve j.issuer.core (.data j.issuer.core) (some (.job j.id)) .write j.priv j.compl 8 = (.ok l, u) → u.jobs = s.jobs →
         ∃ (t : State) (k : Packet) (q : Req), exec (.jobCompletion j.id) s = .next t ∧ k ∈ t.net ∧ k.dst = l.home.agent ∧ k.msg = .req q ∧
           q.src = j.issuer ∧ q.pa = l.pa ∧ q.home = l.home ∧ q.op = .store (toBytes w.toNat 8) ∧ q.via = .done j.id ∧ t.mem = u.mem ∧
           ∃ m ∈ t.jobs, m.id = j.id ∧ m.told = true)) ∧
   ∀ (s : State) (q : Publish), s.publishes.find? (fun k => k.id == q.id) = some q →
     let hs := (s.part q.part).shadows.filter fun h => h.owner == q.owner && q.names.contains h.name
     (s.stillWriting q = true → exec (.publishSwap q.id) s = .next s) ∧
     (s.stillWriting q = false → q.sent = false → hs = [] →
       ∃ t, exec (.publishSwap q.id) s = .next t ∧ (∀ k ∈ t.publishes, k.id ≠ q.id) ∧ t.mem = s.mem ∧ t.parts = s.parts) ∧
     (s.stillWriting q = false → q.sent = false → hs ≠ [] →
       ∃ (t : State) (v : Inval), exec (.publishSwap q.id) s = .next t ∧ t.invals = s.invals ++ [v] ∧ v.part = q.part ∧
         (∀ a, a ∈ v.pages ↔ a ∈ q.vas ∨ ∃ h ∈ hs, a ∈ h.vas) ∧
         v.publish = some q.id ∧ v.agents = s.invAgents (s.instance_ q.core q.scope) ∧ t.mem = s.mem) ∧
     (q.sent = true → (∀ v ∈ s.invals, v.publish = some q.id → ∃ a ∈ v.agents, a.2 ≠ .acked) → exec (.publishSwap q.id) s = .next s) ∧
     (s.stillWriting q = false → q.sent = true → (∃ v ∈ s.invals, v.publish = some q.id ∧ ∀ a ∈ v.agents, a.2 = .acked) →
       ∃ t, exec (.publishSwap q.id) s = .next t ∧ (∀ k ∈ t.publishes, k.id ≠ q.id) ∧
         t.mem = (hs.foldl (fun s h => s.swapOne q.part h) s).mem ∧
         (t.part q.part).shadows = (s.part q.part).shadows.filter (fun h => !(hs.map (·.name)).contains h.name)))

/-! ### Rings -/

namespace Sys2Proof.Claims
open Sys2Proof.Machine

/-- A ring instruction (R365, R366): its sources, its destination, its lookahead, the operation it asks of the unit, whether it releases. -/
def ringForm : Instr → Option (List Reg × Reg × Fin 16 × (List Word → RingOp) × Bool)
  | .racq d a b la => some ([a, b], d, la, fun v => .acq (v.getD 1 0).toNat, false)
  | .rcom d a b la => some ([a, b], d, la, fun v => .com (v.getD 1 0).toNat, true)
  | .rpeek d a la => some ([a], d, la, fun _ => .peek false, false)
  | .rpeekTake d a la => some ([a], d, la, fun _ => .peek true, false)
  | .rrel d a b la => some ([a, b], d, la, fun v => .rel (v.getD 1 0).toNat, true)
  | .rdisp d a b la => some ([a, b], d, la, fun v => .disp (v.getD 1 0).toNat, true)
  | _ => none

/-- The ring unit answers a request with a word, in the state its operation leaves; the request is gone, and its context is held back no
longer (R31, R366). -/
def RingAnswers (s w : State) (id : Nat) (src : CtxId) (acc : Nat) (u : CluId) (v : Word) : Prop :=
  exec (.ringOperation id) s = .next (((w.dropPkt id).modAcc src acc fun a => { a with hold := false }).send u.part 1 (.ring u)
    (.core src.core) 0 (.data src acc false (toBytes v.toNat 8)))

end Sys2Proof.Claims

/-- R357, R364-R369: a ring instruction of a context that need not wait to settle sends its operation to the unit its handle names and goes on,
its register to be written by the reply; a releasing one waits until the context has drained, and an acquiring one holds every later
access back until its reply. A handle with a reserved bit or of no cluster of the partition raises Access with the handle as TVAL. -/
def Obligations.RingInstructionsAskTheirUnit : Prop :=
  ∀ (s : State) (x : Ctx) (i : Instr) (srcs : List Reg) (d : Reg) (la : Fin 16) (op : List Word → RingOp) (rel : Bool) (h : Word),
    s.ctx? s.cur = some x → ringForm i = some (srcs, d, la, op, rel) → Ready s x (srcs ++ [d]) → x.task = none →
    h = (srcs.map x.reg).getD 0 0 →
    let u : CluId := { part := s.cur.core.part, pkg := fld h 14 6, clu := fld h 6 8 }
    (h.toNat / 2 ^ 20 ≠ 0 ∨ s.hasClu u = false → Raises s x i 5 h) ∧
    (h.toNat / 2 ^ 20 = 0 → s.hasClu u = true →
      (rel = true → x.out ≠ [] → exec i s = .next s) ∧
      (x.out = [] → (rel = true → s.nbrLanded s.cur.core = true) → s.buffersHeld s.cur x < 128 →
        ∃ (t : State) (y : Ctx) (k : Packet) (a : Access), exec i s = .next t ∧ k ∈ t.net ∧ k.src = .core s.cur.core ∧ k.dst = .ring u ∧
          k.msg = .ringReq s.cur a.acc (fld h 0 6) u (op (srcs.map x.reg)) ∧ t.mem = s.mem ∧ t.ctx? s.cur = some y ∧ y.regs = x.regs ∧
          SameControl x y ∧ y.pc = x.pc + 4 ∧ y.out = [a] ∧ a.dest = (if d = 0 then .none else .reg d false) ∧
          (rel = false → y.allAfter = a.acc)))

/-- R358, R359, R362, R364, R366: once the cycle in which an operation arrived is over, the ring unit performs the one that is first and answers it: NORING where the block is not allotted, BADSIZE, BADSLOT and
CAPPED by the block and the operand alone, FULL, BADSTATE and EMPTY by the slot's tag, and else the slot's address, OK or RESIDUAL with the tag,
the head, the tail and the counts moved on; NORING too where the overflow block is not allotted. The counts stop at 2^32 - 1 (R358).
R360, R361: loading a block's image, which waits while an operation stands at the unit, allots the block with the fields the image holds, and an image that breaks a limit raises Access
with its address; storing writes the image of the block; releasing makes the block unallotted; a write of RCRST that reaches the unit sets the block's ACCEPT and
DIVERT to zero, leaves an unallotted block alone, and is acknowledged. That the unit reaches the tags at its requester's level is the model's choice
(log 24). -/
def Obligations.RingUnitPerformsOperationsAndKeepsBlocks : Prop :=
  (∀ (s : State) (id acc ix : Nat) (src : CtxId) (u : CluId) (op : RingOp) (k : Packet) (x : Ctx), s.deliverable id = some k →
     k.msg = .ringReq src acc ix u op → op ≠ .rst → k.at_ < s.clock → s.ringBehind k src = false → s.ctx? src = some x →
     let c := src.core
     let b : RingBy := { core := c, priv := x.priv, late := k.at_ + 2000 * Config.ccPerNs ≤ s.clock, id := id }
     (amGet? (s.cluster u).blocks ix = none → RingAnswers s s id src acc u 7) ∧
     ∀ r, amGet? (s.cluster u).blocks ix = some r →
       let slot (a : Nat) : Nat := (a - r.base) / r.slotsz
       let bad (a : Nat) : Prop := a < r.base ∨ (a - r.base) % r.slotsz ≠ 0 ∨ r.count ≤ slot a
       let capped : Prop := r.cap ≠ 0 ∧ r.cap ≤ r.accept
       (∀ n, op = .acq n → r.slotsz < n → RingAnswers s s id src acc u 8) ∧
       (∀ a, op = .com a ∨ op = .rel a → bad a → RingAnswers s s id src acc u 3) ∧
       (∀ w, op = .disp w → capped → r.ovf < 128 → RingAnswers s s id src acc u 5) ∧
       (∀ w, op = .disp w → capped → 128 ≤ r.ovf → amGet? (s.cluster u).blocks (r.ovf % 64) = none → RingAnswers s s id src acc u 7) ∧
       (∀ n e w, op = .acq n → n ≤ r.slotsz → (readSide b r r.tail).run s = .ok (e, w) →
         (e.tag ≠ 0 → RingAnswers s w id src acc u 2) ∧
         (e.tag = 0 → ∀ v, (writeSide b r r.tail { tag := 1, exp := n, got := 0 }).run w = .ok ((), v) →
           RingAnswers s (v.setBlock u ix { r with tail := (r.tail + 1) % r.count }) id src acc u (wd (r.base + r.tail * r.slotsz)))) ∧
       (∀ a e w, op = .com a → ¬bad a → (readSide b r (slot a)).run s = .ok (e, w) →
         (e.tag ≠ 1 → RingAnswers s w id src acc u 4) ∧
         (e.tag = 1 → ∀ v, (writeSide b r (slot a) { tag := 2, exp := 0, got := 0 }).run w = .ok ((), v) →
           RingAnswers s v id src acc u 0)) ∧
       (∀ a e w, op = .rel a → ¬bad a → (readSide b r (slot a)).run s = .ok (e, w) →
         (e.tag ≠ 3 → RingAnswers s w id src acc u 4) ∧
         (e.tag = 3 → ∀ v, (writeSide b r (slot a) { tag := 0, exp := 0, got := 0 }).run w = .ok ((), v) →
           RingAnswers s v id src acc u 0)) ∧
       (∀ take e w, op = .peek take → (readSide b r r.head).run s = .ok (e, w) →
         (e.tag ≠ 2 → RingAnswers s w id src acc u 1) ∧
         (e.tag = 2 → take = false → RingAnswers s w id src acc u (wd (r.base + r.head * r.slotsz))) ∧
         (e.tag = 2 → take = true → ∀ v, (writeSide b r r.head { e with tag := 3 }).run w = .ok ((), v) →
           RingAnswers s (v.setBlock u ix { r with head := (r.head + 1) % r.count }) id src acc u (wd (r.base + r.head * r.slotsz)))) ∧
       (∀ n e w, op = .disp n → ¬capped → (readSide b r r.tail).run s = .ok (e, w) →
         (e.tag ≠ 0 → RingAnswers s w id src acc u 2) ∧
         (e.tag = 0 → ∀ g l w1 w2 v, (sideLoc b r r.tail).run w = .ok (g, w1) → (unitLoc b .write (r.base + r.tail * r.slotsz) 8).run w1 = .ok (l, w2) →
           (putSide b g { tag := 2, exp := 0, got := 0 }).run
             (w2.writeNow { core := c, task := none } l.home l.pa (toBytes n 8) true) = .ok ((), v) →
           RingAnswers s (v.setBlock u ix { r with tail := (r.tail + 1) % r.count, accept := min (r.accept + 1) (2 ^ 32 - 1) })
             id src acc u 0)) ∧
       ∀ n t e w, op = .disp n → capped → 128 ≤ r.ovf → amGet? (s.cluster u).blocks (r.ovf % 64) = some t →
           (readSide b t t.tail).run s = .ok (e, w) →
           (e.tag ≠ 0 → RingAnswers s w id src acc u 2) ∧
           (e.tag = 0 → ∀ g l w1 w2 v, (sideLoc b t t.tail).run w = .ok (g, w1) → (unitLoc b .write (t.base + t.tail * t.slotsz) 8).run w1 = .ok (l, w2) →
             (putSide b g { tag := 2, exp := 0, got := 0 }).run
               (w2.writeNow { core := c, task := none } l.home l.pa (toBytes (Nat.lor n (2 ^ 63)) 8) true) = .ok ((), v) →
             RingAnswers s ((v.setBlock u (r.ovf % 64) { t with
                 tail := (t.tail + 1) % t.count, accept := min (t.accept + 1) (2 ^ 32 - 1) }).setBlock u ix
               { r with divert := min (r.divert + 1) (2 ^ 32 - 1) }) id src acc u 6)) ∧
  (∀ (s : State) (c : CtxId) (x : Ctx) (ix : Fin 64) (addr : Word), s.ctx? c = some x →
     let u := c.core.clu
     let va := fld addr 6 50 * 64
     let block (t : State) : Option RingBlk := amGet? (t.cluster u).blocks ix.val
     (∀ b w, Reads (ctxRead c x false va 64) { s with cur := c } b w → w.cur = c →
       (w.opsThere u = true → exec (.rccmdLoad c addr ix) s = .next s) ∧
       (w.opsThere u = false →
       (∀ r, blockOf ix.val b = some r → ∃ t, exec (.rccmdLoad c addr ix) s = .next t ∧ block t = some r ∧ t.mem = w.mem ∧
         r.base = dword b 0 ∧ r.slotsz = word32 b 2 ∧ r.count = word32 b 3 ∧ r.head = word32 b 4 ∧ r.tail = word32 b 5 ∧
         r.cap = word32 b 6 ∧ r.accept = word32 b 7 ∧ r.divert = word32 b 8) ∧
       (blockOf ix.val b = none → exec (.rccmdLoad c addr ix) s = .next (s.takeFault c x 5 (wd va))))) ∧
     (∀ r l w, block s = some r → va % 64 = 0 →
       ({ s with cur := c } : State).resolve c.core (.data c.core) (some (.ctx c x.icount)) .write x.priv va 64 = (.ok l, w) → w.cur = c →
       Quiet w c x → Stays x c.core l → Settled w l.home l.pa 64 → l.home = .core c.core → l.repl = none → w.holders c.core l.pa 64 = [] →
       ∃ t, exec (.rccmdStore c addr ix) s = .next t ∧ t.mem = Memory.writeN w.mem l.pa r.image) ∧
     (((s.cluster u).blocks.map (·.1)).Pairwise (· < ·) →
       ∃ t, exec (.rccmdRelease c ix) s = .next t ∧ block t = none ∧ t.mem = s.mem) ∧
     ((∀ k ∈ s.net, ∀ acc v, k.msg ≠ .ringReq c acc ix.val v .rst) → exec (.rcrst c ix) s = .next s) ∧
     ∀ k acc v, s.deliverable k.id = some k → k.msg = .ringReq c acc ix.val v .rst →
       (∀ q ∈ s.net, ∀ a w, q.msg = .ringReq c a ix.val w .rst → q = k) → k.at_ < s.clock → s.ringBehind k c = false →
       ∃ t, exec (.rcrst c ix) s = .next t ∧ exec (.ringOperation k.id) s = .next t ∧ t.mem = s.mem ∧ k ∉ t.net ∧
         (amGet? (t.cluster v).blocks ix.val = (amGet? (s.cluster v).blocks ix.val).map fun r => { r with accept := 0, divert := 0 }) ∧
         ∃ q ∈ t.net, q.src = .ring v ∧ q.dst = .core c.core ∧ q.msg = .ack c acc)

/-! ### Barriers and asynchronous traps -/

namespace Sys2Proof.Claims
open Sys2Proof.Machine

/-- The value a Barrier fault reports (R397): the word, the cause, the barrier. -/
def barrierTval (i : Instr) (why n : Nat) : Word := wd ((encode i).getD 0 + why * 2 ^ 32 + n * 2 ^ 40)

/-- The context's arrival is on its way to its cluster's node, and the context waits for its release (R388, R395). -/
def Arrived (s t : State) (x y : Ctx) (n : Nat) (op : Option BredOp) (v : Word) : Prop :=
  t.ctx? s.cur = some y ∧ y.barPend = true ∧ y.barNo = n ∧ y.regs = x.regs ∧ t.mem = s.mem ∧
  ∃ k ∈ t.net, k.src = .core s.cur.core ∧ k.dst = .barrier s.cur.core.clu ∧ k.msg = .arrive s.cur.core.clu n y.barId s.cur op v

/-- Two values combined by the operator of a reduction (R392). -/
def combined : BredOp → Word → Word → Word
  | .add, c, x => wd (c.toNat + x.toNat)
  | .fadds, c, x => wd (fp32.deliver rneMode (exAdd false (fp32.dec (c.toNat % 2 ^ 32)) (fp32.dec (x.toNat % 2 ^ 32)))).1
  | .faddd, c, x => wd (fp64.deliver rneMode (exAdd false (fp64.dec c.toNat) (fp64.dec x.toNat))).1
  | .min, c, x => if c.toInt ≤ x.toInt then c else x
  | .max, c, x => if x.toInt ≤ c.toInt then c else x
  | .and, c, x => c &&& x
  | .or, c, x => c ||| x

/-- The values of a level folded from the left; one alone passes unchanged (R392). -/
def levelFold (op : BredOp) : List Word → Word
  | [] => 0
  | v :: r => r.foldl (combined op) v

/-- What a generation releases (R391), and the levels its contributions pass (R392): each cluster folds those of its arrivals, by virtual vcore and
slot, each die its clusters' results by virtual cluster, each package its dies', by the lowest virtual cluster a die holds, and the
domain its packages' by virtual package. -/
def released (s : State) (p : Nat) (b : Barrier) (v : Option Word) : Prop :=
  let ops := (b.arrived.flatMap (·.2)).filterMap (·.op)
  let before (a c : Arrival) : Bool := !lexLt [c.src.core.vc, c.src.slot] [a.src.core.vc, a.src.slot]
  let clus (op : BredOp) : List (Nat × Word) := (b.arrived.filter fun u => u.2.any (·.op.isSome)).map fun u =>
    (u.1, levelFold op ((sortBy before (u.2.filter (·.op.isSome))).map (·.value)))
  let dies (op : BredOp) : List (Nat × Word) :=
    (sortBy (fun d e => !lexLt [e / 4, s.dieKey p e] [d / 4, s.dieKey p d]) (dedup ((clus op).map fun x => s.cluDie x.1))).map fun d =>
      (d / 4, levelFold op (((clus op).filter fun x => s.cluDie x.1 == d).map (·.2)))
  let top (op : BredOp) : Word :=
    levelFold op ((dedup ((dies op).map (·.1))).map fun g => levelFold op (((dies op).filter fun x => x.1 == g).map (·.2)))
  (ops = [] → v = some (wd b.gen.toNat)) ∧
  (∀ op, op ∈ ops → (∀ q ∈ ops, q = op) → v = some (top op)) ∧
  ((∃ op ∈ ops, ∃ q ∈ ops, q ≠ op) → v = none)

/-- The context has entered the handler for an asynchronous trap (R401, R405). -/
def Trapped (s : State) (c : CtxId) (x : Ctx) (i : Instr) (cause : Nat) (tval : Word) : Prop :=
  ∃ (t : State) (y : Ctx), exec i s = .next t ∧ t.mem = s.mem ∧ t.ctx? c = some y ∧ y.tcause = wd (2 ^ 63 + cause) ∧ y.tval = tval ∧ y.epc = x.pc ∧
    y.epriv = x.priv.code ∧ y.inh = true ∧ y.pc = (s.part c.core.part).tvec ∧ y.regs = x.regs ∧
    y.priv = (if x.priv = .firmware then .firmware else .supervisor)

end Sys2Proof.Claims

/-- R387, R390, R391, R395-R397: BARR sends its arrival once the context has drained and goes on; BSYNC and BRED send theirs and stay until the
release, then write its value; BWAIT writes the value once the release has come; a number above 31 raises Illegal, a cluster that is
no member Barrier, a MIXED release Barrier once. BSET sets the cluster's count, from the next generation on where the cluster joins one
that its die's or package's node has completed, which is the model's reading (log 149), and releases a generation that this completes; it
answers 1 while the generation has arrivals of the cluster, counted or held, or one stands at its node; at program level it raises
Privilege. -/
def Obligations.BarriersArriveWaitAndSet : Prop :=
  ∀ (s : State) (x : Ctx) (d a b : Reg) (op : BredOp), s.ctx? s.cur = some x → Ready s x [a, b, d] → x.task = none →
    let c := s.cur.core
    let n := (x.reg a).toNat
    let calls (i : Instr) (j : Option BredOp) (v : Word) (next : Word) (w : Option Word) : Prop :=
      (31 < n → Raises s x i 2 (wordOf i)) ∧
      (n ≤ 31 → x.barPend = true → exec i s = .next s) ∧
      (n ≤ 31 → x.barPend = false → ((s.part c.part).barriers.get (Fin.ofNat 32 n)).countSet c.clu.key = 0 →
        Raises s x i 14 (barrierTval i 1 n)) ∧
      (n ≤ 31 → x.barPend = false → ((s.part c.part).barriers.get (Fin.ofNat 32 n)).countSet c.clu.key ≠ 0 → x.out = [] →
        s.nbrLanded c = true → ∃ (t : State) (y : Ctx), exec i s = .next t ∧ Arrived s t x y n j v ∧ y.pc = next ∧ y.waitBar = w)
    let waits (i : Instr) (y : Ctx) : Prop :=
      (x.barPend = true → exec i s = .next s) ∧
      (x.barPend = false → x.mixed = false → exec i s = .next (issued s x y (x.pc + 4))) ∧
      (x.barPend = false → x.mixed = true → x.resultsOut = false →
        exec i s = .next ((s.undoPops s).takeFault s.cur { x with mixed := false, waitBar := none } 14 (barrierTval i 2 x.barNo)))
    calls (.barr a) none 0 (x.pc + 4) x.waitBar ∧
    waits (.bwait d) ((acquired x).setReg d x.lastv) ∧
    (x.waitBar ≠ some x.pc → calls (.bsync d a) none 0 x.pc (some x.pc) ∧ calls (.bred d a b op) (some op) (x.reg b) x.pc (some x.pc)) ∧
    (x.waitBar = some x.pc → waits (.bsync d a) { (acquired x).setReg d x.lastv with waitBar := none } ∧
      waits (.bred d a b op) { (acquired x).setReg d x.lastv with waitBar := none }) ∧
    (let i := Instr.bset d a b
     let k := (x.reg b).toNat
     let old := (s.part c.part).barriers.get (Fin.ofNat 32 n)
     (x.priv = .program → Raises s x i 3 (wordOf i)) ∧
     (x.priv ≠ .program → 31 < n ∨ 88 < k → Raises s x i 2 (wordOf i)) ∧
     let busy : Prop := amGet [] old.arrived c.clu.key ≠ [] ∨ (∃ h ∈ amGet [] old.held c.clu.key, h.gen = old.gen) ∨
       ∃ q ∈ s.net, q.stage = .ready ∧ ∃ aid src o w, q.msg = .arrive c.clu n aid src o w
     let after (b : Barrier) : State := s.modPart c.part fun q => { q with barriers := q.barriers.set (Fin.ofNat 32 n) b }
     let counted (m : AMap Nat) : AMap Nat := if k = 0 then amErase m c.clu.key else amSet m c.clu.key k
     let set_ : Barrier := ({ old with setAt := s.clock + 1, counts := counted old.counts, joins := amErase old.joins c.clu.key } : Barrier).countHeld
     let next : Barrier := ({ set_ with
       gen := set_.gen + 1, counts := set_.joins.foldl (fun m j => amSet m j.1 j.2) set_.counts, joins := [], arrived := [] } : Barrier).countHeld
     (x.priv ≠ .program → n ≤ 31 → k ≤ 88 → busy → Answers s x i d 1) ∧
     (x.priv ≠ .program → n ≤ 31 → k ≤ 88 → ¬busy →
       (old.count c.clu.key = 0 → s.levelDone old c.clu.key = true →
         Leaves s x i d 0 (after { old with setAt := s.clock + 1, joins := counted old.joins })) ∧
       (old.count c.clu.key ≠ 0 ∨ s.levelDone old c.clu.key = false →
         (set_.complete = false → Leaves s x i d 0 (after set_)) ∧
         (set_.complete = true → next.complete = false → ∃ (t : State) (y : Ctx), exec i s = .next t ∧ t.ctx? s.cur = some y ∧
           (d ≠ 0 → y.reg d = 0) ∧ (∀ r, r ≠ d → y.reg r = x.reg r) ∧ y.pc = x.pc + 4 ∧ t.mem = s.mem ∧
           (t.part c.part).barriers.get (Fin.ofNat 32 n) = next))))

/-- R387, R388, R391, R392, R398: an arrival that reaches its cluster's node is counted there once that cycle is over, those of one cycle in
the order of R215, or held there beyond the count; the arrival that makes the generation
complete ends it, counts the next one's held arrivals, and sends every arrival's context the release value: the generation's number, the
fold of the contributions by the operator up the tree, or MIXED; and a release that lands ends its context's wait. R404, R405: the control context of a core with a
failed journal entry, or of a cluster whose unit met a fault, takes the asynchronous trap between instructions when it may. -/
def Obligations.BarrierEventsAndAsynchronousTraps : Prop :=
  (∀ (s : State) (id n aid : Nat) (k : Packet) (u : CluId) (src : CtxId) (op : Option BredOp) (v : Word), s.pkt? id = some k →
    k.msg = .arrive u n aid src op v →
    let old := (s.part u.part).barriers.get (Fin.ofNat 32 n)
    let b := ({ old with held := amSet old.held u.key (amGet [] old.held u.key ++ [⟨aid, old.gen, src, op, v⟩]) } : Barrier).countHeld
    let next := ({ b with
      gen := b.gen + 1, counts := b.joins.foldl (fun m j => amSet m j.1 j.2) b.counts, joins := [], arrived := [] } : Barrier).countHeld
    ((s.part u.part).live = false → exec (.barrierArrival id) s = .next s) ∧
    ((s.part u.part).live = true → k.stage ≠ .ready → old.setAt ≠ s.clock + 1 →
      exec (.barrierArrival id) s = .next (s.modPkt id fun q => { q with stage := .ready, at_ := s.clock })) ∧
    ((s.part u.part).live = true → (k.stage ≠ .ready ∧ old.setAt = s.clock + 1) ∨ (k.stage = .ready ∧ s.clock ≤ k.at_) →
      exec (.barrierArrival id) s = .next s) ∧
    ((s.part u.part).live = true → k.stage = .ready → (∃ q ∈ s.net, q.arrivalAt u n = true ∧
        (q.at_ < k.at_ ∨ q.at_ = k.at_ ∧ lexLt q.arrivalPlace [src.core.pkg, src.core.vc, src.slot] = true)) →
      exec (.barrierArrival id) s = .next s) ∧
    ((s.part u.part).live = true → k.stage = .ready → k.at_ < s.clock → (∀ q ∈ s.net, q.arrivalAt u n = true →
        ¬(q.at_ < k.at_ ∨ q.at_ = k.at_ ∧ lexLt q.arrivalPlace [src.core.pkg, src.core.vc, src.slot] = true)) →
      (b.complete = false →
        exec (.barrierArrival id) s = .next ((s.dropPkt id).modPart u.part fun q => { q with barriers := q.barriers.set (Fin.ofNat 32 n) b })) ∧
      (b.complete = true → next.complete = false →
        ∃ t v, exec (.barrierArrival id) s = .next t ∧ t.mem = s.mem ∧ (t.part u.part).barriers.get (Fin.ofNat 32 n) = next ∧
          released s u.part b v ∧ ∀ a ∈ b.arrived.flatMap (·.2), ∀ x, s.ctx? a.src = some x → x.barPend = true → x.barId = a.id →
            t.ctx? a.src = some { x with released := some v }))) ∧
  (∀ (s : State) (c : CtxId) (x : Ctx) (v : Option Word), s.ctx? c = some x → x.released = some v → (s.part c.core.part).live = true →
    exec (.barrierRelease c) s = .next (s.putCtx c { x with
      barPend := false, released := none, lastv := v.getD x.lastv, mixed := x.mixed || v.isNone })) ∧
  (∀ (s : State) (c : CoreId) (x : Ctx) (k : Fin 64), s.ctx? { core := c, slot := 0 } = some x →
    (∀ j < k, ((s.core c).journal.get j).state ≠ 2) →
    (((s.core c).journal.get k).state = 2 → s.asyncReady { core := c, slot := 0 } x = true →
      Trapped s { core := c, slot := 0 } x (.journalTrap c) 0x14 (wd k.val)) ∧
    (s.asyncReady { core := c, slot := 0 } x = false → exec (.journalTrap c) s = .next s)) ∧
  ∀ (s : State) (u : CluId) (x : Ctx) (cause : Nat) (v : Word), s.ctx? { core := s.unitCore u, slot := 0 } = some x →
    s.unitPending { core := s.unitCore u, slot := 0 } = some (cause, v) → cause < 2 ^ 6 →
    (s.asyncReady { core := s.unitCore u, slot := 0 } x = true →
      Trapped s { core := s.unitCore u, slot := 0 } x (.taskUnitTrap u) cause v) ∧
    (s.asyncReady { core := s.unitCore u, slot := 0 } x = false → exec (.taskUnitTrap u) s = .next s)

/-! ### The journal, system registers and status branches -/

namespace Sys2Proof.Claims
open Sys2Proof.Machine

/-- The condition of BSTAT on a status word (R418). -/
def statHolds (n : Nat) (w : Word) : Bool :=
  if n < 8 then w.getLsbD n
  else if n < 16 then !w.getLsbD (n - 8)
  else
    let any (l : List Nat) : Bool := l.any fun i => w.getLsbD i
    match n with
    | 16 => any [0, 1, 2, 3, 4, 5, 6, 7] | 17 => !any [0, 1, 2, 3, 4, 5, 6, 7]
    | 18 => any [2, 3, 4] | 19 => !any [2, 3, 4]
    | 20 => w.toNat / 2 ^ 32 % 2 ^ 16 != 0 | 21 => w.toNat / 2 ^ 32 % 2 ^ 16 == 0
    | 22 => any [5, 6, 7] | _ => !any [5, 6, 7]

/-- The word of a journal entry that JRD reads (R417). -/
def journalWord (j : JEntry) (w : Nat) : Word :=
  if j.state = 0 then 0
  else if w = 0 then wd (j.cause * 2 ^ 56 + j.va % 2 ^ 56)
  else if w = 1 then wd (j.state * 2 ^ 62 + j.kind * 2 ^ 56 + (if j.fk then 2 ^ 53 else 0) + (if j.sgn then 2 ^ 52 else 0) +
    j.size * 2 ^ 48 + j.origin)
  else j.data

/-- What a register of a context reads, by its number (R412). -/
def contextWord (s : State) (x : Ctx) : Nat → Option Word
  | 0x000 => some x.tcause | 0x001 => some x.tval | 0x002 => some x.epc
  | 0x003 => some (wd ((if x.late then 16 else 0) + (if x.heldBit then 8 else 0) + x.epriv % 4 * 2 + (if x.inh then 1 else 0)))
  | 0x005 => some x.tsave0 | 0x006 => some x.tsave1
  | 0x011 => some (wd s.cur.core.vc) | 0x012 => some (x.fflags.setWidth 64) | 0x013 => some (x.frm.setWidth 64)
  | 0x014 => some x.srkey | 0x015 => some x.srctr
  | 0x016 => some (wd ((if x.rah then 2 ^ 15 else 0) + x.thresh % 256))
  | 0x019 => some (if x.swst then 1 else 0)
  | 0x01E => some (wd ((if x.barPend then 256 else 0) + x.barNo % 32))
  | 0x104 => some (s.core s.cur.core).winref | 0x106 => some (s.core s.cur.core).rlseq
  | 0x10F => some (s.core s.cur.core).netsel | 0x112 => some (s.core s.cur.core).orphan
  | 0x300 => some (s.part s.cur.core.part).tvec | 0x302 => some (s.part s.cur.core.part).atbl
  | 0x303 => some (s.part s.cur.core.part).uplog | 0x304 => some (s.part s.cur.core.part).spbase
  | 0x305 => some (s.part s.cur.core.part).spsize | 0x307 => some (s.part s.cur.core.part).pmctl
  | 0x400 => some (wd (s.clock / 4)) | 0xC00 => some (s.part s.cur.core.part).gsmark
  | _ => none

/-- The context after a write of one of its registers, by number (R79-R81, R126, R254, R400, R413). -/
def writtenContext (x : Ctx) (v : Word) : Nat → Option Ctx
  | 0x000 => some { x with tcause := v &&& 0x80000000000000FF }
  | 0x001 => some { x with tval := v } | 0x002 => some { x with epc := v }
  | 0x003 => some { x with late := v.getLsbD 4, heldBit := v.getLsbD 3, inh := v.getLsbD 0
                           epriv := if v.toNat / 2 % 4 ≤ x.priv.code then v.toNat / 2 % 4 else x.epriv }
  | 0x005 => some { x with tsave0 := v } | 0x006 => some { x with tsave1 := v }
  | 0x012 => some { x with fflags := v.setWidth 5 }
  | 0x013 => some (if v.toNat % 8 ≤ 4 then { x with frm := v.setWidth 3 } else x)
  | 0x014 => some { x with srkey := v } | 0x015 => some { x with srctr := v }
  | 0x016 => some { x with rah := v.getLsbD 15, thresh := v.toNat % 256 }
  | 0x019 => some { x with swst := v.getLsbD 0 }
  | _ => none

/-- A write of a system register keeps its core's issue slot for another cc, in which no other context issues (R92). -/
def slotKept (s : State) : State := s.modCore s.cur.core fun k => { k with solo := some (s.cur.slot, s.ccAfter s.cur.core 1) }

/-- The registers whose write is only a change of the state outside the context (R413). -/
def plainShared (r : SysReg) : Prop :=
  r.held ≠ .context ∧ r ≠ .taskcfg ∧ r ≠ .rccmd ∧ r ≠ .rcrst ∧ r ≠ .dbgdat ∧ r ≠ .dbgctl

end Sys2Proof.Claims

/-- R417-R419: JRD answers a word of a journal entry and clears a failed entry where asked; it raises Illegal for an operand out of range and
Context outside the control context. BSTAT reads a doubleword as a load, acquires, and branches to PC + offset * 4 where its condition holds
on the word, the context's next instruction then issuing 2 cc later (R92); an address that is not a multiple of 8 raises Alignment.
R412, R413: SYSRD of an assigned register writes its value, of an unassigned number raises Illegal, and of a supervisor's register at
program level Privilege. SYSWR writes the bits the register has, raises Illegal where the register cannot be written, Privilege at
too low a level, and Context where only the control context may write it; a write of DBGCTL takes effect from the next instruction
on; one of RCRST asks the ring unit of the core's cluster. DBGDAT asks the core of the selected context. One of TASKCFG reads its record,
and is ignored while the partition has a task (R144); one of RCCMD loads, stores or releases a block of the core's cluster (R360).
R92: no other context of the core issues in the cc after that of a SYSWR. -/
def Obligations.SystemRegistersJournalAndStatusAreRead : Prop :=
  (∀ (s : State) (x : Ctx) (d a cond : Reg) (off : BitVec 15), s.ctx? s.cur = some x → Ready s x [a, d] →
     let v := x.reg a
     let c := s.cur.core
     let n := v.toNat % 64
     let w := v.toNat / 64 % 4
     let j := (s.core c).journal.get (Fin.ofNat 64 n)
     (512 ≤ v.toNat ∨ w = 3 → Raises s x (.jrd d a) 2 (wordOf (.jrd d a))) ∧
     (v.toNat < 512 → w ≠ 3 → s.cur.slot ≠ 0 → Raises s x (.jrd d a) 10 (wordOf (.jrd d a))) ∧
     (v.toNat < 512 → w ≠ 3 → s.cur.slot = 0 →
       Leaves s x (.jrd d a) d (journalWord j w) (if v.getLsbD 8 && j.state == 2 then
         s.modCore c fun k => { k with journal := k.journal.set (Fin.ofNat 64 n) default } else s)) ∧
     (v.toNat % 8 ≠ 0 → Raises s x (.bstat cond a off) 1 v) ∧
     ∀ l u b t, v.toNat % 8 = 0 → s.resolve c (.data c) (some (.ctx s.cur x.icount)) .read x.priv v.toNat 8 = (.ok l, u) → u.cur = s.cur →
       x.moving = none → x.tried = [] → Stays x c l → Reads (ctxRead s.cur (counted x c l) false l.va 8) u b t →
       exec (.bstat cond a off) s = .next (if statHolds cond.val (wd (leNat b)) then
           issued t x (jumped t (acquired (counted x c l))) (x.pc + off.signExtend 64 * 4)
         else issued t x (acquired (counted x c l)) (x.pc + 4))) ∧
  (∀ (s : State) (x : Ctx) (d a : Reg) (n : BitVec 12), s.ctx? s.cur = some x → Ready s x [a, d] →
     let rd := Instr.sysrd d n
     let wr := Instr.syswr n a
     let v := x.reg a
     (sysOfNat n.toNat = none → Raises s x rd 2 (wordOf rd)) ∧
     (∀ r, sysOfNat n.toNat = some r →
       (r.readLevel = .sup → x.priv = .program → Raises s x rd 3 (wordOf rd)) ∧
       (r.readLevel ≠ .sup ∨ x.priv ≠ .program →
         (r ≠ .dbgdat → ∃ w, Answers s x rd d w ∧ s.readReg s.cur r = some w ∧ (∀ u, contextWord s x n.toNat = some u → w = u)) ∧
         (let t := dbgTarget s.cur.core.part (s.core s.cur.core).dbgsel
          r = .dbgdat →
           (s.hasCore t.core = false ∨ 11 ≤ t.slot → Answers s x rd d 0) ∧
           (s.hasCore t.core = true → t.slot < 11 → ∃ (u : State) (y : Ctx) (k : Packet), exec rd s = .next u ∧ k ∈ u.net ∧ k.dst = .core t.core ∧
             k.msg = .dbg s.cur y.accCtr t ((s.core s.cur.core).dbgsel.toNat % 2 ^ 13) none ∧ u.ctx? s.cur = some y ∧
             y.regs = x.regs ∧ y.pc = x.pc + 4 ∧ u.mem = s.mem)))) ∧
     ((sysOfNat n.toNat).bind SysReg.writeLevel = none → Raises s x wr 2 (wordOf wr)) ∧
     ∀ r lvl, sysOfNat n.toNat = some r → r.writeLevel = some lvl →
       (lvl = .sup ∧ x.priv = .program ∨ lvl = .fw ∧ x.priv ≠ .firmware → Raises s x wr 3 (wordOf wr)) ∧
       (lvl = .ctl → s.cur.slot ≠ 0 → Raises s x wr 10 (wordOf wr)) ∧
       ((lvl = .sup → x.priv ≠ .program) → (lvl = .fw → x.priv = .firmware) → (lvl = .ctl → s.cur.slot = 0) →
         (r.held = .context → ∃ y, exec wr s = .next (issued (slotKept s) x y (x.pc + 4)) ∧ y.regs = x.regs ∧
           ∀ z, writtenContext x v n.toNat = some z → y = z) ∧
         (plainShared r → exec wr s = .next (issued (slotKept (s.writeShared s.cur r v)) x x (x.pc + 4))) ∧
         (r = .dbgctl → exec wr s = .next ((issued (slotKept s) x x (x.pc + 4)).modSlot s.cur fun l =>
           { l with brken := v.getLsbD 1, step := v.getLsbD 0 })) ∧
         (let t := dbgTarget s.cur.core.part (s.core s.cur.core).dbgsel
          r = .dbgdat →
           (s.hasCore t.core = false ∨ 11 ≤ t.slot → exec wr s = .next (issued (slotKept s) x x (x.pc + 4))) ∧
           (s.hasCore t.core = true → t.slot < 11 → ∃ (u : State) (y : Ctx) (k : Packet), exec wr s = .next u ∧ k ∈ u.net ∧ k.dst = .core t.core ∧
             k.msg = .dbg s.cur y.accCtr t ((s.core s.cur.core).dbgsel.toNat % 2 ^ 13) (some v) ∧ u.ctx? s.cur = some y ∧
             y.regs = x.regs ∧ y.pc = x.pc + 4 ∧ u.mem = s.mem)) ∧
         (r = .taskcfg →
           ((s.part s.cur.core.part).tasks ≠ [] → exec wr s = .next (issued (slotKept s) x x (x.pc + 4))) ∧
           ((s.part s.cur.core.part).tasks = [] → ∀ b u, Reads (ctxRead s.cur x false (v &&& 0x00FFFFFFFFFFFFC0).toNat 64) s b u → u.cur = s.cur →
             exec wr s = .next (issued (slotKept (u.applyTaskcfg s.cur.core.part v b)) x x (x.pc + 4)))) ∧
         (let k := v.toNat / 2 ^ 62
          let va := v.toNat / 64 % 2 ^ 50 * 64
          let ix := v.toNat % 64
          let w := s.cur.core.clu
          r = .rccmd →
           (k = 0 → ∀ b u, Reads (ctxRead s.cur x false va 64) s b u → u.cur = s.cur →
             (u.opsThere w = true → exec wr s = .next s) ∧
             (u.opsThere w = false →
               (∀ g, blockOf ix b = some g → exec wr s = .next (issued (slotKept (u.setBlock w ix g)) x x (x.pc + 4))) ∧
               (blockOf ix b = none → Raises s x wr 5 (wd va)))) ∧
           (k = 1 → ∀ g l u, amGet? (s.cluster w).blocks ix = some g → va % 64 = 0 →
             s.resolve s.cur.core (.data s.cur.core) (some (.ctx s.cur x.icount)) .write x.priv va 64 = (.ok l, u) → u.cur = s.cur →
             Quiet u s.cur x → Stays x s.cur.core l → Settled u l.home l.pa 64 → l.home = .core s.cur.core → l.repl = none →
             u.holders s.cur.core l.pa 64 = [] → ∃ (t : State) (y : Ctx), exec wr s = .next t ∧ t.mem = Memory.writeN u.mem l.pa g.image ∧
               t.ctx? s.cur = some y ∧ y.regs = x.regs ∧ y.pc = x.pc + 4) ∧
           (k = 2 → exec wr s = .next (issued (slotKept (s.modCluster w fun c => { c with blocks := amErase c.blocks ix })) x x (x.pc + 4))) ∧
           (k = 3 → exec wr s = .next (issued (slotKept s) x x (x.pc + 4)))) ∧
         (r = .rcrst → x.task = none → x.out = [] → ∃ (u : State) (k : Packet) (acc : Nat), exec wr s = .next u ∧ u.mem = s.mem ∧ k ∈ u.net ∧
           k.src = .core s.cur.core ∧ k.dst = .ring s.cur.core.clu ∧
           k.msg = .ringReq s.cur acc (v.toNat % 64) s.cur.core.clu .rst)))

/-- R144, R184, R187, R192, R194, R207, R231, R340, R411, R413, R425, R461: a write of each of these registers keeps the bits the register
has; a window judges the requests that reach its home from then on, and those there already stay judged as it was; L2CFG writes the slice back
and zeroes the bytes that pass into local memory; UPLOG is ignored while a log holds a record, and the publish region's registers
while a shadow or job is outstanding; TASKCFG reads its record; GSMARK is kept for the next slice while the partition is out, and where the mark is due; the
debugger's commands halt a context, one that is about to raise a fault after its entry (R420), and resume it, and its message reads or writes a register of a halted one. -/
def Obligations.RegisterEventsTakeEffect : Prop :=
  (∀ (s : State) (c : CtxId) (x : Ctx) (n : BitVec 12) (r : SysReg) (v : Word), s.ctx? c = some x → sysOfNat n.toNat = some r →
    (r.held = .context → ∃ y t, exec (.registerWrite c n v) s = .next t ∧ t.ctx? c = some y ∧ t.mem = s.mem ∧
      ∀ z, writtenContext x v n.toNat = some z → y = z) ∧
    (∀ b u, (s.part c.core.part).tasks = [] →
      Reads (ctxRead c x false (v &&& 0x00FFFFFFFFFFFFC0).toNat 64) { s with cur := c } b u → u.cur = c →
      ∃ t, exec (.taskcfgWrite c v) s = .next t ∧ (t.part c.core.part).taskcfg = v &&& 0x00FFFFFFFFFFFFC0 ∧
        (t.part c.core.part).tcfg = taskCfgOf b)) ∧
  (∀ (s : State) (p : Nat) (v : Word), p < 16 →
    exec (.atblWrite p v) s = .next (s.modPart p fun q => { q with atbl := v &&& 0xFFFFFFFFFFFFF001 }) ∧
    ((∀ k ∈ s.cores, (coreOfKey k.1).part = p → k.2.logCount = 0) →
      exec (.uplogWrite p v) s = .next (s.modPart p fun q => { q with uplog := v &&& 0x00FFFFFFFFFF00FF })) ∧
    ((∃ k ∈ s.cores, (coreOfKey k.1).part = p ∧ k.2.logCount ≠ 0) → exec (.uplogWrite p v) s = .next s) ∧
    ((s.part p).phase = .inSlice ∧ ((s.part p).gsmark = 0 ∨ s.gtime < markAt (s.part p).gsmark) →
      exec (.gsmarkWrite p v) s = .next (s.modPart p fun q => { q with gsmark := v })) ∧
    ((s.part p).phase ≠ .inSlice ∨ (s.part p).gsmark ≠ 0 ∧ markAt (s.part p).gsmark ≤ s.gtime → exec (.gsmarkWrite p v) s = .next (s.modPart p fun q => { q with gsmarkHeld := some v })) ∧
    (∀ size, (s.part p).shadows ≠ [] ∨ (∃ j ∈ s.jobs, j.issuer.core.part = p) → exec (.publishRegionWrite p size v) s = .next s) ∧
    ((s.part p).shadows = [] → (∀ j ∈ s.jobs, j.issuer.core.part ≠ p) →
      (∃ t, exec (.publishRegionWrite p true v) s = .next t ∧ (t.part p).spsize = v &&& 0x0000FFFFFFFFFFFF) ∧
      ∃ t, exec (.publishRegionWrite p false v) s = .next t ∧ (t.part p).spbase = v &&& 0x000FFFFFFFF80000)) ∧
  (∀ (s : State) (c : CoreId) (v : Word),
    (∀ n, ∃ t : State, exec (.windowWrite c n v) s = .next (t.modCore c fun k => { k with win := k.win.set n (v &&& 0xFC0000001FFF1FFF) }) ∧
      t = { s with net := t.net } ∧ ∀ k ∈ s.net, ∀ r, k.msg = .req r → k.stage = .ready → r.home = .core c → k.dst = .core c → k.at_ < s.clock →
        k.judged = none → { k with judged := some (s.refused r.src.core r.home r.op.perm r.pa r.op.bytes) } ∈ t.net) ∧
    (s.logCore c < 2048 → Memory.wf s.mem = true → ∃ t, exec (.l2cfgWrite c v) s = .next t ∧ (t.core c).l2size = v.toNat % 16 ∧
      (∀ i, s.l2Base c ≤ i → i < t.l2Base c → Memory.read t.mem (s.storePa c i) = 0 ∧ t.openAt (s.storePa c i) = false ∧
        t.poisoned (s.storePa c i) 1 = false) ∧
      (s.eff c ≠ t.eff c → ∀ d ∈ t.dirty, d.2 ≠ .core c) ∧
      ∀ a, (∀ i, s.l2Base c ≤ i → i < t.l2Base c → a ≠ s.storePa c i) → Memory.read t.mem a = Memory.read s.mem a)) ∧
  (∀ (s : State) (g : Nat) (v : Word),
    exec (.pwrcapWrite g v) s = .next (s.modPkg g fun k =>
      if 1000 ≤ v.toNat % 4096 ∧ v.toNat % 4096 ≤ 2500 then { k with pwrcap := v.toNat % 4096 } else k)) ∧
  (∀ (s : State) (c : CtxId) (x : Ctx), s.ctx? c = some x → c.slot < 11 →
    ((s.slot c).halted = false → x.faultWaits = true → exec (.debugHalt c) s = .next (s.putCtx c { x with haltReq := true })) ∧
    ((s.slot c).halted = false → x.faultWaits = false → ∃ t, exec (.debugHalt c) s = .next t ∧ (t.slot c).halted = true ∧ (t.slot c).reason = 3 ∧ t.mem = s.mem) ∧
    ((s.slot c).halted = true → exec (.debugResume c) s = .next (s.modSlot c fun l => { l with halted := false }) ∧
      ∃ t, exec (.debugResumeOne c) s = .next t ∧ (t.slot c).halted = false ∧ t.ctx? c = some { x with stepOne := true } ∧ t.mem = s.mem)) ∧
  ∀ (s : State) (id acc reg : Nat) (k : Packet) (src c : CtxId) (x : Ctx), s.deliverable id = some k → s.ctx? c = some x →
    let value : Word := if (s.slot c).halted = false then 0
      else if reg < 0x1000 then ((sysOfNat reg).bind fun r => s.readReg c r).getD 0
      else if reg < 0x1020 then x.reg (Fin.ofNat 32 reg) else if reg = 0x1020 then x.pc else 0
    (k.msg = .dbg src acc c reg none → exec (.dbgdat id) s =
      .next ((s.dropPkt id).send k.part 1 (.core c.core) (.core src.core) 0 (.data src acc false (toBytes value.toNat 8)))) ∧
    ∀ v, k.msg = .dbg src acc c reg (some v) → (s.slot c).halted = true → 0x1000 ≤ reg → reg ≤ 0x1020 →
      exec (.dbgdat id) s = .next (((s.dropPkt id).putCtx c (if reg < 0x1020 then x.setReg (Fin.ofNat 32 reg) v
        else { x with pc := v, waitBar := x.waitBar.filter (· == v) })).send k.part 1 (.core c.core) (.core src.core) 0 (.ack src acc))

/-! ### Invalidations and walks -/

namespace Sys2Proof.Claims
open Sys2Proof.Machine

/-- What a leaf permits an access of a kind at a level (R235). -/
def permitted (e : Tlb) (k : TKind) (p : Priv) : Prop :=
  (p = .program → e.u = true) ∧ (p ≠ .program → k = .fetch → e.u = false) ∧ (k = .read ∨ k = .rw → e.r = true) ∧
  (k = .write ∨ k = .rw → e.w = true) ∧ (k = .fetch → e.x = true)

end Sys2Proof.Claims

/-- R243-R245: TLBINV at supervisor level rounds its address down to a page, sends one invalidation to every agent that serves a core of its
scope, and goes on; an operand out of range raises Illegal, and no pages asked for nothing is sent; it waits for the context to drain
and for one of four trackers. TLBSYNC waits until every invalidation the context sent has been acknowledged. Both raise Privilege at
program level.
R235-R237, R241, R244, R247: an invalidation that reaches an agent takes the translations it covers out of that agent's structures
and begins to drain, and the agent acknowledges once the accesses made through the old mapping have been performed; the last
acknowledgement ends it. A walk that has one of its cluster's walkers asks for its next entry, unless a publish holds its page back (R343); a
valid table entry moves it one level down, and a leaf, an absent or a bad entry, or a read that fails, ends it for those that wait for it, a leaf also
every other walk of the same page.
R233-R235: an access whose walk has ended raises Page Fault where the entry was absent, Table Error where it was bad, the cause of a failed
read, and Protection where the leaf does not permit it; a leaf that does is installed and translates it. -/
def Obligations.InvalidationsAreSentPerformedAndAwaited : Prop :=
  (∀ (s : State) (x : Ctx) (a b : Reg) (sc : Scope), s.ctx? s.cur = some x → Ready s x [a, b] →
     let i := Instr.tlbinv a b sc
     let c := s.cur.core
     let v := (x.reg b).toNat
     let lo := (x.reg a).toNat / 524288 * 524288
     (x.priv = .program → Raises s x i 3 (wordOf i) ∧ Raises s x (.tlbsync sc) 3 (wordOf (.tlbsync sc))) ∧
     (x.priv ≠ .program →
       (v / 2 ^ 37 % 2 ^ 9 ≠ 0 → Raises s x i 2 (wordOf i)) ∧
       (v / 2 ^ 37 % 2 ^ 9 = 0 → x.out ≠ [] → exec i s = .next s) ∧
       (v / 2 ^ 37 % 2 ^ 9 = 0 → x.out = [] → s.nbrLanded c = true →
         (v / 2 ^ 46 % 4 < 2 → v % 2 ^ 37 = 0 → exec i s = .next (issued s x x (x.pc + 4))) ∧
         (¬(v / 2 ^ 46 % 4 < 2 ∧ v % 2 ^ 37 = 0) → 4 ≤ (s.invals.filter fun k => k.core == some c).length → exec i s = .next s) ∧
         (¬(v / 2 ^ 46 % 4 < 2 ∧ v % 2 ^ 37 = 0) → (s.invals.filter fun k => k.core == some c).length < 4 →
           ∃ (t : State) (k : Inval), exec i s = .next (issued t x { x with trackers := x.trackers ++ [k.id] } (x.pc + 4)) ∧ t.mem = s.mem ∧
             t.invals = s.invals ++ [k] ∧ k.part = c.part ∧ k.mode = v / 2 ^ 46 % 4 ∧ k.asid = v / 2 ^ 48 ∧ k.lo = lo ∧
             k.hi = min (lo + v % 2 ^ 37 * 524288) 0x00FE000000000000 ∧ k.core = some c ∧ k.publish = none ∧
             k.agents = s.invAgents (s.instance_ c sc))) ∧
       ((∃ n ∈ x.trackers, ∃ k ∈ s.invals, k.id = n) → exec (.tlbsync sc) s = .next s) ∧
       ((∀ n ∈ x.trackers, ∀ k ∈ s.invals, k.id ≠ n) →
         (scWide sc = false → exec (.tlbsync sc) s = .next (issued s x { x with trackers := [] } (x.pc + 4))) ∧
         (scWide sc = true → s.nbrLanded c = true → exec (.tlbsync sc) s =
           .next (issued s x { x.refetchAll with trackers := [], ldAfterAll := x.accCtr, stAfterAll := x.accCtr } (x.pc + 4)))))) ∧
  ((∀ (s : State) (id g : Nat) (q : Inval) (ag : InvAgent) (st : InvStage), s.invals.find? (fun k => k.id == id) = some q →
     q.agents[g]? = some (ag, st) →
     (st ≠ .sent → exec (.tlbInvalidation id g) s = .next s) ∧
     (st = .sent → ∃ t, exec (.tlbInvalidation id g) s = .next t ∧ t.mem = s.mem ∧
       (∃ y n, t.invals.find? (fun k => k.id == id) = some y ∧ y.agents[g]? = some (ag, .draining n) ∧ s.nextId ≤ n) ∧
       (∀ c, ag = .core c → ((t.core c).dtlb = (s.core c).dtlb.filter fun e => !q.hits e) ∧
         (t.core c).itlb = (s.core c).itlb.filter fun e => !q.hits e) ∧
       (∀ u, ag = .clu u → (t.cluster u).tlb = ((s.cluster u).tlb.filter fun e => !q.hits e) ∧
         ∀ w ∈ t.walks, w.clu = u → q.coversWalk w = true → w.lvl = 0 ∧ w.table = w.root ∧ w.asked = false ∧ w.done = none) ∧
       ∀ p, ag = .engines p → ∀ e ∈ t.etlbs, e.pkg = p → ∀ y ∈ e.tlb, q.hits y = false) ∧
     (∀ n, st = .draining n → s.invDrained q n ag = false → exec (.invalidationAck id g) s = .next s) ∧
     (∀ n, st = .draining n → s.invDrained q n ag = true →
       let y : Inval := { q with agents := q.agents.set g (ag, .acked) }
       ((∀ k ∈ y.agents, k.2 = .acked) → q.publish = none →
         exec (.invalidationAck id g) s = .next { s.invCrossed q true ag with invals := s.invals.filter fun k => k.id != id }) ∧
       ((∃ k ∈ y.agents, k.2 ≠ .acked) ∨ q.publish ≠ none →
         exec (.invalidationAck id g) s = .next { s.invCrossed q true ag with invals := s.invals.map fun k => if k.id == id then y else k }))) ∧
   (∀ (s : State) (w : Walk), s.walks.find? (fun k => k.id == w.id) = some w →
     let pa := w.table + levelIndex w.lvl w.va * 8
     (s.walking w = false ∨ w.asked = true ∨ s.heldBack w.clu.part (.clu w.clu) w.va = true → exec (.tableWalk w.id) s = .next s) ∧
     ∀ g, s.walking w = true → w.asked = false → s.heldBack w.clu.part (.clu w.clu) w.va = false → amGet? s.pkgs (pa / 2 ^ 46) = some g → pa % 2 ^ 46 < g.hbmTop →
       (∀ x, s.ctx? { core := w.core, slot := 0 } = some x → s.buffersHeld { core := w.core, slot := 0 } x < 128 →
         ∃ (t : State) (k : Packet) (r : Req), exec (.tableWalk w.id) s = .next t ∧ k ∈ t.net ∧ k.src = .core w.core ∧
           k.dst = .llc (pa / 2 ^ 46) (s.sliceOf pa) ∧ k.msg = .req r ∧ r.op = .load 8 ∧ r.pa = pa ∧ r.via = .walk w.id w.core ∧ t.mem = s.mem ∧
           t.walks = s.walks.map fun y => if y.id == w.id then { y with asked := true } else y)) ∧
   (∀ (s : State) (id : Nat) (k : Packet) (w : Walk) (c : CoreId) (b : List Byte), s.deliverable id = some k →
     k.msg = .jdata (.walk w.id c) w.lvl false b → s.walks.find? (fun k => k.id == w.id) = some w → w.asked = true →
     (∀ n u, (s.dropPkt id).walkEntry w.clu.part w.asid w.va w.lvl (wd (leNat b)) = (.inl n, u) → exec (.replyLands id) s =
       .next { u with walks := u.walks.map fun y => if y.id == w.id then { y with asked := false, lvl := w.lvl + 1, table := n } else y }) ∧
     (∀ r u, (s.dropPkt id).walkEntry w.clu.part w.asid w.va w.lvl (wd (leNat b)) = (.inr r, u) → ∃ t, exec (.replyLands id) s = .next t ∧
       t.mem = u.mem ∧ (∀ y ∈ t.walks, y.id = w.id → y.done = some r) ∧ (w.by_ ≠ [] → ∃ y ∈ t.walks, y.id = w.id ∧ y.by_ = w.by_) ∧
       ∀ e, r = .leaf e → ∀ y ∈ s.walks, y.id ≠ w.id → y.clu = w.clu → y.asid = w.asid → y.done = none → e.va ≤ y.va → y.va < e.va + 2 ^ e.bits →
         { y with asked := false, done := some r } ∈ t.walks)) ∧
   (∀ (s : State) (id cause : Nat) (k : Packet) (w : Walk) (c : CoreId), s.deliverable id = some k →
     k.msg = .jnack (.walk w.id c) w.lvl cause → s.walks.find? (fun k => k.id == w.id) = some w → w.asked = true → cause ≠ 7 →
     ∃ t, exec (.negativeAcknowledgement id) s = .next t ∧ t.mem = s.mem ∧ ∀ y ∈ t.walks, y.id = w.id → y.done = some (.failed cause)) ∧
   (∀ (s : State) (c : CoreId) (b : Waiter) (w : Walk) (r : WalkRes) (k : TKind) (p : Priv) (va : Nat),
     let atbl := (s.part c.part).atbl
     let asid := atbl.toNat / 2 ^ 48
     let got := s.translate (.data c) (some b) k p va
     atbl.getLsbD 0 = true → s.heldBack c.part (.core c) va = false → s.heldBack c.part (.clu c.clu) va = false →
     (∀ e ∈ (s.core c).dtlb, e.serves c.part asid va = false) → (∀ e ∈ (s.cluster c.clu).tlb, e.serves c.part asid va = false) →
     s.walks.find? (fun x => x.clu == c.clu && x.asid == asid && x.va / 2 ^ 19 == va / 2 ^ 19 && x.by_.contains b && x.done.isSome) = some w →
     w.done = some r →
     (r = .absent → got.1 = .fault 0x10) ∧ (r = .bad → got.1 = .fault 0x12) ∧ (∀ f, r = .failed f → got.1 = .fault f) ∧
     ∀ e, r = .leaf e →
       (s.staleWalk (.core c) w e = true → got.1 = .miss) ∧
       (s.staleWalk (.core c) w e = false →
         (¬permitted e k p → got.1 = .fault 0x11) ∧
         (permitted e k p → got.1 = .ok e ∧ e ∈ (got.2.core c).dtlb ∧ e ∈ (got.2.cluster c.clu).tlb))) ∧
   ∀ (s : State) (part asid va lv : Nat) (e : Word),
     (e.getLsbD 0 = true → s.badEntry lv e = false → e.getLsbD 1 = true →
       let frame := e.toNat / 2 ^ 19 % 2 ^ 33 * 2 ^ 19
       let bits := if lv = 1 then 30 else if lv = 2 then 25 else 19
       ((s.part part).inMapOrPool frame = true → (s.walkEntry part asid va lv e).1 = .inr .bad) ∧
       ((s.part part).inMapOrPool frame = false → (s.part part).nameOf frame = none → (s.walkEntry part asid va lv e).1 = .inr (.leaf
         { part := part, asid := asid, va := va / 2 ^ bits * 2 ^ bits, bits := bits, pa := frame, name := none, home := e.toNat / 2 ^ 6 % 4
           hopnd := e.toNat / 2 ^ 52 % 2 ^ 11, rah := e.getLsbD 8, u := e.getLsbD 5, x := e.getLsbD 4, w := e.getLsbD 3, r := e.getLsbD 2 }))) ∧
     (e.getLsbD 0 = false → (s.walkEntry part asid va lv e).1 = .inr .absent) ∧
     (e.getLsbD 0 = true → s.badEntry lv e = true → (s.walkEntry part asid va lv e).1 = .inr .bad) ∧
     (e.getLsbD 0 = true → s.badEntry lv e = false → e.getLsbD 1 = false →
       (s.walkEntry part asid va lv e).1 = .inl (e.toNat / 2 ^ 8 % 2 ^ 44 * 256)))

/-! ### The context image, remap tables, mailboxes and the host's window -/

/-- R430-R432: CTXSV writes the image of a halted helper that has drained, at its address in the core's own store, and answers 0; a slot that
holds none answers 1. CTXLD starts a halted helper from an image in a free slot with room for its grants and its streams and answers 0; a slot in
use, or no room for either, answers 1, and an image that breaks a rule or names a stream that cannot be bound 2. Both write s0 to no effect
and open a lookahead window with their count (R29, R50). Both raise Privilege at program level, Illegal for a slot that is no helper's and
Alignment for an address that is not a multiple of 64. The order of the failures, what else makes an image bad, the place of VCTL, the free fields of an
image and the level of its descriptors are the model's reading (logs 85-88, 142). -/
def Obligations.ContextImagesAreSavedAndLoaded : Prop :=
  ∀ (s : State) (x : Ctx) (d a b : Reg) (la : Fin 16), s.ctx? s.cur = some x → Ready s x [a, b, d] →
    let sv : Instr := .ctxsv d a b la
    let ld : Instr := .ctxld d a b la
    let n := (x.reg b).toNat
    let va := (x.reg a).toNat
    let h : CtxId := { s.cur with slot := n }
    let off := va - 0x00FE000000000000
    let pa := s.storePa s.cur.core off
    let near := 0x00FE000000000000 ≤ va ∧ off + 8192 ≤ 2 ^ 20 ∧ va % 64 = 0 ∧ s.logCore s.cur.core < 2048
    let goesOn (i : Instr) (v : Word) (t : State) : Prop := ∃ y, exec i s = .next t ∧ t.ctx? s.cur = some y ∧ (d ≠ 0 → y.reg d = v) ∧
      (∀ r, r ≠ d → y.reg r = x.reg r) ∧ y.pc = x.pc + 4 ∧
      (la ≠ 0 → d ≠ 0 → ∃ w ∈ y.windows, w.dest = d ∧ w.left = la.val ∧ w.pc = x.pc)
    (x.priv = .program → Raises s x sv 3 (wordOf sv) ∧ Raises s x ld 3 (wordOf ld)) ∧
    (x.priv ≠ .program →
      (n = 0 ∨ 10 < n → Raises s x sv 2 (wordOf sv) ∧ Raises s x ld 2 (wordOf ld)) ∧
      (1 ≤ n → n ≤ 10 → va % 64 ≠ 0 → Raises s x sv 1 (x.reg a) ∧ Raises s x ld 1 (x.reg a)) ∧
      (1 ≤ n → n ≤ 10 → near → Quiet s s.cur x → x.reads = [] → Settled s (.core s.cur.core) pa 8192 →
        (s.ctx? h = none ∨ (s.slot h).halted = false ∨ ((s.slot h).state ≠ .held ∧ (s.slot h).state ≠ .guest) →
          ∃ t, goesOn sv 1 t ∧ t.mem = s.mem) ∧
        (∀ z, s.ctx? h = some z → (s.slot h).halted = true → (s.slot h).state = .held ∨ (s.slot h).state = .guest → s.quiet h z = true →
          ∃ t, goesOn sv 0 t ∧ t.mem = Memory.writeN s.mem pa ((s.ctxImage h z false (toBytes 0 56) 0).take 8192)) ∧
        let img := Memory.readN s.mem pa 8192
        ((s.slot h).state ≠ .free → ∃ t, goesOn ld 1 t ∧ t.mem = s.mem) ∧
        ((s.slot h).state = .free → imageBad x.priv img = true → ∃ t, goesOn ld 2 t ∧ t.mem = s.mem) ∧
        (let y : Ctx := { (Ctx.blank s.cur.core n .held).fromImage img with opkg := s.cur.core.pkg, ovc := s.cur.core.vc, oslot := n }
         let u := s.ownDone s.cur.core
         (∀ e, (s.slot h).state = .free → imageBad x.priv img = false → (imgStreams ld y img).run (start u x) = .ok (none, e) → e.st = u → e.cx = x →
          ∃ t, goesOn ld 2 t ∧ t.mem = s.mem) ∧
         ∀ ts e, (s.slot h).state = .free → imageBad x.priv img = false → (imgStreams ld y img).run (start u x) = .ok (some ts, e) →
          e.st = u → e.cx = x → Apart h s.cur →
          let z : Ctx := { y with streams := ts }
          (z.grant / 8 + ((s.core s.cur.core).vpResv - s.vheld0 s.cur x) ≤ s.vfree s.cur x →
            z.qslots + ((s.core s.cur.core).qsResv - s.qheld0 s.cur x) ≤ s.qfreeSlots s.cur x →
            ∃ t, goesOn ld 0 t ∧ t.mem = s.mem ∧ (t.slot h).state = .held ∧ (t.slot h).halted = true ∧ (t.slot h).reason = 3 ∧
              t.ctx? h = some z) ∧
          (s.vfree s.cur x < z.grant / 8 + ((s.core s.cur.core).vpResv - s.vheld0 s.cur x) ∨
            s.qfreeSlots s.cur x < z.qslots + ((s.core s.cur.core).qsResv - s.qheld0 s.cur x) → ∃ t, goesOn ld 1 t ∧ t.mem = s.mem))))

/-- R430, R431, R433, R436, R438, R439, R442, R443: RMAPW stages a remap entry of its own partition, or at firmware level of any, and answers
0; else 3. MBRD takes the oldest inbound message to its address and answers how many are left, and waits while there is none, and in the very
cycle of a post (R447); MBWR
appends its message to the outbound mailbox, or queues it in a speculative task. The host posts a message where the partition is formed and
has room, takes the oldest outbound one, and clears events. By the model's reading a number no cluster or package has names nothing (log 96), waiting readers
stand in a queue with their PC (log 78), and the store of MBRD is performed in its step (log 141). -/
def Obligations.RemapEntriesAndMailboxes : Prop :=
  (∀ (s : State) (x : Ctx) (d a b : Reg) (la : Fin 16), s.ctx? s.cur = some x → Ready s x [a, b, d] →
    let i : Instr := .rmapw d a b la
    let sel := (x.reg a).toNat
    let p := s.cur.core.part
    let opened (y : Ctx) : Ctx := if la ≠ 0 ∧ d ≠ 0 then
      { y with windows := y.windows ++ [{ dest := d, left := la.val, pc := y.pc, acc := y.icount + 1 }] } else y
    let bad := sel / 2 ^ 62 = 3 ∨ x.reg a &&& ~~~(0xCF000000000007FF#64) ≠ 0 ∨ x.reg b &&& ~~~(0x80000000000007FF#64) ≠ 0
    (x.priv = .program → Raises s x i 3 (wordOf i)) ∧
    (x.priv ≠ .program → bad → Raises s x i 2 (wordOf i)) ∧
    (x.priv ≠ .program → ¬bad → x.priv ≠ .firmware → sel / 2 ^ 56 % 16 ≠ p →
      exec i s = .next (issued s x (opened (x.setReg d 3)) (x.pc + 4))) ∧
    (x.priv ≠ .program → ¬bad → x.priv = .firmware ∨ sel / 2 ^ 56 % 16 = p →
      exec i s = .next (issued (s.modPart (sel / 2 ^ 56 % 16) fun q => q.stage (sel / 2 ^ 62) (sel % 2 ^ 11)
        (if (x.reg b).getLsbD 63 then some ((x.reg b).toNat % 2 ^ 11) else none)) x (opened (x.setReg d 0)) (x.pc + 4)))) ∧
  (∀ (s : State) (x : Ctx) (d a : Reg) (la : Fin 16), s.ctx? s.cur = some x → Ready s x [a, d] →
    let i : Instr := .mbrd d a la
    let va := (x.reg a).toNat
    let off := va - 0x00FE000000000000
    let pa := s.storePa s.cur.core off
    let q := s.part s.cur.core.part
    (s.cur.slot ≠ 0 → Raises s x i 10 (wordOf i)) ∧
    (s.cur.slot = 0 → va % 64 ≠ 0 → Raises s x i 1 (x.reg a)) ∧
    (s.cur.slot = 0 → va % 64 = 0 → 0x00FE000000000000 ≤ va → off + 64 ≤ s.l2Base s.cur.core → s.l2Base s.cur.core ≤ 2 ^ 20 →
      s.clock < q.postAt → exec i s = .next s) ∧
    (s.cur.slot = 0 → va % 64 = 0 → 0x00FE000000000000 ≤ va → off + 64 ≤ s.l2Base s.cur.core → s.l2Base s.cur.core ≤ 2 ^ 20 →
      Quiet s s.cur x → q.mbWait = [] → q.postAt ≤ s.clock → Settled s (.core s.cur.core) pa 64 →
      (q.inbox = [] → ∃ t, exec i s = .next t ∧ t.ctx? s.cur = some x ∧ t.mem = s.mem ∧
        (t.part s.cur.core.part).mbWait = [(s.cur, x.pc)]) ∧
      ∀ m rest, q.inbox = m :: rest → m.length = 64 → ∃ (t : State) (y : Ctx), exec i s = .next t ∧ t.mem = Memory.writeN s.mem pa m ∧
        (t.part s.cur.core.part).inbox = rest ∧ t.ctx? s.cur = some y ∧ (d ≠ 0 → y.reg d = wd rest.length) ∧
        (∀ r, r ≠ d → y.reg r = x.reg r) ∧ y.pc = x.pc + 4)) ∧
  (∀ (s u : State) (x : Ctx) (a : Reg) (m : List Byte), s.ctx? s.cur = some x → Ready s x [a] →
    let i : Instr := .mbwr a
    let p := s.cur.core.part
    ((x.reg a).toNat % 64 ≠ 0 → Raises s x i 1 (x.reg a)) ∧
    ((x.reg a).toNat % 64 = 0 → Reads (ctxRead s.cur x false (x.reg a).toNat 64) s m u → u.cur = s.cur →
      (u.speculative p x = false → x.out = [] → u.nbrLanded s.cur.core = true → (u.part p).outbox.length < 256 → (u.part p).outHeld = [] →
        ∃ t, exec i s = .next (issued t x x (x.pc + 4)) ∧ (t.part p).outbox = (u.part p).outbox ++ [m] ∧ t.mem = u.mem) ∧
      (u.speculative p x = false → 256 ≤ (u.part p).outbox.length → exec i s = .next s) ∧
      ∀ t, u.task? p x.task = some t → t.settled = false → t.actions.length < 8 →
        exec i s = .next (issued (u.modTask p t.id fun t => { t with actions := t.actions ++ [(u.nextId, .mbwr m)] }) x x
          (x.pc + 4)))) ∧
  ∀ (s : State) (g p : Nat), p < 16 →
    let q := s.part p
    let k := s.pkg g
    let formed := q.st = .formed ∨ q.st = .running ∨ q.st = .halted
    let answered (t : State) (n : Nat) : Prop := exec (.mbpost g p) s = .next t ∧ amGet? (t.pkg g).mbpres p = some n
    (k.ready = false ∨ ¬formed → ∃ t, answered t 2 ∧ (t.part p).inbox = q.inbox) ∧
    (k.ready = true → formed → 256 ≤ q.inbox.length →
      ∃ t, answered t 1 ∧ (t.part p).inbox = q.inbox ∧ (t.part p).mbRefused = min 65535 (q.mbRefused + 1)) ∧
    (k.ready = true → formed → q.inbox.length < 256 →
      ∃ t, answered t 0 ∧ (t.part p).inbox = q.inbox ++ [amGet (List.replicate 64 0) k.mbin p]) ∧
    (∀ m r, q.outbox = m :: r → q.outHeld = [] → exec (.mbtake g p) s = .next (s.modPart p fun q => { q with outbox := r })) ∧
    (∀ m r f h, q.outbox = m :: r → q.outHeld = f :: h →
      exec (.mbtake g p) s = .next (s.modPart p fun q => { q with outbox := r ++ [f], outHeld := h })) ∧
    ∀ v, (amGet? s.pkgs g).isSome = true → exec (.hcevtClear g v) s = .next (s.modPkg g fun k => { k with hcevt := k.hcevt &&& ~~~v })

/-! ### Homes, replies and acknowledgements -/

namespace Sys2Proof.Claims
open Sys2Proof.Machine

/-- A packet to a context's core with this message is in flight. -/
def Tells (t : State) (c : CtxId) (m : Msg) : Prop := ∃ k ∈ t.net, k.dst = .core c.core ∧ k.msg = m

/-- A home may perform the request of a packet now, the cycle in which it arrived being over; it is a context's, and its partition runs no
task (R191, R215). -/
def Asked (s : State) (id : Nat) (k : Packet) (r : Req) : Prop :=
  s.performable id = some (k, r) ∧ r.via = .ctx ∧ (s.part r.src.core.part).tasks = []

/-- One request reached its home before another, in an earlier cycle or in the same from a lower place (R191, R215). -/
def Before (j k : Packet) (q r : Req) : Prop :=
  j.at_ < k.at_ ∨ j.at_ = k.at_ ∧ lexLt [q.src.core.pkg, q.src.core.vc, q.src.slot] [r.src.core.pkg, r.src.core.vc, r.src.slot] = true

/-- The request of a sequence that its home has not applied, and that is not stale (R205). -/
def Fresh (s : State) (r : Req) : Prop :=
  s.cached r.src.core.part r.home r.src.core.srcKey r.aseq = none ∧
  s.newest r.src.core.part r.home r.src.core.srcKey ≤ r.aseq + 63

/-- A context may take the fault of an access at once: nothing else is outstanding, and it is in no handler, halted, leaving or
speculative (R31, R407). -/
def CanTake (s : State) (c : CtxId) (x : Ctx) (a : Access) : Prop :=
  s.ctx? c = some x ∧ x.out = [a] ∧ a.pend = none ∧ (∀ q sg, a.dest ≠ .stream q sg) ∧ a.dest ≠ .fetch ∧ a.err = none ∧ x.moving = none ∧ x.leaving = none ∧
  x.heldFault = none ∧ (s.slot c).halted = false ∧ s.speculative c.core.part x = false ∧ x.inh = false ∧ (s.part c.core.part).tvec ≠ 0

/-- The context has entered its handler for an access that came back with a fault: exact while no later instruction has issued, else with
its next PC saved and, for a Memory Error, late with the access's PC as TVAL (R31, R407). -/
def TookFault (s t : State) (c : CtxId) (x : Ctx) (a : Access) (cause : Nat) : Prop :=
  ∃ y, t.ctx? c = some y ∧ y.tcause = wd cause ∧ y.inh = true ∧ y.pc = (s.part c.core.part).tvec ∧ y.regs = x.regs ∧ y.out = [] ∧
    t.mem = s.mem ∧
    (if a.icount + 1 = x.icount then y.epc = a.pc ∧ y.tval = wd a.va ∧ y.late = false
     else y.epc = x.pc ∧ y.tval = (if cause = 7 then a.pc else wd a.va) ∧ (y.late = true ↔ cause = 7))

end Sys2Proof.Claims

/-- R189-R194, R196, R198, R203, R205, R206, R209: a home answers a load with its bytes, stages a store until every other cache that holds the
sector has dropped it, then writes its bytes and acknowledges; it applies an atomic once and answers the old value, and a reduction or a
log record once and acknowledges; an access its windows refuse, as they stood when it reached the home, is answered Window and counted, a full log Log Full, a locked replica
Replica Timeout, and a repeated request its first answer.
R191, R215: of two requests of no task that could be performed the one that arrived first goes first, and in one cycle the one from the
lower package, vcore and slot. -/
def Obligations.HomesPerformRequests : Prop :=
  ∀ (s : State) (id : Nat) (k : Packet) (r : Req),
    (Asked s id k r →
      (∀ n, r.op = .load n →
        (s.refusesReq k r = true → ∃ t, exec (.loadRequest id) s = .next t ∧ Tells t r.src (.nack r.src r.acc 6) ∧ t.mem = s.mem) ∧
        (s.refusesReq k r = false → s.poisoned r.pa n = true →
          ∃ t, exec (.loadRequest id) s = .next t ∧ Tells t r.src (.data r.src r.acc true []) ∧ t.mem = s.mem) ∧
        (s.refusesReq k r = false → Plain s r.home r.pa n → r.early = [] → ∃ t, exec (.loadRequest id) s = .next t ∧
          Tells t r.src (.data r.src r.acc false (Memory.readN s.mem r.pa n)) ∧ t.mem = s.mem ∧
          (inStore r.pa = false → ∀ y, sectorsOf r.pa n = [y] → s.poisoned y 128 = false → y ∈ (t.core r.src.core).l1d))) ∧
      (∀ d, r.op = .store d →
        (s.refusesReq k r = true →
          ∃ t, exec (.storeRequest id) s = .next t ∧ Tells t r.src (.nack r.src r.acc 6) ∧ t.mem = s.mem ∧
            ∀ c, r.home = .core c → (t.core c).winref = (s.core c).winref + 1) ∧
        (s.refusesReq k r = false → ∃ (t : State) (h : HomeWrite), exec (.storeRequest id) s = .next t ∧ t.mem = s.mem ∧
          t.homeWrites = s.homeWrites ++ [h] ∧ h.req = r ∧ h.acks = s.holders r.src.core r.pa d.length)) ∧
      (∀ op n v c, r.op = .atomic op n v c → n = 4 ∨ n = 8 → v < 2 ^ (8 * n) → c < 2 ^ (8 * n) →
        (∀ m, s.cached r.src.core.part r.home r.src.core.srcKey r.aseq = some (some m) →
          ∃ t, exec (.atomicRequest id) s = .next t ∧ t.mem = s.mem ∧ Tells t r.src (.data r.src r.acc false (toBytes m n))) ∧
        (Fresh s r → s.refusesReq k r = false → Plain s r.home r.pa n → s.holders r.src.core r.pa n = [] →
          Memory.wf s.mem = true →
          let m := leNat (Memory.readN s.mem r.pa n)
          ∃ t, exec (.atomicRequest id) s = .next t ∧ OnlyBytes s.mem t.mem r.pa n (atomicValue op n m v c) ∧
            Tells t r.src (.data r.src r.acc false (toBytes m n)) ∧
            t.cached r.src.core.part r.home r.src.core.srcKey r.aseq = some (some m))) ∧
      (∀ op n v, r.op = .reduce op n v → n = 4 ∨ n = 8 → v < 2 ^ (8 * n) →
        (s.cached r.src.core.part r.home r.src.core.srcKey r.aseq = some none →
          ∃ t, exec (.reductionRequest id) s = .next t ∧ t.mem = s.mem ∧ Tells t r.src (.ack r.src r.acc)) ∧
        (Fresh s r → s.refusesReq k r = false → Plain s r.home r.pa n → s.holders r.src.core r.pa n = [] →
          Memory.wf s.mem = true → ∃ t, exec (.reductionRequest id) s = .next t ∧ Tells t r.src (.ack r.src r.acc) ∧
            OnlyBytes s.mem t.mem r.pa n (atomicValue op n (leNat (Memory.readN s.mem r.pa n)) v 0))) ∧
      (∀ flt dbl v seq c, r.op = .rlog flt dbl v seq → r.home = .core c → Fresh s r →
        s.refusesReq k r = false → s.recordWaits c (s.core c).logCount (.msg id) = none →
        let u := (s.dropPkt id).recordIn c (s.core c).logCount (.msg id)
        ((s.part c.part).logSize ≤ (s.core c).logCount →
          ∃ t, exec (.rlogRecord id) s = .next t ∧ Tells t r.src (.nack r.src r.acc 0x17) ∧ t.mem = s.mem) ∧
        (∀ a, (s.core c).logCount < (s.part c.part).logSize → u.recordPa c (s.core c).logCount = some a →
          ∃ t, exec (.rlogRecord id) s = .next t ∧ Tells t r.src (.ack r.src r.acc) ∧ (t.core c).logCount = (s.core c).logCount + 1 ∧
            t.mem = Memory.writeN s.mem a (recordBytes flt dbl r.pa v r.src.core.srcKey seq)))) ∧
    (∀ (j : Packet) (q : Req), s.waitsOnly id = some (k, r) → s.waitsOnly j.id = some (j, q) → j ∈ s.net → j.id ≠ k.id → j.cls = 0 → j.dst = k.dst →
      j.part = k.part → q.apart = false → r.apart = false → q.task = none → r.task = none → s.waitsForTask q = false → Before j k q r →
      ∀ i ∈ [Instr.loadRequest id, .storeRequest id, .atomicRequest id, .reductionRequest id, .rlogRecord id], exec i s = .next s) ∧
    (∀ n, s.turnOf id = some k → k.msg = .req r → r.via = .ctx → r.op = .load n → r.replicated.isSome = true → s.writeUnderWay r.pa n = true →
      (k.at_ + 8000 ≤ s.clock → ∃ t, exec (.replicaTimeout id) s = .next t ∧ Tells t r.src (.nack r.src r.acc 8) ∧ t.mem = s.mem) ∧
      (s.clock < k.at_ + 8000 → exec (.replicaTimeout id) s = .next s)) ∧
    ∀ w, s.homeWrites.find? (fun h => h.id == id) = some w →
      (∀ c : CoreId, w.acks.contains c.key = true → ∃ t, exec (.l1Invalidate id c) s = .next t ∧ t.mem = s.mem ∧
        (∀ y ∈ sectorsOf w.req.pa w.req.op.bytes, y ∉ (t.core c).l1d) ∧
        t.homeWrites.find? (fun h => h.id == id) = some { w with acks := w.acks.filter (· != c.key) }) ∧
      (w.acks ≠ [] → exec (.homeWritePerform id) s = .next s) ∧
      ∀ d, w.acks = [] → w.req.op = .store d → w.req.via = .ctx → (s.part w.req.src.core.part).tasks = [] →
        (∀ i < d.length, s.early w.req.home true (w.req.pa + i) = false) →
        ∃ t, exec (.homeWritePerform id) s = .next t ∧ t.mem = Memory.writeN s.mem w.req.pa d ∧
          Tells t w.req.src (.ack w.req.src w.req.acc) ∧ ∀ h ∈ t.homeWrites, h.id ≠ id

/-- R31, R200, R205, R376, R380, R404, R407: data that lands writes its access's destination and ends the access; data with an error and a
negative acknowledgement raise the access's fault, or mark its journal entry failed with the cause; an acknowledgement ends the
access and frees its journal entry. EPC, TVAL and LATE of a fault by Absent or Link Timeout are the model's reading (log 16). -/
def Obligations.RepliesReachTheirAccesses : Prop :=
  ∀ (s : State) (id : Nat) (k : Packet) (c : CtxId) (x : Ctx) (acc : Nat), s.deliverable id = some k → s.ctx? c = some x →
    (∀ (b : List Byte) (pre post : List Access) (a : Access) (d : Reg) (sg : Bool), k.msg = .data c acc false b →
      x.out = pre ++ a :: post → a.acc = acc → (∀ z ∈ pre ++ post, z.acc ≠ acc ∧ z.grp ≠ a.grp ∧ z.err = none) → a.loadLike = true →
      a.err = none → x.leaving = none → a.dest = .reg d sg → b.length = a.bytes → 1 ≤ a.bytes → a.bytes ≤ 8 →
      let m := BitVec.ofNat (8 * a.bytes) (leNat b)
      ∃ t, exec (.replyLands id) s = .next t ∧ t.mem = s.mem ∧
        t.ctx? c = some (({ x with out := pre ++ post } : Ctx).setReg d (if sg then m.signExtend 64 else m.setWidth 64))) ∧
    (∀ (b : List Byte) (a : Access), k.msg = .data c acc true b → a.acc = acc → a.loadLike = true → CanTake s c x a →
      ∃ t, exec (.replyLands id) s = .next t ∧ TookFault s t c x a 7) ∧
    (k.msg = .ack c acc →
      ∃ t, exec (.acknowledgement id) s = .next t ∧ t.mem = s.mem ∧ t.ctx? c = some { x with out := x.out.filter fun a => a.acc != acc } ∧
        ∀ i, (s.core c.core).entryOf c.slot acc = some i → ((t.core c.core).journal.get i).state = 0) ∧
    (∀ cause, k.msg = .nack c acc cause → cause < 2 ^ 6 →
      (∀ i, (s.core c.core).entryOf c.slot acc = some i →
        ∃ t, exec (.negativeAcknowledgement id) s = .next t ∧ t.mem = s.mem ∧
          ((t.core c.core).journal.get i) = { (s.core c.core).journal.get i with state := 2, cause := cause } ∧
          t.ctx? c = some { x with out := x.out.filter fun a => a.acc != acc }) ∧
      (∀ a, (s.core c.core).entryOf c.slot acc = none → a.acc = acc → CanTake s c x a →
        ∃ t, exec (.negativeAcknowledgement id) s = .next t ∧ TookFault s t c x a cause))

/-! ### Tasks and contexts in motion -/

/-- R148-R152, R159, R161-R163: a task record that arrives is queued where an entry is free that no record asked back will take, and is discarded where
an abort of its parent has discarded its task; a spilled one is asked for, and queued again when its bytes come; where no abort waits, an empty LENT slot takes the task that precedes the others that may run there, in the state R152 gives; a round
starts at its cadence, and when it ends every finished task that precedes the least unfinished one has committed, the least one settles
and GVT is its timestamp; until it is due it waits for the accesses of the tasks that the TDEFER stores of its commits meet (R159), and for those a
core has performed at itself in this cycle (R168). By the model's choice a task may be dispatched 10 ns after its enqueue and a spilled one comes back by a request
(log 69) from free bytes but for what R148 keeps (log 53), the GVT is that of the end of the round (log 67), and only running tasks settle (log 58). -/
def Obligations.TaskUnitsQueueDispatchAndSettle : Prop :=
  (∀ (s : State) (id n : Nat) (k : Packet) (u : CluId), s.deliverable id = some k → k.msg = .task n u →
    (s.task? u.part (some n) = none → exec (.taskArrival id) s = .next ((s.dropPkt id).unitIdle u)) ∧
    ∀ x, s.task? u.part (some n) = some x →
      ((s.cluster u).unitTrap = none → (s.part u.part).entriesTaken u < 4096 →
        exec (.taskArrival id) s = .next (((s.dropPkt id).modTask u.part n fun y => { y with st := .queued }).unitIdle u)) ∧
      ((s.cluster u).unitTrap ≠ none → exec (.taskArrival id) s = .next s)) ∧
  (∀ (s v : State) (u : CluId) (x : Task) (l : Loc),
    (s.part u.part).tasks.filter (fun t => t.clu == u && t.st == .spilled) = [x] → x.asked = false → (s.cluster u).unitTrap = none →
    (s.part u.part).live = true → (s.part u.part).entriesTaken u < 3072 →
    s.resolve (s.unitCore u) (.unit u) (some (.unit u)) .read .supervisor (((s.part u.part).tcfg.ovf + 64 * x.ovf) % 2 ^ 64) 64 = (.ok l, v) →
    ∃ (t : State) (k : Packet) (r : Req), exec (.taskRefill u) s = .next t ∧ k ∈ t.net ∧ k.src = .task u ∧ k.dst = l.reader.agent ∧ k.msg = .req r ∧
      r.op = .load 64 ∧ r.pa = l.pa ∧ r.acc = x.id ∧ r.via = .unit u ∧ t.mem = v.mem) ∧
  (∀ (s : State) (id : Nat) (k : Packet) (u : CluId) (x : Task) (b : List Byte), s.deliverable id = some k →
    k.msg = .jdata (.unit u) x.id false b → s.task? u.part (some x.id) = some x → x.st = .spilled → x.asked = true →
    exec (.replyLands id) s =
      .next (((s.dropPkt id).modTask u.part x.id fun t => { t with st := .queued, asked := false }).bump u 6 1)) ∧
  (∀ (s : State) (c : CtxId) (x : Task), let q := s.part c.core.part
    q.live = true → (∀ t ∈ q.tasks, t.aborting = none) → c.slot ≠ 0 → (s.slot c).state = .lent → s.ctx? c = none →
    (let may := q.tasks.filter fun t => t.clu == c.core.clu && t.st == .queued && t.readyAt ≤ s.gtime && q.keyFree c.core.clu t &&
        s.mayRun c.core t
     (may = [] → exec (.taskDispatch c) s = .next s) ∧
     (firstTask may = some x → ∃ (t : State) (y : Ctx), exec (.taskDispatch c) s = .next t ∧ t.mem = s.mem ∧ t.ctx? c = some y ∧ y.task = some x.id ∧
        y.pc = x.pc ∧ y.kind = .lent ∧ y.priv = .program ∧ y.srkey = q.tcfg.srkey ∧ y.srctr = wd (x.chain.getLastD 0) ∧ y.grant = 0 ∧
        (∀ r : Reg, y.reg r = if r.val = 2 then wd (0x00FE000000000000 + q.tcfg.stkoff + c.slot * q.tcfg.stksz)
          else if r.val = 3 then q.taskcfg else if r.val = 8 then x.hint
          else if 4 ≤ r.val ∧ r.val ≤ 7 then x.args.getD (r.val - 4) 0 else 0) ∧
        ∀ z ∈ (t.part c.core.part).tasks, z.id = x.id → z.st = .running ∧ z.place = some c ∧ z.settled = false))) ∧
  ∀ (s : State) (p : Nat), p < 16 → let q := s.part p
    q.live = true → (∀ t ∈ q.tasks, t.aborting = none) →
    (let n := if q.active.pkg.length ≤ 1 then 1024 else 16000
     (q.round = none → q.nextRound ≤ s.clock →
        exec (.equinoxRound p) s = .next (s.modPart p fun q => { q with round := some s.clock, nextRound := (s.clock / n + 1) * n })) ∧
     (q.round ≠ none ∨ s.clock < q.nextRound → exec (.equinoxRound p) s = .next s)) ∧
    (q.round = none → exec (.roundComplete p) s = .next s) ∧
    (q.round ≠ none → q.roundDue s.clock = false → s.ownNow p = true → exec (.roundComplete p) s = .next s) ∧
    (q.round ≠ none → q.roundDue s.clock = true ∨ s.ownNow p = false →
      let least := firstTask (q.tasks.filter (·.unfinished))
      let goes (t : Task) : Prop := t.st = .finished ∧ ∀ u, least = some u → t.precedes u = true
      let met : Prop := ∃ t ∈ q.tasks, goes t ∧ s.defersMeet p t ≠ []
      ((∀ t ∈ q.tasks, t.st ≠ .finished) → exec (.roundComplete p) s = .next (s.modPart p fun q => { q with
        round := none, gvt := least.map fun u => u.chain.headD 0
        tasks := match least with
          | some u => q.tasks.map fun t => if t.id == u.id then (if t.st == .running then { t with settled := true } else t) else t
          | none => q.tasks })) ∧
      (q.roundDue s.clock = false → met → ∃ t, exec (.roundComplete p) s = .next t ∧ t.mem = s.mem ∧ (t.part p).round = q.round ∧
        (t.part p).tasks.map (·.id) = q.tasks.map (·.id)) ∧
      (q.roundDue s.clock = true ∨ ¬met → (q.tasks.map (·.id)).Pairwise (· ≠ ·) →
        (∀ t ∈ q.tasks, goes t → ∀ a ∈ t.actions, ∀ va pa h g v, a.2 ≠ .defer va pa h g v) →
        ∃ t, exec (.roundComplete p) s = .next t ∧ (t.part p).round = none ∧ (t.part p).gvt = least.map (fun u => u.chain.headD 0) ∧
          ∀ x ∈ q.tasks, goes x → ∀ y ∈ (t.part p).tasks, y.id ≠ x.id))

/-- R116, R117, R122-R124, R127-R129, R133, R134, R139, R283, R406: a reservation takes the lowest free slot or is refused, its answer
reaches the waiting requester, 2 us without one are a refusal, and a cancelled one frees the slot; a drained context leaves its slot
away or free and its image arrives in the reserved one, where a kill that has waited for it stops it; a stopping context that has drained empties its slot and reports its exit value
to its origin; a kill stops a context where it is, unless the context it was sent for has ended; a wake ends its park or is kept, and a park ends at its time; a neighbour's word
enters its queue while there is room; a message parked for more than 10 us is refused (R420). By the model's reading the origin slot learns of a move at the
departure (log 39), lookahead windows and the count of remote accesses travel with the context (log 40), and a kill that finds its context ended is an orphan (log 145). -/
def Obligations.ContextEventsTakeEffect : Prop :=
  (∀ (s : State) (id : Nat) (k : Packet), s.deliverable id = some k →
    (∀ src t, k.msg = .reserve src t → (∀ q ∈ s.net, ∀ b, q.msg = .reserve b t → b = src) →
      (∀ n, 1 ≤ n → n < 11 → (s.slot { core := t, slot := n }).state = .free → (∀ m < n, m ≠ 0 → (s.slot { core := t, slot := m }).state ≠ .free) →
        ∃ v, exec (.migrationReserve id) s = .next v ∧ (v.slot { core := t, slot := n }).state = .reserved ∧ v.mem = s.mem ∧
          Tells v src (.grant src (some n) t)) ∧
      ((∀ n < 11, n ≠ 0 → (s.slot { core := t, slot := n }).state ≠ .free) →
        ∃ v, exec (.migrationReserve id) s = .next v ∧ v.cores = s.cores ∧ Tells v src (.grant src none t))) ∧
    (∀ c slot t x, k.msg = .grant c slot t → s.ctx? c = some x →
      (∀ m, x.moving = some m → m.target = t → m.asked ≠ none → m.answered = false → exec (.reservationReply id) s =
        .next ((s.dropPkt id).putCtx c { x with moving := some { m with slot := slot, answered := true } })) ∧
      (x.moving = none → (slot = none → exec (.reservationReply id) s = .next (s.dropPkt id)) ∧
        ∀ n, slot = some n → ∃ v, exec (.reservationReply id) s = .next v ∧ ∃ q ∈ v.net, q.dst = .core t ∧ q.msg = .cancel t n)) ∧
    (∀ t n, k.msg = .cancel t n → (s.slot { core := t, slot := n }).state = .reserved →
      ∃ v, exec (.reservationCancel id) s = .next v ∧ (v.slot { core := t, slot := n }).state = .free ∧ v.mem = s.mem) ∧
    (∀ t n g, k.msg = .image t n g →
      let c : CtxId := { core := t, slot := n }
      let o : CtxId := { core := { part := t.part, pkg := g.opkg, vc := g.ovc }, slot := g.oslot }
      ((∃ q ∈ s.net, q.id ≠ id ∧ q.parkedFor = some o ∧ ∃ a b d e, q.msg = .kill a b d e) →
        ∃ (v : State) (y : Ctx), exec (.migrationArrival id) s = .next v ∧ v.mem = s.mem ∧ v.ctx? c = some y ∧
          y.leaving = some { value := BitVec.allOnes 64, how := 2 }) ∧
      ((∀ q ∈ s.net, q.parkedFor ≠ some o) →
      let home := g.opkg = t.pkg ∧ g.ovc = t.vc ∧ g.oslot = n
      ∃ (v : State) (y : Ctx), exec (.migrationArrival id) s = .next v ∧ v.mem = s.mem ∧ v.ctx? c = some y ∧ (∀ r : Reg, r ≠ 0 → y.reg r = g.regs.getD r.val 0) ∧
        y.pc = g.pc ∧ y.pin = g.pin ∧ y.wakep = g.wakep ∧ y.opkg = g.opkg ∧ y.ovc = g.ovc ∧ y.oslot = g.oslot ∧ y.srkey = g.srkey ∧
        y.srctr = g.srctr ∧ y.fflags = g.fflags ∧ y.frm = g.frm ∧ y.rah = g.rah ∧ y.thresh = g.thresh ∧ y.parked = g.parked ∧ y.priv = .program ∧
        (home → y.kind = .held ∧ (v.slot c).state = .held) ∧ (¬home → y.kind = .guest ∧ (v.slot c).state = .guest) ∧
        y.leaving = none)) ∧
    (∀ o val how, k.msg = .exit o val how →
      ∃ v, exec (.exitNotice id) s = .next v ∧ v.mem = s.mem ∧ (v.slot o).exitVal = val ∧ (v.slot o).exitHow = how ∧
        (v.slot o).state = if (s.slot o).state = .away then .free else (s.slot o).state) ∧
    (∀ o a b d h, k.msg = .kill o a b d → k.dst = .core h → (s.slot o).killSent = false → ∃ v, exec (.killArrival id) s = .next v ∧
      v.mem = s.mem ∧ (v.core h).orphan = (s.core h).orphan + 1 ∧ ∀ e, v.ctx? e = s.ctx? e) ∧
    (∀ o a b d c x, k.msg = .kill o a b d → k.dst = .core c.core → s.whereIs o = some c → s.ctx? c = some x → (s.slot o).killSent = true →
      (x.leaving ≠ none → exec (.killArrival id) s = .next (s.dropPkt id)) ∧
      (x.leaving = none → x.moving = none → ∃ (v : State) (y : Ctx), exec (.killArrival id) s = .next v ∧ v.mem = s.mem ∧
        v.ctx? c = some y ∧ y.leaving = some { value := BitVec.allOnes 64, how := 2 } ∧
        y.parked = none ∧ y.regs = x.regs ∧ y.pc = x.pc)) ∧
    (∀ o a b d from_ c x, k.msg = .wake o a b d from_ → k.dst = .core c.core → s.whereIs o = some c → s.ctx? c = some x → x.leaving = none →
      exec (.wakeArrival id) s = .next ((s.dropPkt id).putCtx c
        (if x.parked.isSome then { x with parked := none, parkDone := some true } else { x with wakep := true })))) ∧
  (∀ (s : State) (c : CtxId) (x : Ctx), s.ctx? c = some x →
    (∀ m t, x.moving = some m → m.asked = some t → m.answered = false →
      (t + 8000 ≤ s.clock → exec (.reservationTimeout c) s = .next (s.putCtx c { x with moving := some { m with slot := none, answered := true } })) ∧
      (s.clock < t + 8000 → exec (.reservationTimeout c) s = .next s)) ∧
    (∀ t, x.parked = some (some t) → (s.part c.core.part).live = true →
      (t ≤ s.clock → exec (.parkTimeout c) s = .next (s.putCtx c { x with parked := none, parkDone := some false })) ∧
      (s.clock < t → exec (.parkTimeout c) s = .next s)) ∧
    (let o : CtxId := { core := { part := c.core.part, pkg := x.opkg, vc := x.ovc }, slot := x.oslot }
     (∀ m n, x.moving = some m → m.slot = some n → (s.part c.core.part).live = true → (s.slot c).halted = false → x.leaving = none →
        s.quiet c x = true → x.barPend = false → (∀ e ∈ x.lat, e.2 ≤ s.clock) → s.canSend (.core c.core) (.core m.target) 5 = true →
        ∃ (v : State) (k : Packet), exec (.migrationDepart c) s = .next v ∧ v.mem = s.mem ∧ v.ctx? c = none ∧ (v.slot c).state = (if o = c then .away else .free) ∧
          (v.slot o).awayPkg = m.target.pkg ∧ (v.slot o).awayVc = m.target.vc ∧ k ∈ v.net ∧ k.dst = .core m.target ∧
          k.msg = .image m.target n (x.atDeparture m.dest).pack) ∧
     (∀ e, x.leaving = some e → (s.part c.core.part).onChip c.core.pkg = true → s.quiet c x = true →
        ∃ v, exec (.exitComplete c) s = .next v ∧ v.mem = s.mem ∧ v.ctx? c = none ∧ (v.slot c).state = .free ∧
          (o = c → (v.slot c).exitVal = e.value ∧ (v.slot c).exitHow = e.how) ∧
          (o ≠ c → ∃ k ∈ v.net, k.dst = .core o.core ∧ k.msg = .exit o e.value e.how)))) ∧
  ∀ (s : State) (id : Nat) (k : Packet), s.pkt? id = some k →
    (∀ t f tag w, k.msg = .nbr t f tag w →
      (s.net.find? fun q => match q.msg with | .nbr a b _ _ => a == t && b == f | _ => false) = some k → k.id = id →
      let q := (s.core t).nbrq.get (dirIx f)
      (q.length < 16 → exec (.neighbourWordArrival id) s =
        .next (((s.dropPkt id).wordLanded k.src id).modCore t fun c => { c with nbrq := c.nbrq.set (dirIx f) (c.nbrq.get (dirIx f) ++ [(tag, w)]) })) ∧
      (16 ≤ q.length → exec (.neighbourWordArrival id) s = .next s)) ∧
    (∀ o a b d from_, k.msg = .wake o a b d from_ → k.stage = .parked →
      (k.at_ + 40000 < s.clock → ∃ t, exec (.inboundParkTimeout id) s = .next t ∧ t.mem = s.mem ∧ Tells t from_ (.nack from_ 0 0x16)) ∧
      (s.clock ≤ k.at_ + 40000 → exec (.inboundParkTimeout id) s = .next s))

/-! ### The network -/

namespace Sys2Proof.Claims
open Sys2Proof.Machine

/-- One sequence number comes before another, counting modulo 2^16 (R373, R374). -/
abbrev Earlier (a b : Nat) : Prop := a % 65536 ≠ b % 65536 ∧ (b % 65536 + 65536 - a % 65536) % 65536 < 32768

end Sys2Proof.Claims

/-- R375, R377-R382, R384, R386, R449: a packet that arrives whole is delivered in the order of its pair, waits in the reorder window ahead of it,
or is dropped as a duplicate, and with the window full is trimmed there; a trimmed one stands at its destination as a header while the source is asked for it, at most once an
interval, and the source sends it again from its store; a delivery mark frees the retained copies it covers, alone after 256 ns; an end-to-end expiry
sends again and at last fails the request; a replay is counted, a lane retires, and a router powers down when idle and wakes. Which router of its route trims a packet is free (log 80), the link among
those of a mask is the model's mix (log 60), the timer runs until the answer has landed (log 79), only memory requests and ring operations fail (log 82), marks
travel in the class of what they mark (log 83), and a router's idle time counts from the last flit (log 84). -/
def Obligations.PacketsArriveInOrderAndAgain : Prop :=
  (∀ (s : State) (id : Nat) (k : Packet) (h : List Hop), s.pkt? id = some k → k.stage = .flying → s.routeOf k = some h →
    let p := s.pair k.part k.src k.dst k.cls
    let quiet := ∀ q ∈ s.net, k.samePair q = true → q.stage ≠ .window
    (s.routeDown h = true → exec (.packetArrival id) s = .next s ∧ exec (.trimmedHeader id) s = .next s) ∧
    (s.afterOwn k = true → exec (.packetArrival id) s = .next s) ∧
    (s.routeDown h = false → s.afterOwn k = false → k.trim = false → k.msg ≠ .void →
      (k.cls = 2 → ∃ t, exec (.packetArrival id) s = .next t ∧ t.mem = s.mem ∧
        { k with stage := .ready, trim := false, at_ := s.clock, judged := none } ∈ t.net) ∧
      (k.cls < 2 → quiet → k.pseq = p.nextDel → ∃ t, exec (.packetArrival id) s = .next t ∧ t.mem = s.mem ∧
        { k with stage := .ready, trim := false, at_ := s.clock, judged := none } ∈ t.net ∧
        (t.pair k.part k.src k.dst k.cls).nextDel = (p.nextDel + 1) % 65536) ∧
      (k.cls < 2 → Earlier k.pseq p.nextDel → (∀ r, k.msg ≠ .req r) →
        ∃ t, exec (.packetArrival id) s = .next t ∧ t.mem = s.mem ∧ ∀ q ∈ t.net, q.id ≠ id) ∧
      (k.cls < 2 → quiet → ¬Earlier k.pseq p.nextDel → k.pseq ≠ p.nextDel →
        ((s.net.filter fun q => q.stage == .window && q.dst == k.dst).length < 64 →
          ∃ t, exec (.packetArrival id) s = .next t ∧ t.mem = s.mem ∧ ∀ q ∈ t.net, q.id = id → q.stage = .window) ∧
        (64 ≤ (s.net.filter fun q => q.stage == .window && q.dst == k.dst).length → k.len ≠ 0 → id < s.nextId →
          ∃ t, exec (.packetArrival id) s = .next t ∧ t.mem = s.mem ∧ ∀ q ∈ t.net, q.id = id → q.stage = .header ∧ q.tcnt = min 15 (k.tcnt + 1)))) ∧
    (k.trim = false → k.len ≠ 0 → k.cls < 2 → s.reached h ≠ [] →
      ∃ t, exec (.packetTrim id) s = .next t ∧ t.mem = s.mem ∧ ∀ q ∈ t.net, q.id = id → q.trim = true) ∧
    (s.routeDown h = false → k.trim = true → quiet → ¬Earlier k.pseq p.nextDel → k.retx = false →
      ∃ t, exec (.trimmedHeader id) s = .next t ∧ t.mem = s.mem ∧ (id < s.nextId → ∀ q ∈ t.net, q.id = id → q.stage = .header) ∧
        ((s.pacing k).mayAsk s.clock = true → ∃ q ∈ t.net, q.dst = k.src ∧ q.msg = .rereq k.part k.src k.dst k.cls k.pseq))) ∧
  (∀ (s : State) (id : Nat) (k : Packet), s.deliverable id = some k →
    (∀ p src dst cls seq, k.msg = .rereq p src dst cls seq →
      let this (q : Packet) : Bool := q.part == p && q.src == src && q.dst == dst && q.cls == cls && q.pseq == seq
      let u := s.dropPkt id
      (s.kept.find? this = none → exec (.reRequest id) s = .next u) ∧
      ∀ q, s.kept.find? this = some q →
        (∀ h, u.net.find? (fun h => this h && h.stage == .header) = some h → exec (.reRequest id) s =
          .next (u.modPkt h.id fun g => { q with id := g.id, tcnt := g.tcnt, stage := .flying, trim := false, retx := true, at_ := s.clock })) ∧
        (u.net.find? (fun h => this h && h.stage == .header) = none → ∃ t, exec (.reRequest id) s = .next t ∧ t.mem = s.mem ∧
          t.net = u.net ++ [{ q with id := s.nextId, stage := .flying, trim := false, retx := true, at_ := s.clock }])) ∧
    (∀ p src dst cls seq, k.msg = .mark p src dst cls seq → exec (.deliveryMark id) s = .next ({ s.dropPkt id with
      kept := s.kept.filter fun q => !(q.part == p && q.src == src && q.dst == dst && q.cls == cls && decide (Earlier q.pseq ((seq + 1) % 65536))) }.injectUnsent src))) ∧
  (∀ (s : State) (i : Nat) (p : PairSt), s.pairs[i]? = some p →
    (p.cls < 2 → p.marked ≠ p.nextDel → (s.pair p.part p.dst p.src p.cls).lastSent + 1024 ≤ s.clock →
      ∃ t, exec (.bareDeliveryMark i) s = .next t ∧ t.mem = s.mem ∧ ∃ k ∈ t.net, k.dst = p.src ∧
        k.msg = .mark p.part p.src p.dst p.cls ((p.nextDel + 65535) % 65536)) ∧
    (p.marked = p.nextDel → exec (.bareDeliveryMark i) s = .next s) ∧
    (p.cls = 2 → p.mayAsk s.clock = false → exec (.pacingIntervalExpiry i) s = .next s) ∧
    (∀ part cls seq r q, p.cls = 2 → p.mayAsk s.clock = true → p.waiting = (part, cls, seq) :: r → q ∈ s.net → q.part = part → q.src = p.src →
      q.dst = p.dst → q.cls = cls → q.pseq = seq → q.stage = .header →
      ∃ t, exec (.pacingIntervalExpiry i) s = .next t ∧ t.mem = s.mem ∧ ∃ k ∈ t.net, k.dst = p.src ∧ k.msg = .rereq part p.src p.dst cls seq)) ∧
  (∀ (s : State) (id : Nat) (o : Outgoing), s.outgoing.find? (fun q => q.pkt.id == id) = some o →
    let k := o.pkt
    let n := max 1 (s.linksTo k.part (s.agentPkg k.src) (s.agentPkg k.dst)).length
    let tries := amSet o.tries (o.link % n) (amGet 0 o.tries (o.link % n) + 1)
    let due := s.awaited k = true ∧ o.timer + 64000 ≤ s.clock ∧ (s.part k.part).onCores = true
    (¬due → exec (.endToEndExpiry id) s = .next s) ∧
    (due → k.msg.canFail = false ∨ (∃ l < n, amGet 0 tries l < 8) →
      ∃ (t : State) (q : Packet), exec (.endToEndExpiry id) s = .next t ∧ t.mem = s.mem ∧ (∀ k ∈ s.net, k ∈ t.net) ∧ q ∈ t.net ∧ q.msg = k.msg ∧
        q.src = k.src ∧ q.dst = k.dst ∧ q.pseq = k.pseq ∧ q.stage = .flying ∧ q.trim = false ∧ q.retx = true ∧
        ∀ r ∈ t.outgoing, r.pkt.id = id → r.timer = s.clock ∧ r.tries = tries) ∧
    (∀ r x a, due → (∀ l < n, 8 ≤ amGet 0 tries l) → k.msg = .req r → r.via = .ctx →
      (s.core r.src.core).entryOf r.src.slot r.acc = none → a.acc = r.acc → CanTake s r.src x a →
      ∃ t, exec (.endToEndExpiry id) s = .next t ∧ TookFault s t r.src x a 0x15)) ∧
  ∀ (s : State) (g : Nat), (amGet? s.pkgs g).isSome = true →
    (∀ l < 32, (s.pkg g).linkUp l = true →
      let key := netKey (l / 8 * 512 + 8 * 32 + 4 * (l % 8) + 2) 10 3
      ∃ t, exec (.linkReplay g l) s = .next t ∧ t.mem = s.mem ∧ amGet 0 (t.pkg g).netcnt key = (amGet 0 (s.pkg g).netcnt key + 1) % 2 ^ 64) ∧
    (∀ lane cause, lane < 256 → cause = 3 ∨ cause = 4 → lane ∉ (s.pkg g).lanesOff →
      ∃ t, exec (.laneRetirement g lane cause) s = .next t ∧ t.mem = s.mem ∧ (t.pkg g).lanesOff = lane :: (s.pkg g).lanesOff ∧
        (t.pkg g).pendingRetire = (s.pkg g).pendingRetire ++
          [(s.clock, wd (4 * 2 ^ 60 + cause * 2 ^ 56 + lane * 2 ^ 40 + s.clock / 4 % 2 ^ 64 / 1000 % 2 ^ 40))]) ∧
    (∀ r, (s.mayPowerDown g r = true → exec (.routerPowerDown g r) s = .next (s.modPkg g fun k => { k with downRouters := r :: k.downRouters })) ∧
      (s.mayPowerDown g r = false → exec (.routerPowerDown g r) s = .next s) ∧
      (r ∈ (s.pkg g).downRouters → (∃ k ∈ s.net, k.stage = .flying ∧ ∃ h, s.routeOf k = some h ∧ ∃ x ∈ h, x.1 = g ∧ x.2.1 = r) →
        ∃ t, exec (.routerWake g r) s = .next t ∧ t.mem = s.mem ∧ r ∉ (t.pkg g).downRouters))

/-! ### Partitions in and out of their slices -/

namespace Sys2Proof.Claims
open Sys2Proof.Machine

/-- A partition of one core whose image goes to `a`, with no task, and a save area in the HBM range (R429). -/
def OneCore (s : State) (p : Nat) (c : CoreId) (a : Nat) : Prop :=
  s.images p = [(c, a)] ∧ (s.part p).tasks = [] ∧ (s.part p).gscfg ≤ 16 ∧ s.areaThere p = true ∧ s.logCore c < 2048 ∧ Memory.wf s.mem = true

/-- The bytes of a context's image that hold its registers and its PC (R432). -/
def ImageHolds (m : List Host.Cell) (a : Nat) (x : Ctx) : Prop :=
  (∀ r : Reg, r ≠ 0 → Memory.readN m (a + 8 * r.val) 8 = toBytes (x.reg r).toNat 8) ∧ Memory.readN m (a + 0x100) 8 = toBytes x.pc.toNat 8

/-- A package of a partition is still to report. -/
def StoppingOn (s : State) (p g m : Nat) (left lag : List Nat) : Prop :=
  p < 16 ∧ (s.part p).phase = .stopping m left lag ∧ g ∈ left

end Sys2Proof.Claims

/-- R425-R429, R433, R453: a mark that has come stops every context of the partition at an instruction boundary, or turns the switch down where
the save area is missing; a package that is idle spills its queued tasks; one that has quiesced is counted, and with the last the partition leaves its cores, its registers and
local memory in its save area; 20 us after the mark a package that has not reported by then is a laggard, counted once a switch, and after 50 us it is forced and the partition's
packets leave the network. In the two cycles in which a report and the end of its time meet the report comes first (R433). A mark without
its save area is not taken even to dissolve (log 94), the area counts every core and cluster of the tables (log 90), and the rest of an image is open
(logs 88, 89). -/
def Obligations.SliceEndsAtTheMark : Prop :=
  (∀ (s : State) (p : Nat), p < 16 → let q := s.part p
    let at_ := (q.gsmark.toNat + 255) / 256 * 256
    (q.live = false ∨ q.gsmark = 0 ∨ s.gtime < at_ → exec (.solsticeMark p) s = .next s) ∧
    (q.live = true → q.gsmark ≠ 0 → at_ ≤ s.gtime →
      (s.areaThere p = false → exec (.solsticeMark p) s = .next ((s.modPart p fun q => { q with gsmark := 0, gsErr := 1 }).tell p 16)) ∧
      (s.areaThere p = true → q.tasks = [] → ∃ t, exec (.solsticeMark p) s = .next t ∧ t.mem = s.mem ∧ (t.part p).gsmark = 0 ∧
        (t.part p).phase = .stopping at_ (q.active.pkg.map (·.1)) [] ∧
        ∀ c x, c ∈ s.partCores p → ∀ n < 11, s.ctx? { core := c, slot := n } = some x →
          t.ctx? { core := c, slot := n } = some { x.unpark with moving := none, yielded := false }))) ∧
  (∀ (s : State) (p g m : Nat) (left lag : List Nat), StoppingOn s p g m left lag →
    let q := s.part p
    let rest := left.filter (· != g)
    let calm := ∀ t ∈ q.tasks, t.aborting = none
    (calm → s.chipIdle p g = false → exec (.quiesceReport p g) s = .next s) ∧
    (calm → s.chipIdle p g = true → s.toSpill p g ≠ [] →
      exec (.quiesceReport p g) s = .next ((s.toSpill p g).foldl (fun s u => s.spillQueued u) s)) ∧
    (calm → s.chipQuiet p g = true → rest ≠ [] →
      (g ∈ lag ∨ s.gtime ≤ m + 20000 → exec (.quiesceReport p g) s = .next (s.modPart p fun q => { q with phase := .stopping m rest lag })) ∧
      (g ∉ lag → m + 20000 < s.gtime → ∃ t, exec (.quiesceReport p g) s = .next t ∧ t.mem = s.mem ∧
        (t.part p).phase = .stopping m rest (g :: lag) ∧ (t.part p).gsLags = if lag = [] then min 65535 (q.gsLags + 1) else q.gsLags)) ∧
    (calm → s.chipQuiet p g = true → rest = [] → q.dissolving = true →
      ∃ t, exec (.quiesceReport p g) s = .next t ∧ (t.part p).st = .dissolved ∧ t.mem = s.mem ∧ ∀ k ∈ t.cores, (coreOfKey k.1).part ≠ p) ∧
    (calm → s.chipQuiet p g = true → rest = [] → q.dissolving = false →
      ∃ t, exec (.quiesceReport p g) s = .next t ∧ (t.part p).phase = .out_ ∧ (t.part p).gsSlices = (q.gsSlices + 1) % 65536 ∧
        (∀ k ∈ t.net, k.part ≠ p) ∧
        ∀ c a, OneCore s p c a →
          (∀ n < 11, ∀ x, s.ctx? { core := c, slot := n } = some x → x.awaits = false → ImageHolds t.mem (a + 8192 * n) x) ∧
          ∀ i < q.gscfg * 65536, Memory.read t.mem (a + 0x20000 + i) = Memory.read s.mem (s.storePa c i)) ∧
    (let intime := s.gtime = m + 20000 ∧ s.chipQuiet p g = true
     (g ∈ lag ∨ s.gtime < m + 20000 ∨ intime → exec (.laggard p g) s = .next s) ∧
     (g ∉ lag → m + 20000 ≤ s.gtime → ¬intime → ∃ t, exec (.laggard p g) s = .next t ∧ t.mem = s.mem ∧ (t.part p).phase = .stopping m left (g :: lag) ∧
      (t.part p).gsLags = if lag = [] then min 65535 (q.gsLags + 1) else q.gsLags)) ∧
    (g ∉ lag ∨ s.gtime < m + 50000 ∨ s.chipQuiet p g = true → exec (.hardQuiesce p g) s = .next s) ∧
    (g ∈ lag → m + 50000 ≤ s.gtime → s.chipQuiet p g = false → q.tasks = [] → q.dissolving = false →
      ∃ t, exec (.hardQuiesce p g) s = .next t ∧ (t.part p).gsHardq = min 65535 (q.gsHardq + 1) ∧ (∀ k ∈ t.net, k.part ≠ p) ∧
        (t.part p).phase = if rest = [] then .out_ else .stopping m rest lag)) ∧
  ∀ (s : State) (p g : Nat), p < 16 → (∀ m left lag, (s.part p).phase ≠ .stopping m left lag) →
    exec (.quiesceReport p g) s = .next s ∧ exec (.laggard p g) s = .next s ∧ exec (.hardQuiesce p g) s = .next s

/-- R422, R423, R427, R429, R438: a resumption applies the staged entries and puts the contexts and the local memory back from the save area,
or halts the partition with its error; the slice starts at the next multiple of 256 ns of GTIME after it, the packets that had fallen out first,
and takes a GSMARK written since the mark (R425). By the model's choice the table is checked before the area (log 92), ERR reads 0 after a success
(log 93), and the state the save area lays out no form for is kept beside it (log 89). -/
def Obligations.SliceBeginsFromTheSaveArea : Prop :=
  (∀ (s : State) (p : Nat), p < 16 → let q := s.part p
    let u := s.modPart p fun q => { q with active := q.nextMap }
    (q.st ≠ .running ∨ q.phase ≠ .out_ ∨ q.everRun = false → exec (.restore p) s = .next s) ∧
    (q.st = .running → q.phase = .out_ → q.everRun = true → (∀ r < 16, r ≠ p → (s.part r).st = .running → (s.part r).phase = .out_) →
      (s.stagedOk p = false →
        exec (.restore p) s = .next ((s.modPart p fun q => { q with gsErr := 2, st := .halted }).tell p 16)) ∧
      (s.stagedOk p = true → u.areaThere p = false →
        exec (.restore p) s = .next ((s.modPart p fun q => { q with gsErr := 1, st := .halted }).tell p 16)) ∧
      (s.stagedOk p = true → u.areaThere p = true →
        ∃ t, exec (.restore p) s = .next t ∧ (t.part p).phase = .restored s.gtime ∧ (t.part p).active = q.nextMap ∧ (t.part p).gsErr = 0 ∧
          (t.part p).staged = Staged.empty ∧
          ∀ c a, OneCore s p c a → u.hasCore c = true →
            (∀ n < 11, ∀ i < 512, Memory.read s.mem (a + 8192 * n + 0x300 + i) = 0) →
            (∀ n < 11, ∀ x, s.ctx? { core := c, slot := n } = some x →
              ∃ y, t.ctx? { core := c, slot := n } = some y ∧ ImageHolds s.mem (a + 8192 * n) y) ∧
            ∀ i < q.gscfg * 65536, Memory.read t.mem (u.storePa c i) = Memory.read s.mem (a + 0x20000 + i)))) ∧
  ∀ (s : State) (p at_ : Nat), p < 16 → (s.part p).phase = .restored at_ → (s.part p).st = .running →
    (s.gtime < (at_ / 256 + 1) * 256 → exec (.sliceStart p) s = .next s) ∧
    ((at_ / 256 + 1) * 256 ≤ s.gtime → ∃ t, exec (.sliceStart p) s = .next t ∧ t.mem = s.mem ∧ (t.part p).phase = .inSlice ∧
      (t.part p).reinject = [] ∧ (t.part p).gsmark = (s.part p).gsmarkHeld.getD (s.part p).gsmark ∧ (t.part p).gsmarkHeld = none ∧ t.net = ((s.part p).reinject.map fun k => if k.stage = .flying then { k with at_ := s.clock } else k) ++ s.net)

namespace Sys2Proof.Claims
open Sys2Proof.Machine

/-- The state after a command's operands are written (R436). -/
def asked (s : State) (h : HostCmd) : State := s.modPkg h.pkg fun k => { k with hcarg0 := h.arg0, hcarg1 := h.arg1, hcarg2 := h.arg2 }

/-- A command completes: its error, its count and its result (R436). -/
def Completes (s : State) (h : HostCmd) (i : Instr) (v : State) (err : Nat) (r : Option Word) : Prop :=
  exec i s = .next (v.modPkg h.pkg fun k => { k with hcbusy := none, hcerr := err, hcdone := (k.hcdone + 1) % 2 ^ 32, hcarg1 := r.getD k.hcarg1 })

/-- The partition of a command is formed. -/
def IsFormed (q : Part) : Prop := q.st = .formed ∨ q.st = .running ∨ q.st = .halted

end Sys2Proof.Claims

/-- R435: a host access of 1, 2, 4 or 8 bytes in their place in a package's HBM range, that nothing holds back, reads those bytes, or writes
them and no other, and an atomic of 4 or 8 bytes does both; outside the range, or before the package is ready, a load reads zero and a store has no
effect. It is performed at the home that holds the sector, and the host's own core is the environment's (log 150).
R374, R400, R413, R422, R423, R431, R436, R437, R444: a command completes with its count and its error, and one that fails, or that is given
before READY, changes nothing else; while one has not completed, as a SYSWR whose write waits, another is not taken. SYSWR and
SYSRD write and read a system register at firmware level; RMAPW stages an entry; FORM empties a partition; START puts a control context with the block's PC and registers on a core, for the first time under the staged tables; ROUTE
sets a link mask; RESUME runs a halted partition; DISSOLVE ends one, at once where it is not on its cores. By the model's reading a command completes within its step
(log 99) and sets HCARG0 to HCARG2 (log 101), a write of a read-only register is BADARG (log 98), a START of a partition swapped out STATE (log 97), one on
clusters another still holds BADMAP (log 135), and a partition off its cores is dissolved at once (log 95). -/
def Obligations.HostCommandsAndWindowTakeEffect : Prop :=
  (∀ (s : State) (g off n : Nat) (w : Word), (amGet? s.pkgs g).isSome = true → n = 1 ∨ n = 2 ∨ n = 4 ∨ n = 8 → off % n = 0 →
     let k := s.pkg g
     let pa := g * 2 ^ 46 + off
     let outside := exec (.hostWindowAccess g off n .load) s
     (k.ready = false ∨ k.hbmTop < off + n →
       outside = .next (s.modPkg g fun k => { k with hostRead := 0 }) ∧ exec (.hostWindowAccess g off n (.store w)) s = .next s ∧
       (4 ≤ n → ∀ op x c, exec (.hostWindowAccess g off n (.atomic op x c)) s = outside)) ∧
     (n < 4 → ∀ op x c, exec (.hostWindowAccess g off n (.atomic op x c)) s = .next s) ∧
     (k.ready = true → off + n ≤ k.hbmTop → (∀ p < 16, (s.part p).tasks = []) → s.writeUnderWay pa n = false → s.poisoned pa n = false →
       (let h := s.outsideHome pa
        ∀ i < n, s.early h false (pa + i) = false ∧ s.staleHome h (pa + i) = false ∧ s.openAt (pa + i) = false) →
       let m := leNat (Memory.readN s.mem pa n)
       (∃ t, exec (.hostWindowAccess g off n .load) s = .next t ∧ (t.pkg g).hostRead = wd m ∧ t.mem = s.mem) ∧
       (∃ t, exec (.hostWindowAccess g off n (.store w)) s = .next t ∧ t.mem = Memory.writeN s.mem pa (toBytes w.toNat n)) ∧
       (4 ≤ n → Memory.wf s.mem = true → ∀ op x c, x < 2 ^ (8 * n) → c < 2 ^ (8 * n) →
         ∃ t, exec (.hostWindowAccess g off n (.atomic op (wd x) (wd c))) s = .next t ∧ (t.pkg g).hostRead = wd m ∧
           OnlyBytes s.mem t.mem pa n (atomicValue op n m x c)))) ∧
  (∀ (s : State) (h g : HostCmd), (amGet? s.pkgs h.pkg).isSome = true → (s.pkg h.pkg).hcbusy = some g → g ≠ h →
     ∀ i ∈ [Instr.hostSyswr h, .hostSysrd h, .hostRmapw h, .form h, .start h, .route h, .resume h, .dissolve h], exec i s = .next s) ∧
  (∀ (s : State) (h : HostCmd), (amGet? s.pkgs h.pkg).isSome = true → h.part < 16 → (s.pkg h.pkg).hcbusy = none → s.cmdWaits h = true →
     exec (.hostSyswr h) s = .next ((asked s h).modPkg h.pkg fun k => { k with hcbusy := some h })) ∧
  (∀ (s : State) (h : HostCmd), (amGet? s.pkgs h.pkg).isSome = true → h.part < 16 → (s.pkg h.pkg).hcbusy = none →
     let u := asked s h
     let q := s.part h.part
     let plain := h.arg0 = 0 ∧ h.arg1 = 0 ∧ h.arg2 = 0
     ((s.pkg h.pkg).ready = false → ∀ i ∈ [Instr.hostSyswr h, .hostSysrd h, .hostRmapw h, .form h, .start h, .route h, .resume h, .dissolve h],
       Completes s h i u 4 none) ∧
     ((s.pkg h.pkg).ready = true →
       (let n := h.arg0.toNat % 4096
        let c : CtxId := { core := { part := h.part, pkg := h.arg0.toNat / 2 ^ 32 % 64, vc := h.arg0.toNat / 2 ^ 16 % 2 ^ 11 }
                           slot := h.arg0.toNat / 2 ^ 27 % 16 }
        let bad := h.arg0 &&& ~~~(0x0000003F7FFF0FFF#64) ≠ 0 ∨ h.arg2 ≠ 0
        let v := { u with cur := c }
        (bad ∨ sysOfNat n = none → Completes s h (.hostSyswr h) u 2 none ∧ Completes s h (.hostSysrd h) u 2 none) ∧
        ∀ r, ¬bad → sysOfNat n = some r →
         (r = .gtime → Completes s h (.hostSysrd h) u 0 (some (wd (s.clock / 4)))) ∧
         (r = .pwrcap → 1000 ≤ h.arg1.toNat % 4096 → h.arg1.toNat % 4096 ≤ 2500 →
           Completes s h (.hostSyswr h) (u.modPkg h.pkg fun k => { k with pwrcap := h.arg1.toNat % 4096 }) 0 none) ∧
         (r.held ≠ .device → 10 < c.slot → Completes s h (.hostSyswr h) u 2 none ∧ Completes s h (.hostSysrd h) u 2 none) ∧
         (r.held ≠ .device → c.slot ≤ 10 → ¬IsFormed q → Completes s h (.hostSyswr h) u 3 none ∧ Completes s h (.hostSysrd h) u 3 none) ∧
         (IsFormed q → c.slot ≤ 10 → r = .tvec → Completes s h (.hostSysrd h) u 0 (some q.tvec) ∧
           Completes s h (.hostSyswr h) (u.modPart h.part fun q => { q with tvec := h.arg1 &&& 0x00FFFFFFFFFFFFFC }) 0 none) ∧
         (IsFormed q → c.slot ≤ 10 → r.held = .context → s.hasCore c.core = true →
           (s.ctx? c = none → r.writeLevel ≠ none → Completes s h (.hostSyswr h) u 3 none) ∧
           (s.ctx? c = none → Completes s h (.hostSysrd h) u 3 none) ∧
           ∀ x, s.ctx? c = some x → (∀ w, contextWord v x n = some w → Completes s h (.hostSysrd h) u 0 (some w)) ∧
             (r.writeLevel ≠ none → ∃ y, Completes s h (.hostSyswr h) (u.putCtx c y) 0 none ∧ y.regs = x.regs ∧ y.pc = x.pc ∧
               ∀ z, n ≠ 3 → writtenContext x h.arg1 n = some z → y = z))) ∧
       (let sel := h.arg0.toNat
        let bad := sel / 2 ^ 62 = 3 ∨ h.arg0 &&& ~~~(0xCF000000000007FF#64) ≠ 0 ∨ h.arg1 &&& ~~~(0x80000000000007FF#64) ≠ 0 ∨ h.arg2 ≠ 0
        let p := sel / 2 ^ 56 % 16
        (bad → Completes s h (.hostRmapw h) u 2 none) ∧
        (¬bad → ¬IsFormed (s.part p) → Completes s h (.hostRmapw h) u 3 none) ∧
        (¬bad → IsFormed (s.part p) → Completes s h (.hostRmapw h) (u.modPart p fun q => q.stage (sel / 2 ^ 62) (sel % 2 ^ 11)
          (if h.arg1.getLsbD 63 then some (h.arg1.toNat % 2 ^ 11) else none)) 0 none)) ∧
       (¬plain → Completes s h (.form h) u 2 none ∧ Completes s h (.resume h) u 2 none ∧ Completes s h (.dissolve h) u 2 none) ∧
       (plain → (IsFormed q → Completes s h (.form h) u 3 none) ∧
         (¬IsFormed q → ∃ t, Completes s h (.form h) t 0 none ∧ t.part h.part = { Part.fresh with st := .formed } ∧ t.mem = s.mem ∧
           ∀ k ∈ t.cores, (coreOfKey k.1).part ≠ h.part) ∧
         (q.st ≠ .halted → Completes s h (.resume h) u 3 none) ∧
         (q.st = .halted → Completes s h (.resume h) (u.modPart h.part fun q => { q with st := .running }) 0 none) ∧
         (¬IsFormed q → Completes s h (.dissolve h) u 3 none) ∧
         (IsFormed q → q.onCores = true → Completes s h (.dissolve h) (u.modPart h.part fun q => { q with dissolving := true }) 0 none) ∧
         (IsFormed q → q.onCores = false → ∃ t, Completes s h (.dissolve h) t 0 none ∧ (t.part h.part).st = .dissolved ∧
           (t.part h.part).inbox = [] ∧ (t.part h.part).active = Remap.empty ∧ ∀ k ∈ t.cores, (coreOfKey k.1).part ≠ h.part)) ∧
       (let bad := h.arg0 &&& ~~~63#64 ≠ 0 ∨ h.arg1 &&& ~~~(0xFFFFFFFF#64) ≠ 0 ∨ h.arg2 ≠ 0
        (bad → Completes s h (.route h) u 2 none) ∧
        (¬bad → Completes s h (.route h) (u.modPkg h.pkg fun k => { k with route := amSet k.route h.arg0.toNat h.arg1.toNat }) 0 none)) ∧
       (let pa := h.arg1.toNat
        let bad := h.arg0 &&& ~~~(0x1FFFF#64) ≠ 0 ∨ pa % 64 ≠ 0 ∨ 1 < h.arg2.toNat ∨ (amGet? s.pkgs (pa / 2 ^ 46)).isSome = false ∨
          (s.pkg (pa / 2 ^ 46)).hbmTop < pa % 2 ^ 46 + 64
        let c : CtxId := { core := { part := h.part, pkg := h.arg0.toNat / 2 ^ 11 % 64, vc := h.arg0.toNat % 2 ^ 11 }, slot := 0 }
        let may := q.st = .formed ∨ (q.st = .running ∧ q.phase = .inSlice)
        (bad → Completes s h (.start h) u 2 none) ∧
        (¬bad → ¬may → Completes s h (.start h) u 3 none) ∧
        ∀ b v, ¬bad → may → u.deviceRead pa 64 = (b, v) →
         (dword b 0 % 4 ≠ 0 → Completes s h (.start h) u 2 none) ∧
         (dword b 0 % 4 = 0 → q.st = .formed → v.startOk h.part = false → Completes s h (.start h) u 5 none) ∧
         (dword b 0 % 4 = 0 → (q.st = .formed → v.startOk h.part = true) →
           let m := if q.st = .formed then q.nextMap else q.active
           (amGet? m.pkg c.core.pkg = none ∨ amGet? m.vcore c.core.vc = none → Completes s h (.start h) u 2 none) ∧
           ((amGet? m.pkg c.core.pkg).isSome = true → (amGet? m.vcore c.core.vc).isSome = true →
             (∀ x, s.ctx? c = some x → Completes s h (.start h) u 3 none) ∧
             (s.ctx? c = none → ∃ (t : State) (y : Ctx), Completes s h (.start h) t 0 none ∧ t.mem = s.mem ∧ t.ctx? c = some y ∧ (t.slot c).state = .held ∧
               y.pc = wd (dword b 0) ∧ (∀ r : Reg, y.reg r = if 2 ≤ r.val ∧ r.val ≤ 8 then wd (dword b (r.val - 1)) else 0) ∧
               y.kind = .control ∧ y.priv = (if h.arg2 = 1 then .supervisor else .program) ∧ (t.part h.part).st = .running ∧
               (t.part h.part).phase = .inSlice ∧ (t.part h.part).active = m))))))

/-! ### Bring-up, heat, records and power -/

namespace Sys2Proof.Claims
open Sys2Proof.Machine

/-- A signature of a device key holds: the device has made it, or it verifies under the key's public half. -/
abbrev Holds (ml : Bool) (key msg sig : List Byte) : Prop :=
  sig = Config.signs ml key msg ∨ Config.verifies ml (Config.publicHalf ml key) msg sig = true
/-- The Ed25519 and the ML-DSA-65 signature of the device hold over a message (R448, R453, R457); what they are taken over is the model's
reading (log 9). -/
abbrev BothHold (k : Pkg) (msg sig1 sig2 : List Byte) : Prop := Holds false k.attKey1 msg sig1 ∧ Holds true k.attKey2 msg sig2
/-- A copy of the Winter table is valid (R448): 1,024 entries at most, each of a unit there is, and both signatures hold. -/
abbrev ValidCopy (k : Pkg) (c : WinterCopy) : Prop :=
  c.entries.length ≤ 1024 ∧ (∀ e ∈ c.entries, entryOk e = true) ∧ BothHold k (winterMsg c.version c.entries) c.sig1 c.sig2

/-- Copy A is the one bring-up uses. -/
abbrev UsesA (k : Pkg) : Prop := ValidCopy k k.copyA ∧ (ValidCopy k k.copyB → k.copyB.version ≤ k.copyA.version)

/-- The copy bring-up uses: the valid one of the higher version (R448). -/
def newestCopy (k : Pkg) : Option WinterCopy :=
  if UsesA k then some k.copyA else if ValidCopy k k.copyB then some k.copyB else none

/-- A package that has gone out of service (R438, R456). -/
def outOfService (k : Pkg) (n : Nat) : Pkg := { k with ready := false, phase := 15, oos := n, hcevt := k.hcevt ||| (1#64 <<< 48) }

/-- A firmware image is valid (R457). -/
abbrev ValidImage (k : Pkg) (i : FwImage) : Prop :=
  Config.sha384 i.key1 = k.fuseKey1 ∧ Config.sha384 i.key2 = k.fuseKey2 ∧ Config.verifies false i.key1 i.bytes i.sig1 = true ∧
  Config.verifies true i.key2 i.bytes i.sig2 = true ∧ k.fuseMin ≤ i.version

/-- Another copy of the table, signed, with the entries of units it did not list, stands over the one not in use (R448). -/
def Rewritten (k j : Pkg) (new_ : List (BitVec 64)) : Prop :=
  (newestCopy k = none → j.copyA = k.copyA ∧ j.copyB = k.copyB) ∧
  ∀ c, newestCopy k = some c → ∃ n : WinterCopy, n.version = (c.version + 1) % 2 ^ 32 ∧ c.entries <+: n.entries ∧
    BothHold k (winterMsg n.version n.entries) n.sig1 n.sig2 ∧
    (n.entries.length < 1024 → ∀ e ∈ new_, ∃ f ∈ n.entries, fld f 60 4 = fld e 60 4 ∧ fld f 40 16 = fld e 40 16) ∧
    (UsesA k → j.copyA = k.copyA ∧ j.copyB = n) ∧ (¬UsesA k → j.copyA = n ∧ j.copyB = k.copyB)

/-- A partition has state on a package: its tables in force name it, or it is formed and those it would start under name it or none. -/
def OnPackage (q : Part) (g : Nat) : Prop :=
  (∃ e ∈ q.active.pkg, e.2 = g) ∨ (q.st = .formed ∧ (q.nextMap.pkg = [] ∨ ∃ e ∈ q.nextMap.pkg, e.2 = g))

/-- The frequency step of a die after an evaluation (R460). -/
def stepAfter (deg watts cap n : Nat) : Nat :=
  if 110 ≤ deg then 12
  else if 100 ≤ deg ∨ cap < watts then min 12 (n + 1)
  else if deg < 95 ∧ watts + 50 < cap then n - 1
  else n

end Sys2Proof.Claims

/-- R22, R448-R453, R455-R457: power starts a package with its stored records, where their block verifies, and with none where it does not, the
model's choice (log 148); its firmware is a valid image, of two the one of higher version,
or it is out of service; units that fail calibration enter the table; the newest valid table numbers the live units, or the package is out
of service; a lane retired since power came stays off (R449); memory is zeroed and READY set. Each step is taken from the phase before it only. The digests and
signatures stand behind log 9, and the table is cut at 1,024 entries (log 106). -/
def Obligations.PackageIsBroughtUp : Prop :=
  ∀ (s : State) (g : Nat) (failed : List (BitVec 64)), (amGet? s.pkgs g).isSome = true →
    let k := s.pkg g
    (let powered (l : AMap Nat) := s.modPkg g fun k => { k with phase := 1, oos := 0, life := l, hour := s.clock / 14400000000000 }
     let ok := BothHold k (blockBytes k.lifeBlock) k.lifeSig1 k.lifeSig2
     k.phase = 0 → (ok → exec (.powerGood g) s = .next (powered k.lifeBlock)) ∧ (¬ok → exec (.powerGood g) s = .next (powered []))) ∧
    (k.phase ≠ 0 → exec (.powerGood g) s = .next s) ∧
    (k.phase ≠ 1 → exec (.firmwareVerification g) s = .next s) ∧
    (k.phase = 1 → ∃ t, exec (.firmwareVerification g) s = .next t ∧
      t.pkg g = if (k.fw0.any (ValidImage k ·) || k.fw1.any (ValidImage k ·)) = true then { k with phase := 2, fwver := (t.pkg g).fwver, fwRun := (t.pkg g).fwRun }
        else outOfService k 1) ∧
    (k.phase = 1 → ∀ t, exec (.firmwareVerification g) s = .next t → (t.pkg g).phase = 2 →
      ∃ i, (k.fw0 = some i ∨ k.fw1 = some i) ∧ ValidImage k i ∧ (t.pkg g).fwver = i.version % 65536 ∧ (t.pkg g).fwRun = some i ∧
        ∀ j, k.fw0 = some j ∨ k.fw1 = some j → ValidImage k j → j.version ≤ i.version) ∧
    (k.phase ≠ 2 → exec (.selfCalibration g failed) s = .next s) ∧
    (k.phase = 2 → ∃ t, exec (.selfCalibration g failed) s = .next t ∧ (t.pkg g).phase = 3 ∧ t.mem = s.mem ∧
      ((∀ e ∈ failed, entryOk e = false) → (t.pkg g).copyA = k.copyA ∧ (t.pkg g).copyB = k.copyB) ∧
      ((∃ e ∈ failed, entryOk e = true) → Rewritten k (t.pkg g) (failed.filter entryOk))) ∧
    (k.phase ≠ 3 → exec (.numbering g) s = .next s) ∧
    (k.phase = 3 → ∃ t, exec (.numbering g) s = .next t ∧ t.mem = s.mem ∧
      t.pkg g = match newestCopy k with
        | none => outOfService k 2
        | some c =>
          let j : Pkg := { k with retired := c.entries, version := c.version
                                  lanesOff := Machine.dedup (k.lanesOff ++ (c.entries.filter fun e => fld e 60 4 == 4).map fun e => fld e 40 16) }
          if j.inService = true then { j with phase := 4 } else outOfService j 3) ∧
    (k.phase ≠ 4 → exec (.memoryInitialisation g) s = .next s) ∧
    (k.phase = 4 → Memory.wf s.mem = true → ∃ t, exec (.memoryInitialisation g) s = .next t ∧ (t.pkg g).ready = true ∧ (t.pkg g).phase = 5 ∧
      (∀ a, a / 2 ^ 46 = g → Memory.read t.mem a = 0) ∧ ∀ a, a / 2 ^ 46 ≠ g → Memory.read t.mem a = Memory.read s.mem a)

/-- R448, R449, R453, R455, R458-R462: a thermal evaluation steps each die by its hottest sensor and the package's power, and at 120 degrees the
package goes out of service; a die's causes of slowing stand until it is back at step 0, as the model reads R461 (log 102; what the sensors read is the environment's, log 104); the hourly block takes the
records, signed, behind the retirements of earlier instants (R454); pending retirements enter the table where a copy is valid; an attestation report
begins with the nonce, in every phase (R455); a loss of power leaves what is stored and ends the partitions with state on the package, what the report
and the signatures are over, and that such a partition loses all its state, being the model's reading (logs 9, 105). -/
def Obligations.PackageEventsTakeEffect : Prop :=
  ∀ (s : State) (g watts : Nat) (temps : List Nat) (nonce : List Byte), (amGet? s.pkgs g).isSome = true →
    let k := s.pkg g
    let ev := Instr.thermalEvaluation g temps watts
    (k.phase = 0 ∨ k.phase = 15 ∨ temps.length ≠ 4 → exec ev s = .next s) ∧
    (k.phase ≠ 0 → k.phase ≠ 15 → temps.length = 4 →
      ((∃ d ∈ temps, 120 ≤ d) → ∃ t, exec ev s = .next t ∧ t.pkg g = outOfService { k with
          steps := [0, 0, 0, 0], heatSlow := List.replicate 4 false, capSlow := List.replicate 4 false } 4 ∧
        ∀ p < 16, OnPackage (s.part p) g → t.part p = Part.fresh) ∧
      ((∀ d ∈ temps, d < 120) → ∃ t, exec ev s = .next t ∧ t.mem = s.mem ∧
        (∀ d < 4, (t.pkg g).steps.getD d 0 = stepAfter (temps.getD d 0) watts k.pwrcap (k.steps.getD d 0)) ∧
        (t.pkg g).power = watts ∧ (t.pkg g).tmax = temps.foldl max 0 ∧
        ∀ d < 4, let slow := (t.pkg g).steps.getD d 0 ≠ 0
          ((t.pkg g).heatSlow.getD d false = true ↔ slow ∧ (k.heatSlow.getD d false = true ∨ 100 ≤ temps.getD d 0)) ∧
          ((t.pkg g).capSlow.getD d false = true ↔ slow ∧ (k.capSlow.getD d false = true ∨ temps.getD d 0 < 100 ∧ k.pwrcap < watts)))) ∧
    (let now := s.clock / 14400000000000
     let due := k.phase ≠ 0 ∧ k.hour < now
     let later := (k.pendingRetire.filter fun e => e.1 / 4 ≠ s.clock / 4).map (·.2)
     (¬due → exec (.lifetimeWrite g) s = .next s) ∧
     (due → ∃ t, exec (.lifetimeWrite g) s = .next t ∧ t.mem = s.mem ∧ (t.pkg g).lifeBlock = k.life ∧ (t.pkg g).life = k.life ∧ (t.pkg g).hour = now ∧
       BothHold k (blockBytes k.life) (t.pkg g).lifeSig1 (t.pkg g).lifeSig2 ∧ (later ≠ [] → Rewritten k (t.pkg g) later)) ∧
     (k.phase ≠ 0 → ¬due → newestCopy k ≠ none → k.pendingRetire ≠ [] → ∃ t, exec (.winterRewrite g) s = .next t ∧ (t.pkg g).pendingRetire = [] ∧
       t.mem = s.mem ∧ Rewritten k (t.pkg g) (k.pendingRetire.map (·.2))) ∧
     (k.phase = 0 ∨ newestCopy k = none ∨ k.pendingRetire = [] → exec (.winterRewrite g) s = .next s)) ∧
    (nonce.length = 32 → ∃ t, exec (.attestationRequest g nonce) s = .next t ∧ (t.pkg g).report.take 32 = nonce ∧
      (t.pkg g).report.length = 3565 ∧ t.mem = s.mem) ∧
    (nonce.length ≠ 32 → exec (.attestationRequest g nonce) s = .next s) ∧
    ∃ t, exec (.powerLoss g) s = .next t ∧ (t.pkg g).ready = false ∧ (t.pkg g).phase = 0 ∧ (t.pkg g).copyA = k.copyA ∧
      (t.pkg g).copyB = k.copyB ∧ (t.pkg g).fw0 = k.fw0 ∧ (t.pkg g).fw1 = k.fw1 ∧ (t.pkg g).lifeBlock = k.lifeBlock ∧
      (t.pkg g).lifeSig1 = k.lifeSig1 ∧ (t.pkg g).lifeSig2 = k.lifeSig2 ∧ (t.pkg g).attKey1 = k.attKey1 ∧ (t.pkg g).attKey2 = k.attKey2 ∧
      (t.pkg g).fuseMin = k.fuseMin ∧ ∀ p < 16, OnPackage (s.part p) g → t.part p = Part.fresh

/-! ### Encoding, reset and memory -/

/-- R26-R49: every word of a well-formed instruction has 32 bits and decodes to that instruction, with every operand at every value. -/
def Obligations.EncodedInstructionDecodesBack : Prop :=
  ∀ (i : Instr) (w : Nat), i.wellFormed = true → encode i = some w → w < 2 ^ 32 ∧ decodeNat w = .ok i

/-- R26-R49: a word that decodes is the word of the well-formed instruction it decodes to, so that no bit of it is ignored. -/
def Obligations.DecodedWordIsItsInstructionsWord : Prop :=
  ∀ (w : BitVec 32) (i : Instr), decode w = .ok i → i.wellFormed = true ∧ encode i = some w.toNat

/-- Words written out bit by bit from the encoding tables (R27, R36-R49) decode to the instructions they stand for, one with a reserved
field set, one of an unassigned major opcode and one of an unassigned function to none. -/
def Obligations.WrittenWordsDecode : Prop :=
  decode 0b000001_00101_00110_00111_001110_00000 = .ok (.divs 5 6 7) ∧
  decode 0b000001_00101_00110_00000_011101_00001 = .ok (.exts 5 6 .h) ∧
  decode 0b000100_00100_00000_1100110111101111 = .ok (.ori 4 0 0xCDEF) ∧
  decode 0b010001_00000_00101_0_111111111111100 = .ok (.blt 0 5 0x7FFC) ∧
  decode 0b010011_00001_000000000000001000000 = .ok (.call 1 0x40) ∧
  decode 0b010100_01101_00100_0001_000000000001 = .ok (.ld 13 4 .d 0 1) ∧
  decode 0b011000_01100_00100_00101_0010_00000_11 = .ok (.aadd 12 4 5 true 2) ∧
  decode 0b100010_000011_000001_000010_00000000 = .ok (.vadd 3 1 2 .f32) ∧
  decode 0b101001_01100_00101_11000_0000_0011000 = .ok (.qctl 12 0 5 0) ∧
  decode 0b101101_01100_01101_01110_00000000000 = .ok (.tenq 12 13 14) ∧
  decode 0b110100_01100_00100_00101_00011010000 = .ok (.bred 12 4 5 .faddd) ∧
  decode 0b110101_01101_00000_0100000000000001 = .ok (.sysrd 13 1) ∧
  decode 0b000001_00101_00110_00111_001110_00001 = .error .reservedField ∧
  decode 0b111111_00000_00000_0000000000000000 = .error .major ∧
  decode 0b000001_00101_00110_00111_111111_00000 = .error .operation

/-- R181: every step keeps memory in its canonical form: addresses rising, no byte listed that reads as an unlisted one. -/
def Obligations.MemoryStaysCanonical : Prop :=
  ∀ s t : State, Memory.wf s.mem = true → step s = .next t → Memory.wf t.mem = true

/-- R184, R387, R421, R436, R455, R456, R461: the device when READY is first set: memory zero, no partition formed, no command or event
pending, the power cap 2,500 W, no step taken; a core, partition and barrier as its partition first holds it has its registers at the
values the chapters give. One package stands in the domain and no unit is retired by the model's choice (log 4). -/
def Obligations.ResetIsTheDeviceAtReady : Prop :=
  let s := State.reset
  (∀ a, Memory.read s.mem a = 0) ∧ Memory.wf s.mem = true ∧ s.net = [] ∧ s.jobs = [] ∧ (∀ p < 16, (s.part p).st = .absent) ∧
  (∀ c, s.ctx? c = none) ∧ (s.pkg 0).ready = true ∧ (s.pkg 0).phase = 5 ∧ (s.pkg 0).oos = 0 ∧ (s.pkg 0).pwrcap = 2500 ∧
  (s.pkg 0).hcdone = 0 ∧ (s.pkg 0).hcerr = 0 ∧ (s.pkg 0).hcevt = 0 ∧ (s.pkg 0).steps = [0, 0, 0, 0] ∧
  (∀ p < 16, ∀ n < 32, let b := s.barrier p n
    b.gen = 0 ∧ b.counts = [] ∧ b.joins = [] ∧ b.arrived = [] ∧ b.held = []) ∧
  ∀ c, (s.core c).l2size = 4 ∧ (s.core c).rlseq = 0 ∧ (s.core c).winref = 0 ∧ ∀ p < 16, (s.part p).spsize = 16384 ∧ (s.part p).pmctl = 0
end

