-- ==== Sys2Proof/Laws/Operands.lean ====
section
/-! SUPPORT. What the operand forms do: register operands that nothing holds back are read, and nothing else happens. -/
namespace Sys2Proof.Machine

/-- Where a register destination sends its result. -/
def regPlan : Option Reg → Plan
  | some d => .reg d
  | none => .reg 0

theorem interlock_pass (e : Ex) (regs : List Reg) (hw : ∀ w ∈ e.cx.windows, w.dest ∉ regs)
    (ho : ∀ a ∈ e.cx.out, ∀ r ∈ regs, r ≠ 0 → a.writes r = false) (hl : ∀ p ∈ e.cx.lat, p.1 ∈ regs → p.2 ≤ e.st.clock) :
    (interlock regs).run e = .ok ((), e) := by
  have h1 : (e.cx.windows.find? fun w => regs.contains w.dest) = none := by
    rw [List.find?_eq_none]
    intro w h
    simpa using hw w h
  have h2 : (e.cx.out.any fun a => regs.any fun r => decide (r ≠ 0) && a.writes r) = false := by
    rw [List.any_eq_false]
    intro a ha
    rw [Bool.not_eq_true, List.any_eq_false]
    intro r hr
    by_cases h0 : r = 0
    · simp [h0]
    · simp [ho a ha r hr h0]
  have h3 : (e.cx.lat.any fun p => decide (p.1 ≠ 0) && regs.contains p.1 && decide (e.st.clock < p.2)) = false := by
    rw [List.any_eq_false]
    intro p hp
    have := hl p hp
    simp only [Bool.and_eq_true, decide_eq_true_eq, List.contains_iff_mem, not_and]
    intro hr hlt
    have := this hr.2
    omega
  simp only [interlock, cx, st, StateT.run, bind, StateT.bind, get, getThe, MonadStateOf.get, StateT.get, pure, StateT.pure, Except.pure, Except.bind, h1, h2,
    h3, waitUnless]
  rfl

theorem readSources_plain (i : Instr) (e : Ex) (claims : List (Fin 8)) (srcs : List Reg) (hb : ∀ r ∈ srcs, e.cx.binding r = none) :
    (readSources i srcs claims).run e = .ok (srcs.map e.cx.reg, e) := by
  induction srcs with
  | nil => rfl
  | cons r rest ih =>
    have h1 := hb r (List.mem_cons.2 (.inl rfl))
    have h2 := ih fun q hq => hb q (List.mem_cons.2 (.inr hq))
    simp only [StateT.run] at h2
    simp only [readSources, cx, StateT.run, bind, StateT.bind, get, getThe, MonadStateOf.get, StateT.get, pure, StateT.pure, Except.pure, Except.bind, h1, h2,
      List.map_cons]

theorem planDest_plain (i : Instr) (e : Ex) (d : Reg) (hb : e.cx.binding d = none) : (planDest i d).run e = .ok (.reg d, e) := by
  simp only [planDest, destCheck, cx, StateT.run, bind, StateT.bind, get, getThe, MonadStateOf.get, StateT.get, pure, StateT.pure, Except.pure, Except.bind, hb]

theorem popsOf_plain (x : Ctx) (srcs : List Reg) (hb : ∀ r ∈ srcs, x.binding r = none) : popsOf x srcs = [] := by
  induction srcs with
  | nil => rfl
  | cons r rest ih =>
    have := ih fun q hq => hb q (List.mem_cons.2 (.inr hq))
    simp only [popsOf] at this
    simp [popsOf, hb r (List.mem_cons.2 (.inl rfl)), this]

/-- Register operands with no lookahead window, no result outstanding or in the pipeline and no binding among them: the values in field
order, and nothing has changed. -/
theorem operands_plain (i : Instr) (e : Ex) (srcs : List Reg) (d : Option Reg) (extra : List Reg)
    (hw : ∀ w ∈ e.cx.windows, w.dest ∉ srcs ++ d.toList ++ extra)
    (ho : ∀ a ∈ e.cx.out, ∀ r ∈ srcs ++ d.toList ++ extra, r ≠ 0 → a.writes r = false)
    (hl : ∀ p ∈ e.cx.lat, p.1 ∈ srcs ++ d.toList ++ extra → p.2 ≤ e.st.clock)
    (hb : ∀ r ∈ srcs ++ d.toList, e.cx.binding r = none) :
    (operands i srcs d extra).run e = .ok ((srcs.map e.cx.reg, regPlan d), e) := by
  have hs : ∀ r ∈ srcs, e.cx.binding r = none := fun r hr => hb r (List.mem_append.2 (.inl hr))
  have h1 := interlock_pass e _ hw ho hl
  have h2 := readSources_plain i e [] srcs hs
  simp only [StateT.run] at h1 h2
  cases d with
  | none =>
    simp only [operands, StateT.run, bind, StateT.bind, h1, Except.bind, h2, cx, get, getThe, MonadStateOf.get, StateT.get, pure,
      StateT.pure, Except.pure, popsOf_plain _ _ hs, regPlan]
    rfl
  | some d =>
    have h3 := planDest_plain i e d (hb d (by simp))
    simp only [StateT.run] at h3
    simp only [operands, StateT.run, bind, StateT.bind, h1, Except.bind, h2, h3, cx, get, getThe, MonadStateOf.get, StateT.get, pure,
      StateT.pure, Except.pure, popsOf_plain _ _ hs, regPlan]
    rfl

/-- A result that goes to a register is written there. -/
theorem putDest_reg (e : Ex) (d : Reg) (v : Word) : (putDest (.reg d) v).run e = .ok ((), { e with cx := e.cx.setReg d v }) := rfl

end Sys2Proof.Machine
end

