-- ==== Sys2Proof/Laws/State.lean ====
section
/-! SUPPORT. Reading a field of the state after an update: one lemma a field and update, so that no proof unfolds a record update. -/
namespace Sys2Proof.Machine

/-! ### Sparse tables -/

@[simp] theorem amGet?_amSet_self {α : Type} (m : AMap α) (k : Nat) (x : α) : amGet? (amSet m k x) k = some x := by
  induction m with
  | nil => simp [amSet, amGet?]
  | cons y r ih =>
    obtain ⟨j, v⟩ := y
    simp only [amSet]
    split
    · simp [amGet?]
    · split
      · simp [amGet?]
      · rw [amGet?, if_neg ‹_›, if_neg ‹_›]
        exact ih

theorem amGet?_amSet_ne {α : Type} (m : AMap α) {k j : Nat} (x : α) (h : j ≠ k) : amGet? (amSet m k x) j = amGet? m j := by
  induction m with
  | nil => simp [amSet, amGet?, h]
  | cons y r ih =>
    obtain ⟨i, v⟩ := y
    simp only [amSet]
    split
    · rename_i hk
      rw [amGet?, if_neg h]
      split
      · rename_i hj
        rw [amGet?, if_neg (by omega), if_pos (by omega)]
      · rfl
    · split
      · rename_i hk
        subst hk
        rw [amGet?, amGet?, if_neg h, if_neg h]
      · rw [amGet?, amGet?, ih]

@[simp] theorem amGet_amSet_self {α : Type} (d : α) (m : AMap α) (k : Nat) (x : α) : amGet d (amSet m k x) k = x := by
  simp [amGet]

theorem amGet_amSet_ne {α : Type} (d : α) (m : AMap α) {k j : Nat} (x : α) (h : j ≠ k) :
    amGet d (amSet m k x) j = amGet d m j := by
  simp [amGet, amGet?_amSet_ne m x h]

/-! ### Fixed tables -/

theorem vecGet_set_self {α : Type} {n : Nat} (v : Vector α n) (i : Fin n) (x : α) : (v.set i x).get i = x :=
  Vector.getElem_set_self i.isLt
theorem vecGet_set_ne {α : Type} {n : Nat} (v : Vector α n) {i j : Fin n} (x : α) (h : i ≠ j) : (v.set i x).get j = v.get j :=
  Vector.getElem_set_ne i.isLt j.isLt fun e => h (Fin.ext e)

/-! ### One update, one field -/

@[simp] theorem State.setCore_clock (s : State) (c : CoreId) (k : Core) : (s.setCore c k).clock = s.clock := rfl
@[simp] theorem State.setCore_mem (s : State) (c : CoreId) (k : Core) : (s.setCore c k).mem = s.mem := rfl
@[simp] theorem State.setCore_poison (s : State) (c : CoreId) (k : Core) : (s.setCore c k).poison = s.poison := rfl
@[simp] theorem State.setCore_dirty (s : State) (c : CoreId) (k : Core) : (s.setCore c k).dirty = s.dirty := rfl
@[simp] theorem State.setCore_openBytes (s : State) (c : CoreId) (k : Core) : (s.setCore c k).openBytes = s.openBytes := rfl
@[simp] theorem State.setCore_clusters (s : State) (c : CoreId) (k : Core) : (s.setCore c k).clusters = s.clusters := rfl
@[simp] theorem State.setCore_parts (s : State) (c : CoreId) (k : Core) : (s.setCore c k).parts = s.parts := rfl
@[simp] theorem State.setCore_pkgs (s : State) (c : CoreId) (k : Core) : (s.setCore c k).pkgs = s.pkgs := rfl
@[simp] theorem State.setCore_jobs (s : State) (c : CoreId) (k : Core) : (s.setCore c k).jobs = s.jobs := rfl
@[simp] theorem State.setCore_etlbs (s : State) (c : CoreId) (k : Core) : (s.setCore c k).etlbs = s.etlbs := rfl
@[simp] theorem State.setCore_net (s : State) (c : CoreId) (k : Core) : (s.setCore c k).net = s.net := rfl
@[simp] theorem State.setCore_kept (s : State) (c : CoreId) (k : Core) : (s.setCore c k).kept = s.kept := rfl
@[simp] theorem State.setCore_outgoing (s : State) (c : CoreId) (k : Core) : (s.setCore c k).outgoing = s.outgoing := rfl
@[simp] theorem State.setCore_pairs (s : State) (c : CoreId) (k : Core) : (s.setCore c k).pairs = s.pairs := rfl
@[simp] theorem State.setCore_homeWrites (s : State) (c : CoreId) (k : Core) : (s.setCore c k).homeWrites = s.homeWrites := rfl
@[simp] theorem State.setCore_replies (s : State) (c : CoreId) (k : Core) : (s.setCore c k).replies = s.replies := rfl
@[simp] theorem State.setCore_walks (s : State) (c : CoreId) (k : Core) : (s.setCore c k).walks = s.walks := rfl
@[simp] theorem State.setCore_invals (s : State) (c : CoreId) (k : Core) : (s.setCore c k).invals = s.invals := rfl
@[simp] theorem State.setCore_publishes (s : State) (c : CoreId) (k : Core) : (s.setCore c k).publishes = s.publishes := rfl
@[simp] theorem State.setCore_cur (s : State) (c : CoreId) (k : Core) : (s.setCore c k).cur = s.cur := rfl
@[simp] theorem State.setCore_turn (s : State) (c : CoreId) (k : Core) : (s.setCore c k).turn = s.turn := rfl
@[simp] theorem State.setCore_nextId (s : State) (c : CoreId) (k : Core) : (s.setCore c k).nextId = s.nextId := rfl
@[simp] theorem State.setCore_fresh (s : State) (c : CoreId) (k : Core) : (s.setCore c k).fresh = s.fresh := rfl
@[simp] theorem State.setCore_agenda (s : State) (c : CoreId) (k : Core) : (s.setCore c k).agenda = s.agenda := rfl

@[simp] theorem State.setCluster_clock (s : State) (u : CluId) (k : Cluster) : (s.setCluster u k).clock = s.clock := rfl
@[simp] theorem State.setCluster_mem (s : State) (u : CluId) (k : Cluster) : (s.setCluster u k).mem = s.mem := rfl
@[simp] theorem State.setCluster_poison (s : State) (u : CluId) (k : Cluster) : (s.setCluster u k).poison = s.poison := rfl
@[simp] theorem State.setCluster_dirty (s : State) (u : CluId) (k : Cluster) : (s.setCluster u k).dirty = s.dirty := rfl
@[simp] theorem State.setCluster_openBytes (s : State) (u : CluId) (k : Cluster) : (s.setCluster u k).openBytes = s.openBytes := rfl
@[simp] theorem State.setCluster_cores (s : State) (u : CluId) (k : Cluster) : (s.setCluster u k).cores = s.cores := rfl
@[simp] theorem State.setCluster_parts (s : State) (u : CluId) (k : Cluster) : (s.setCluster u k).parts = s.parts := rfl
@[simp] theorem State.setCluster_pkgs (s : State) (u : CluId) (k : Cluster) : (s.setCluster u k).pkgs = s.pkgs := rfl
@[simp] theorem State.setCluster_jobs (s : State) (u : CluId) (k : Cluster) : (s.setCluster u k).jobs = s.jobs := rfl
@[simp] theorem State.setCluster_etlbs (s : State) (u : CluId) (k : Cluster) : (s.setCluster u k).etlbs = s.etlbs := rfl
@[simp] theorem State.setCluster_net (s : State) (u : CluId) (k : Cluster) : (s.setCluster u k).net = s.net := rfl
@[simp] theorem State.setCluster_kept (s : State) (u : CluId) (k : Cluster) : (s.setCluster u k).kept = s.kept := rfl
@[simp] theorem State.setCluster_outgoing (s : State) (u : CluId) (k : Cluster) : (s.setCluster u k).outgoing = s.outgoing := rfl
@[simp] theorem State.setCluster_pairs (s : State) (u : CluId) (k : Cluster) : (s.setCluster u k).pairs = s.pairs := rfl
@[simp] theorem State.setCluster_homeWrites (s : State) (u : CluId) (k : Cluster) : (s.setCluster u k).homeWrites = s.homeWrites := rfl
@[simp] theorem State.setCluster_replies (s : State) (u : CluId) (k : Cluster) : (s.setCluster u k).replies = s.replies := rfl
@[simp] theorem State.setCluster_walks (s : State) (u : CluId) (k : Cluster) : (s.setCluster u k).walks = s.walks := rfl
@[simp] theorem State.setCluster_invals (s : State) (u : CluId) (k : Cluster) : (s.setCluster u k).invals = s.invals := rfl
@[simp] theorem State.setCluster_publishes (s : State) (u : CluId) (k : Cluster) : (s.setCluster u k).publishes = s.publishes := rfl
@[simp] theorem State.setCluster_cur (s : State) (u : CluId) (k : Cluster) : (s.setCluster u k).cur = s.cur := rfl
@[simp] theorem State.setCluster_turn (s : State) (u : CluId) (k : Cluster) : (s.setCluster u k).turn = s.turn := rfl
@[simp] theorem State.setCluster_nextId (s : State) (u : CluId) (k : Cluster) : (s.setCluster u k).nextId = s.nextId := rfl
@[simp] theorem State.setCluster_fresh (s : State) (u : CluId) (k : Cluster) : (s.setCluster u k).fresh = s.fresh := rfl
@[simp] theorem State.setCluster_agenda (s : State) (u : CluId) (k : Cluster) : (s.setCluster u k).agenda = s.agenda := rfl

@[simp] theorem State.setPart_clock (s : State) (p : Nat) (x : Part) : (s.setPart p x).clock = s.clock := rfl
@[simp] theorem State.setPart_mem (s : State) (p : Nat) (x : Part) : (s.setPart p x).mem = s.mem := rfl
@[simp] theorem State.setPart_poison (s : State) (p : Nat) (x : Part) : (s.setPart p x).poison = s.poison := rfl
@[simp] theorem State.setPart_dirty (s : State) (p : Nat) (x : Part) : (s.setPart p x).dirty = s.dirty := rfl
@[simp] theorem State.setPart_openBytes (s : State) (p : Nat) (x : Part) : (s.setPart p x).openBytes = s.openBytes := rfl
@[simp] theorem State.setPart_cores (s : State) (p : Nat) (x : Part) : (s.setPart p x).cores = s.cores := rfl
@[simp] theorem State.setPart_clusters (s : State) (p : Nat) (x : Part) : (s.setPart p x).clusters = s.clusters := rfl
@[simp] theorem State.setPart_pkgs (s : State) (p : Nat) (x : Part) : (s.setPart p x).pkgs = s.pkgs := rfl
@[simp] theorem State.setPart_jobs (s : State) (p : Nat) (x : Part) : (s.setPart p x).jobs = s.jobs := rfl
@[simp] theorem State.setPart_etlbs (s : State) (p : Nat) (x : Part) : (s.setPart p x).etlbs = s.etlbs := rfl
@[simp] theorem State.setPart_net (s : State) (p : Nat) (x : Part) : (s.setPart p x).net = s.net := rfl
@[simp] theorem State.setPart_kept (s : State) (p : Nat) (x : Part) : (s.setPart p x).kept = s.kept := rfl
@[simp] theorem State.setPart_outgoing (s : State) (p : Nat) (x : Part) : (s.setPart p x).outgoing = s.outgoing := rfl
@[simp] theorem State.setPart_pairs (s : State) (p : Nat) (x : Part) : (s.setPart p x).pairs = s.pairs := rfl
@[simp] theorem State.setPart_homeWrites (s : State) (p : Nat) (x : Part) : (s.setPart p x).homeWrites = s.homeWrites := rfl
@[simp] theorem State.setPart_replies (s : State) (p : Nat) (x : Part) : (s.setPart p x).replies = s.replies := rfl
@[simp] theorem State.setPart_walks (s : State) (p : Nat) (x : Part) : (s.setPart p x).walks = s.walks := rfl
@[simp] theorem State.setPart_invals (s : State) (p : Nat) (x : Part) : (s.setPart p x).invals = s.invals := rfl
@[simp] theorem State.setPart_publishes (s : State) (p : Nat) (x : Part) : (s.setPart p x).publishes = s.publishes := rfl
@[simp] theorem State.setPart_cur (s : State) (p : Nat) (x : Part) : (s.setPart p x).cur = s.cur := rfl
@[simp] theorem State.setPart_turn (s : State) (p : Nat) (x : Part) : (s.setPart p x).turn = s.turn := rfl
@[simp] theorem State.setPart_nextId (s : State) (p : Nat) (x : Part) : (s.setPart p x).nextId = s.nextId := rfl
@[simp] theorem State.setPart_fresh (s : State) (p : Nat) (x : Part) : (s.setPart p x).fresh = s.fresh := rfl
@[simp] theorem State.setPart_agenda (s : State) (p : Nat) (x : Part) : (s.setPart p x).agenda = s.agenda := rfl

@[simp] theorem State.setPkg_clock (s : State) (g : Nat) (x : Pkg) : (s.setPkg g x).clock = s.clock := rfl
@[simp] theorem State.setPkg_mem (s : State) (g : Nat) (x : Pkg) : (s.setPkg g x).mem = s.mem := rfl
@[simp] theorem State.setPkg_poison (s : State) (g : Nat) (x : Pkg) : (s.setPkg g x).poison = s.poison := rfl
@[simp] theorem State.setPkg_dirty (s : State) (g : Nat) (x : Pkg) : (s.setPkg g x).dirty = s.dirty := rfl
@[simp] theorem State.setPkg_openBytes (s : State) (g : Nat) (x : Pkg) : (s.setPkg g x).openBytes = s.openBytes := rfl
@[simp] theorem State.setPkg_cores (s : State) (g : Nat) (x : Pkg) : (s.setPkg g x).cores = s.cores := rfl
@[simp] theorem State.setPkg_clusters (s : State) (g : Nat) (x : Pkg) : (s.setPkg g x).clusters = s.clusters := rfl
@[simp] theorem State.setPkg_parts (s : State) (g : Nat) (x : Pkg) : (s.setPkg g x).parts = s.parts := rfl
@[simp] theorem State.setPkg_jobs (s : State) (g : Nat) (x : Pkg) : (s.setPkg g x).jobs = s.jobs := rfl
@[simp] theorem State.setPkg_etlbs (s : State) (g : Nat) (x : Pkg) : (s.setPkg g x).etlbs = s.etlbs := rfl
@[simp] theorem State.setPkg_net (s : State) (g : Nat) (x : Pkg) : (s.setPkg g x).net = s.net := rfl
@[simp] theorem State.setPkg_kept (s : State) (g : Nat) (x : Pkg) : (s.setPkg g x).kept = s.kept := rfl
@[simp] theorem State.setPkg_outgoing (s : State) (g : Nat) (x : Pkg) : (s.setPkg g x).outgoing = s.outgoing := rfl
@[simp] theorem State.setPkg_pairs (s : State) (g : Nat) (x : Pkg) : (s.setPkg g x).pairs = s.pairs := rfl
@[simp] theorem State.setPkg_homeWrites (s : State) (g : Nat) (x : Pkg) : (s.setPkg g x).homeWrites = s.homeWrites := rfl
@[simp] theorem State.setPkg_replies (s : State) (g : Nat) (x : Pkg) : (s.setPkg g x).replies = s.replies := rfl
@[simp] theorem State.setPkg_walks (s : State) (g : Nat) (x : Pkg) : (s.setPkg g x).walks = s.walks := rfl
@[simp] theorem State.setPkg_invals (s : State) (g : Nat) (x : Pkg) : (s.setPkg g x).invals = s.invals := rfl
@[simp] theorem State.setPkg_publishes (s : State) (g : Nat) (x : Pkg) : (s.setPkg g x).publishes = s.publishes := rfl
@[simp] theorem State.setPkg_cur (s : State) (g : Nat) (x : Pkg) : (s.setPkg g x).cur = s.cur := rfl
@[simp] theorem State.setPkg_turn (s : State) (g : Nat) (x : Pkg) : (s.setPkg g x).turn = s.turn := rfl
@[simp] theorem State.setPkg_nextId (s : State) (g : Nat) (x : Pkg) : (s.setPkg g x).nextId = s.nextId := rfl
@[simp] theorem State.setPkg_fresh (s : State) (g : Nat) (x : Pkg) : (s.setPkg g x).fresh = s.fresh := rfl
@[simp] theorem State.setPkg_agenda (s : State) (g : Nat) (x : Pkg) : (s.setPkg g x).agenda = s.agenda := rfl

@[simp] theorem State.modCore_clock (s : State) (c : CoreId) (f : Core → Core) : (s.modCore c f).clock = s.clock := rfl
@[simp] theorem State.modCore_mem (s : State) (c : CoreId) (f : Core → Core) : (s.modCore c f).mem = s.mem := rfl
@[simp] theorem State.modCore_poison (s : State) (c : CoreId) (f : Core → Core) : (s.modCore c f).poison = s.poison := rfl
@[simp] theorem State.modCore_dirty (s : State) (c : CoreId) (f : Core → Core) : (s.modCore c f).dirty = s.dirty := rfl
@[simp] theorem State.modCore_openBytes (s : State) (c : CoreId) (f : Core → Core) : (s.modCore c f).openBytes = s.openBytes := rfl
@[simp] theorem State.modCore_clusters (s : State) (c : CoreId) (f : Core → Core) : (s.modCore c f).clusters = s.clusters := rfl
@[simp] theorem State.modCore_parts (s : State) (c : CoreId) (f : Core → Core) : (s.modCore c f).parts = s.parts := rfl
@[simp] theorem State.modCore_pkgs (s : State) (c : CoreId) (f : Core → Core) : (s.modCore c f).pkgs = s.pkgs := rfl
@[simp] theorem State.modCore_jobs (s : State) (c : CoreId) (f : Core → Core) : (s.modCore c f).jobs = s.jobs := rfl
@[simp] theorem State.modCore_etlbs (s : State) (c : CoreId) (f : Core → Core) : (s.modCore c f).etlbs = s.etlbs := rfl
@[simp] theorem State.modCore_net (s : State) (c : CoreId) (f : Core → Core) : (s.modCore c f).net = s.net := rfl
@[simp] theorem State.modCore_kept (s : State) (c : CoreId) (f : Core → Core) : (s.modCore c f).kept = s.kept := rfl
@[simp] theorem State.modCore_outgoing (s : State) (c : CoreId) (f : Core → Core) : (s.modCore c f).outgoing = s.outgoing := rfl
@[simp] theorem State.modCore_pairs (s : State) (c : CoreId) (f : Core → Core) : (s.modCore c f).pairs = s.pairs := rfl
@[simp] theorem State.modCore_homeWrites (s : State) (c : CoreId) (f : Core → Core) : (s.modCore c f).homeWrites = s.homeWrites := rfl
@[simp] theorem State.modCore_replies (s : State) (c : CoreId) (f : Core → Core) : (s.modCore c f).replies = s.replies := rfl
@[simp] theorem State.modCore_walks (s : State) (c : CoreId) (f : Core → Core) : (s.modCore c f).walks = s.walks := rfl
@[simp] theorem State.modCore_invals (s : State) (c : CoreId) (f : Core → Core) : (s.modCore c f).invals = s.invals := rfl
@[simp] theorem State.modCore_publishes (s : State) (c : CoreId) (f : Core → Core) : (s.modCore c f).publishes = s.publishes := rfl
@[simp] theorem State.modCore_cur (s : State) (c : CoreId) (f : Core → Core) : (s.modCore c f).cur = s.cur := rfl
@[simp] theorem State.modCore_turn (s : State) (c : CoreId) (f : Core → Core) : (s.modCore c f).turn = s.turn := rfl
@[simp] theorem State.modCore_nextId (s : State) (c : CoreId) (f : Core → Core) : (s.modCore c f).nextId = s.nextId := rfl
@[simp] theorem State.modCore_fresh (s : State) (c : CoreId) (f : Core → Core) : (s.modCore c f).fresh = s.fresh := rfl
@[simp] theorem State.modCore_agenda (s : State) (c : CoreId) (f : Core → Core) : (s.modCore c f).agenda = s.agenda := rfl

@[simp] theorem State.modCluster_clock (s : State) (u : CluId) (f : Cluster → Cluster) : (s.modCluster u f).clock = s.clock := rfl
@[simp] theorem State.modCluster_mem (s : State) (u : CluId) (f : Cluster → Cluster) : (s.modCluster u f).mem = s.mem := rfl
@[simp] theorem State.modCluster_poison (s : State) (u : CluId) (f : Cluster → Cluster) : (s.modCluster u f).poison = s.poison := rfl
@[simp] theorem State.modCluster_dirty (s : State) (u : CluId) (f : Cluster → Cluster) : (s.modCluster u f).dirty = s.dirty := rfl
@[simp] theorem State.modCluster_openBytes (s : State) (u : CluId) (f : Cluster → Cluster) : (s.modCluster u f).openBytes = s.openBytes := rfl
@[simp] theorem State.modCluster_cores (s : State) (u : CluId) (f : Cluster → Cluster) : (s.modCluster u f).cores = s.cores := rfl
@[simp] theorem State.modCluster_parts (s : State) (u : CluId) (f : Cluster → Cluster) : (s.modCluster u f).parts = s.parts := rfl
@[simp] theorem State.modCluster_pkgs (s : State) (u : CluId) (f : Cluster → Cluster) : (s.modCluster u f).pkgs = s.pkgs := rfl
@[simp] theorem State.modCluster_jobs (s : State) (u : CluId) (f : Cluster → Cluster) : (s.modCluster u f).jobs = s.jobs := rfl
@[simp] theorem State.modCluster_etlbs (s : State) (u : CluId) (f : Cluster → Cluster) : (s.modCluster u f).etlbs = s.etlbs := rfl
@[simp] theorem State.modCluster_net (s : State) (u : CluId) (f : Cluster → Cluster) : (s.modCluster u f).net = s.net := rfl
@[simp] theorem State.modCluster_kept (s : State) (u : CluId) (f : Cluster → Cluster) : (s.modCluster u f).kept = s.kept := rfl
@[simp] theorem State.modCluster_outgoing (s : State) (u : CluId) (f : Cluster → Cluster) : (s.modCluster u f).outgoing = s.outgoing := rfl
@[simp] theorem State.modCluster_pairs (s : State) (u : CluId) (f : Cluster → Cluster) : (s.modCluster u f).pairs = s.pairs := rfl
@[simp] theorem State.modCluster_homeWrites (s : State) (u : CluId) (f : Cluster → Cluster) : (s.modCluster u f).homeWrites = s.homeWrites := rfl
@[simp] theorem State.modCluster_replies (s : State) (u : CluId) (f : Cluster → Cluster) : (s.modCluster u f).replies = s.replies := rfl
@[simp] theorem State.modCluster_walks (s : State) (u : CluId) (f : Cluster → Cluster) : (s.modCluster u f).walks = s.walks := rfl
@[simp] theorem State.modCluster_invals (s : State) (u : CluId) (f : Cluster → Cluster) : (s.modCluster u f).invals = s.invals := rfl
@[simp] theorem State.modCluster_publishes (s : State) (u : CluId) (f : Cluster → Cluster) : (s.modCluster u f).publishes = s.publishes := rfl
@[simp] theorem State.modCluster_cur (s : State) (u : CluId) (f : Cluster → Cluster) : (s.modCluster u f).cur = s.cur := rfl
@[simp] theorem State.modCluster_turn (s : State) (u : CluId) (f : Cluster → Cluster) : (s.modCluster u f).turn = s.turn := rfl
@[simp] theorem State.modCluster_nextId (s : State) (u : CluId) (f : Cluster → Cluster) : (s.modCluster u f).nextId = s.nextId := rfl
@[simp] theorem State.modCluster_fresh (s : State) (u : CluId) (f : Cluster → Cluster) : (s.modCluster u f).fresh = s.fresh := rfl
@[simp] theorem State.modCluster_agenda (s : State) (u : CluId) (f : Cluster → Cluster) : (s.modCluster u f).agenda = s.agenda := rfl

@[simp] theorem State.modPart_clock (s : State) (p : Nat) (f : Part → Part) : (s.modPart p f).clock = s.clock := rfl
@[simp] theorem State.modPart_mem (s : State) (p : Nat) (f : Part → Part) : (s.modPart p f).mem = s.mem := rfl
@[simp] theorem State.modPart_poison (s : State) (p : Nat) (f : Part → Part) : (s.modPart p f).poison = s.poison := rfl
@[simp] theorem State.modPart_dirty (s : State) (p : Nat) (f : Part → Part) : (s.modPart p f).dirty = s.dirty := rfl
@[simp] theorem State.modPart_openBytes (s : State) (p : Nat) (f : Part → Part) : (s.modPart p f).openBytes = s.openBytes := rfl
@[simp] theorem State.modPart_cores (s : State) (p : Nat) (f : Part → Part) : (s.modPart p f).cores = s.cores := rfl
@[simp] theorem State.modPart_clusters (s : State) (p : Nat) (f : Part → Part) : (s.modPart p f).clusters = s.clusters := rfl
@[simp] theorem State.modPart_pkgs (s : State) (p : Nat) (f : Part → Part) : (s.modPart p f).pkgs = s.pkgs := rfl
@[simp] theorem State.modPart_jobs (s : State) (p : Nat) (f : Part → Part) : (s.modPart p f).jobs = s.jobs := rfl
@[simp] theorem State.modPart_etlbs (s : State) (p : Nat) (f : Part → Part) : (s.modPart p f).etlbs = s.etlbs := rfl
@[simp] theorem State.modPart_net (s : State) (p : Nat) (f : Part → Part) : (s.modPart p f).net = s.net := rfl
@[simp] theorem State.modPart_kept (s : State) (p : Nat) (f : Part → Part) : (s.modPart p f).kept = s.kept := rfl
@[simp] theorem State.modPart_outgoing (s : State) (p : Nat) (f : Part → Part) : (s.modPart p f).outgoing = s.outgoing := rfl
@[simp] theorem State.modPart_pairs (s : State) (p : Nat) (f : Part → Part) : (s.modPart p f).pairs = s.pairs := rfl
@[simp] theorem State.modPart_homeWrites (s : State) (p : Nat) (f : Part → Part) : (s.modPart p f).homeWrites = s.homeWrites := rfl
@[simp] theorem State.modPart_replies (s : State) (p : Nat) (f : Part → Part) : (s.modPart p f).replies = s.replies := rfl
@[simp] theorem State.modPart_walks (s : State) (p : Nat) (f : Part → Part) : (s.modPart p f).walks = s.walks := rfl
@[simp] theorem State.modPart_invals (s : State) (p : Nat) (f : Part → Part) : (s.modPart p f).invals = s.invals := rfl
@[simp] theorem State.modPart_publishes (s : State) (p : Nat) (f : Part → Part) : (s.modPart p f).publishes = s.publishes := rfl
@[simp] theorem State.modPart_cur (s : State) (p : Nat) (f : Part → Part) : (s.modPart p f).cur = s.cur := rfl
@[simp] theorem State.modPart_turn (s : State) (p : Nat) (f : Part → Part) : (s.modPart p f).turn = s.turn := rfl
@[simp] theorem State.modPart_nextId (s : State) (p : Nat) (f : Part → Part) : (s.modPart p f).nextId = s.nextId := rfl
@[simp] theorem State.modPart_fresh (s : State) (p : Nat) (f : Part → Part) : (s.modPart p f).fresh = s.fresh := rfl
@[simp] theorem State.modPart_agenda (s : State) (p : Nat) (f : Part → Part) : (s.modPart p f).agenda = s.agenda := rfl

@[simp] theorem State.modPkg_clock (s : State) (g : Nat) (f : Pkg → Pkg) : (s.modPkg g f).clock = s.clock := rfl
@[simp] theorem State.modPkg_mem (s : State) (g : Nat) (f : Pkg → Pkg) : (s.modPkg g f).mem = s.mem := rfl
@[simp] theorem State.modPkg_poison (s : State) (g : Nat) (f : Pkg → Pkg) : (s.modPkg g f).poison = s.poison := rfl
@[simp] theorem State.modPkg_dirty (s : State) (g : Nat) (f : Pkg → Pkg) : (s.modPkg g f).dirty = s.dirty := rfl
@[simp] theorem State.modPkg_openBytes (s : State) (g : Nat) (f : Pkg → Pkg) : (s.modPkg g f).openBytes = s.openBytes := rfl
@[simp] theorem State.modPkg_cores (s : State) (g : Nat) (f : Pkg → Pkg) : (s.modPkg g f).cores = s.cores := rfl
@[simp] theorem State.modPkg_clusters (s : State) (g : Nat) (f : Pkg → Pkg) : (s.modPkg g f).clusters = s.clusters := rfl
@[simp] theorem State.modPkg_parts (s : State) (g : Nat) (f : Pkg → Pkg) : (s.modPkg g f).parts = s.parts := rfl
@[simp] theorem State.modPkg_jobs (s : State) (g : Nat) (f : Pkg → Pkg) : (s.modPkg g f).jobs = s.jobs := rfl
@[simp] theorem State.modPkg_etlbs (s : State) (g : Nat) (f : Pkg → Pkg) : (s.modPkg g f).etlbs = s.etlbs := rfl
@[simp] theorem State.modPkg_net (s : State) (g : Nat) (f : Pkg → Pkg) : (s.modPkg g f).net = s.net := rfl
@[simp] theorem State.modPkg_kept (s : State) (g : Nat) (f : Pkg → Pkg) : (s.modPkg g f).kept = s.kept := rfl
@[simp] theorem State.modPkg_outgoing (s : State) (g : Nat) (f : Pkg → Pkg) : (s.modPkg g f).outgoing = s.outgoing := rfl
@[simp] theorem State.modPkg_pairs (s : State) (g : Nat) (f : Pkg → Pkg) : (s.modPkg g f).pairs = s.pairs := rfl
@[simp] theorem State.modPkg_homeWrites (s : State) (g : Nat) (f : Pkg → Pkg) : (s.modPkg g f).homeWrites = s.homeWrites := rfl
@[simp] theorem State.modPkg_replies (s : State) (g : Nat) (f : Pkg → Pkg) : (s.modPkg g f).replies = s.replies := rfl
@[simp] theorem State.modPkg_walks (s : State) (g : Nat) (f : Pkg → Pkg) : (s.modPkg g f).walks = s.walks := rfl
@[simp] theorem State.modPkg_invals (s : State) (g : Nat) (f : Pkg → Pkg) : (s.modPkg g f).invals = s.invals := rfl
@[simp] theorem State.modPkg_publishes (s : State) (g : Nat) (f : Pkg → Pkg) : (s.modPkg g f).publishes = s.publishes := rfl
@[simp] theorem State.modPkg_cur (s : State) (g : Nat) (f : Pkg → Pkg) : (s.modPkg g f).cur = s.cur := rfl
@[simp] theorem State.modPkg_turn (s : State) (g : Nat) (f : Pkg → Pkg) : (s.modPkg g f).turn = s.turn := rfl
@[simp] theorem State.modPkg_nextId (s : State) (g : Nat) (f : Pkg → Pkg) : (s.modPkg g f).nextId = s.nextId := rfl
@[simp] theorem State.modPkg_fresh (s : State) (g : Nat) (f : Pkg → Pkg) : (s.modPkg g f).fresh = s.fresh := rfl
@[simp] theorem State.modPkg_agenda (s : State) (g : Nat) (f : Pkg → Pkg) : (s.modPkg g f).agenda = s.agenda := rfl

@[simp] theorem State.setSlot_clock (s : State) (c : CtxId) (x : Slot) : (s.setSlot c x).clock = s.clock := rfl
@[simp] theorem State.setSlot_mem (s : State) (c : CtxId) (x : Slot) : (s.setSlot c x).mem = s.mem := rfl
@[simp] theorem State.setSlot_poison (s : State) (c : CtxId) (x : Slot) : (s.setSlot c x).poison = s.poison := rfl
@[simp] theorem State.setSlot_dirty (s : State) (c : CtxId) (x : Slot) : (s.setSlot c x).dirty = s.dirty := rfl
@[simp] theorem State.setSlot_openBytes (s : State) (c : CtxId) (x : Slot) : (s.setSlot c x).openBytes = s.openBytes := rfl
@[simp] theorem State.setSlot_clusters (s : State) (c : CtxId) (x : Slot) : (s.setSlot c x).clusters = s.clusters := rfl
@[simp] theorem State.setSlot_parts (s : State) (c : CtxId) (x : Slot) : (s.setSlot c x).parts = s.parts := rfl
@[simp] theorem State.setSlot_pkgs (s : State) (c : CtxId) (x : Slot) : (s.setSlot c x).pkgs = s.pkgs := rfl
@[simp] theorem State.setSlot_jobs (s : State) (c : CtxId) (x : Slot) : (s.setSlot c x).jobs = s.jobs := rfl
@[simp] theorem State.setSlot_etlbs (s : State) (c : CtxId) (x : Slot) : (s.setSlot c x).etlbs = s.etlbs := rfl
@[simp] theorem State.setSlot_net (s : State) (c : CtxId) (x : Slot) : (s.setSlot c x).net = s.net := rfl
@[simp] theorem State.setSlot_kept (s : State) (c : CtxId) (x : Slot) : (s.setSlot c x).kept = s.kept := rfl
@[simp] theorem State.setSlot_outgoing (s : State) (c : CtxId) (x : Slot) : (s.setSlot c x).outgoing = s.outgoing := rfl
@[simp] theorem State.setSlot_pairs (s : State) (c : CtxId) (x : Slot) : (s.setSlot c x).pairs = s.pairs := rfl
@[simp] theorem State.setSlot_homeWrites (s : State) (c : CtxId) (x : Slot) : (s.setSlot c x).homeWrites = s.homeWrites := rfl
@[simp] theorem State.setSlot_replies (s : State) (c : CtxId) (x : Slot) : (s.setSlot c x).replies = s.replies := rfl
@[simp] theorem State.setSlot_walks (s : State) (c : CtxId) (x : Slot) : (s.setSlot c x).walks = s.walks := rfl
@[simp] theorem State.setSlot_invals (s : State) (c : CtxId) (x : Slot) : (s.setSlot c x).invals = s.invals := rfl
@[simp] theorem State.setSlot_publishes (s : State) (c : CtxId) (x : Slot) : (s.setSlot c x).publishes = s.publishes := rfl
@[simp] theorem State.setSlot_cur (s : State) (c : CtxId) (x : Slot) : (s.setSlot c x).cur = s.cur := rfl
@[simp] theorem State.setSlot_turn (s : State) (c : CtxId) (x : Slot) : (s.setSlot c x).turn = s.turn := rfl
@[simp] theorem State.setSlot_nextId (s : State) (c : CtxId) (x : Slot) : (s.setSlot c x).nextId = s.nextId := rfl
@[simp] theorem State.setSlot_fresh (s : State) (c : CtxId) (x : Slot) : (s.setSlot c x).fresh = s.fresh := rfl
@[simp] theorem State.setSlot_agenda (s : State) (c : CtxId) (x : Slot) : (s.setSlot c x).agenda = s.agenda := rfl

@[simp] theorem State.modSlot_clock (s : State) (c : CtxId) (f : Slot → Slot) : (s.modSlot c f).clock = s.clock := rfl
@[simp] theorem State.modSlot_mem (s : State) (c : CtxId) (f : Slot → Slot) : (s.modSlot c f).mem = s.mem := rfl
@[simp] theorem State.modSlot_poison (s : State) (c : CtxId) (f : Slot → Slot) : (s.modSlot c f).poison = s.poison := rfl
@[simp] theorem State.modSlot_dirty (s : State) (c : CtxId) (f : Slot → Slot) : (s.modSlot c f).dirty = s.dirty := rfl
@[simp] theorem State.modSlot_openBytes (s : State) (c : CtxId) (f : Slot → Slot) : (s.modSlot c f).openBytes = s.openBytes := rfl
@[simp] theorem State.modSlot_clusters (s : State) (c : CtxId) (f : Slot → Slot) : (s.modSlot c f).clusters = s.clusters := rfl
@[simp] theorem State.modSlot_parts (s : State) (c : CtxId) (f : Slot → Slot) : (s.modSlot c f).parts = s.parts := rfl
@[simp] theorem State.modSlot_pkgs (s : State) (c : CtxId) (f : Slot → Slot) : (s.modSlot c f).pkgs = s.pkgs := rfl
@[simp] theorem State.modSlot_jobs (s : State) (c : CtxId) (f : Slot → Slot) : (s.modSlot c f).jobs = s.jobs := rfl
@[simp] theorem State.modSlot_etlbs (s : State) (c : CtxId) (f : Slot → Slot) : (s.modSlot c f).etlbs = s.etlbs := rfl
@[simp] theorem State.modSlot_net (s : State) (c : CtxId) (f : Slot → Slot) : (s.modSlot c f).net = s.net := rfl
@[simp] theorem State.modSlot_kept (s : State) (c : CtxId) (f : Slot → Slot) : (s.modSlot c f).kept = s.kept := rfl
@[simp] theorem State.modSlot_outgoing (s : State) (c : CtxId) (f : Slot → Slot) : (s.modSlot c f).outgoing = s.outgoing := rfl
@[simp] theorem State.modSlot_pairs (s : State) (c : CtxId) (f : Slot → Slot) : (s.modSlot c f).pairs = s.pairs := rfl
@[simp] theorem State.modSlot_homeWrites (s : State) (c : CtxId) (f : Slot → Slot) : (s.modSlot c f).homeWrites = s.homeWrites := rfl
@[simp] theorem State.modSlot_replies (s : State) (c : CtxId) (f : Slot → Slot) : (s.modSlot c f).replies = s.replies := rfl
@[simp] theorem State.modSlot_walks (s : State) (c : CtxId) (f : Slot → Slot) : (s.modSlot c f).walks = s.walks := rfl
@[simp] theorem State.modSlot_invals (s : State) (c : CtxId) (f : Slot → Slot) : (s.modSlot c f).invals = s.invals := rfl
@[simp] theorem State.modSlot_publishes (s : State) (c : CtxId) (f : Slot → Slot) : (s.modSlot c f).publishes = s.publishes := rfl
@[simp] theorem State.modSlot_cur (s : State) (c : CtxId) (f : Slot → Slot) : (s.modSlot c f).cur = s.cur := rfl
@[simp] theorem State.modSlot_turn (s : State) (c : CtxId) (f : Slot → Slot) : (s.modSlot c f).turn = s.turn := rfl
@[simp] theorem State.modSlot_nextId (s : State) (c : CtxId) (f : Slot → Slot) : (s.modSlot c f).nextId = s.nextId := rfl
@[simp] theorem State.modSlot_fresh (s : State) (c : CtxId) (f : Slot → Slot) : (s.modSlot c f).fresh = s.fresh := rfl
@[simp] theorem State.modSlot_agenda (s : State) (c : CtxId) (f : Slot → Slot) : (s.modSlot c f).agenda = s.agenda := rfl

@[simp] theorem State.putCtx_clock (s : State) (c : CtxId) (x : Ctx) : (s.putCtx c x).clock = s.clock := rfl
@[simp] theorem State.putCtx_mem (s : State) (c : CtxId) (x : Ctx) : (s.putCtx c x).mem = s.mem := rfl
@[simp] theorem State.putCtx_poison (s : State) (c : CtxId) (x : Ctx) : (s.putCtx c x).poison = s.poison := rfl
@[simp] theorem State.putCtx_dirty (s : State) (c : CtxId) (x : Ctx) : (s.putCtx c x).dirty = s.dirty := rfl
@[simp] theorem State.putCtx_openBytes (s : State) (c : CtxId) (x : Ctx) : (s.putCtx c x).openBytes = s.openBytes := rfl
@[simp] theorem State.putCtx_clusters (s : State) (c : CtxId) (x : Ctx) : (s.putCtx c x).clusters = s.clusters := rfl
@[simp] theorem State.putCtx_parts (s : State) (c : CtxId) (x : Ctx) : (s.putCtx c x).parts = s.parts := rfl
@[simp] theorem State.putCtx_pkgs (s : State) (c : CtxId) (x : Ctx) : (s.putCtx c x).pkgs = s.pkgs := rfl
@[simp] theorem State.putCtx_jobs (s : State) (c : CtxId) (x : Ctx) : (s.putCtx c x).jobs = s.jobs := rfl
@[simp] theorem State.putCtx_etlbs (s : State) (c : CtxId) (x : Ctx) : (s.putCtx c x).etlbs = s.etlbs := rfl
@[simp] theorem State.putCtx_net (s : State) (c : CtxId) (x : Ctx) : (s.putCtx c x).net = s.net := rfl
@[simp] theorem State.putCtx_kept (s : State) (c : CtxId) (x : Ctx) : (s.putCtx c x).kept = s.kept := rfl
@[simp] theorem State.putCtx_outgoing (s : State) (c : CtxId) (x : Ctx) : (s.putCtx c x).outgoing = s.outgoing := rfl
@[simp] theorem State.putCtx_pairs (s : State) (c : CtxId) (x : Ctx) : (s.putCtx c x).pairs = s.pairs := rfl
@[simp] theorem State.putCtx_homeWrites (s : State) (c : CtxId) (x : Ctx) : (s.putCtx c x).homeWrites = s.homeWrites := rfl
@[simp] theorem State.putCtx_replies (s : State) (c : CtxId) (x : Ctx) : (s.putCtx c x).replies = s.replies := rfl
@[simp] theorem State.putCtx_walks (s : State) (c : CtxId) (x : Ctx) : (s.putCtx c x).walks = s.walks := rfl
@[simp] theorem State.putCtx_invals (s : State) (c : CtxId) (x : Ctx) : (s.putCtx c x).invals = s.invals := rfl
@[simp] theorem State.putCtx_publishes (s : State) (c : CtxId) (x : Ctx) : (s.putCtx c x).publishes = s.publishes := rfl
@[simp] theorem State.putCtx_cur (s : State) (c : CtxId) (x : Ctx) : (s.putCtx c x).cur = s.cur := rfl
@[simp] theorem State.putCtx_turn (s : State) (c : CtxId) (x : Ctx) : (s.putCtx c x).turn = s.turn := rfl
@[simp] theorem State.putCtx_nextId (s : State) (c : CtxId) (x : Ctx) : (s.putCtx c x).nextId = s.nextId := rfl
@[simp] theorem State.putCtx_fresh (s : State) (c : CtxId) (x : Ctx) : (s.putCtx c x).fresh = s.fresh := rfl
@[simp] theorem State.putCtx_agenda (s : State) (c : CtxId) (x : Ctx) : (s.putCtx c x).agenda = s.agenda := rfl

/-! ### Reading what was written -/

@[simp] theorem State.core_setCore (s : State) (c : CoreId) (k : Core) : (s.setCore c k).core c = k := by
  simp [State.core, State.setCore]
theorem State.core_setCore_ne (s : State) {c d : CoreId} (k : Core) (h : d.key ≠ c.key) : (s.setCore c k).core d = s.core d := by
  simp [State.core, State.setCore, amGet_amSet_ne _ _ _ h]
@[simp] theorem State.core_setPart (s : State) (p : Nat) (x : Part) (d : CoreId) : (s.setPart p x).core d = s.core d := rfl
@[simp] theorem State.core_setPkg (s : State) (g : Nat) (x : Pkg) (d : CoreId) : (s.setPkg g x).core d = s.core d := rfl
@[simp] theorem State.core_setCluster (s : State) (u : CluId) (x : Cluster) (d : CoreId) : (s.setCluster u x).core d = s.core d := rfl
@[simp] theorem State.part_setPart (s : State) (p : Nat) (x : Part) : (s.setPart p x).part p = x :=
  vecGet_set_self _ _ _
@[simp] theorem State.part_setCore (s : State) (c : CoreId) (k : Core) (p : Nat) : (s.setCore c k).part p = s.part p := rfl
@[simp] theorem State.part_setPkg (s : State) (g : Nat) (x : Pkg) (p : Nat) : (s.setPkg g x).part p = s.part p := rfl
@[simp] theorem State.part_setCluster (s : State) (u : CluId) (x : Cluster) (p : Nat) : (s.setCluster u x).part p = s.part p := rfl
@[simp] theorem State.part_putCtx (s : State) (c : CtxId) (x : Ctx) (p : Nat) : (s.putCtx c x).part p = s.part p := rfl
@[simp] theorem State.pkg_setPkg (s : State) (g : Nat) (x : Pkg) : (s.setPkg g x).pkg g = x := by simp [State.pkg, State.setPkg]
@[simp] theorem State.pkg_setCore (s : State) (c : CoreId) (k : Core) (g : Nat) : (s.setCore c k).pkg g = s.pkg g := rfl
@[simp] theorem State.pkg_setPart (s : State) (p : Nat) (x : Part) (g : Nat) : (s.setPart p x).pkg g = s.pkg g := rfl
@[simp] theorem State.pkg_putCtx (s : State) (c : CtxId) (x : Ctx) (g : Nat) : (s.putCtx c x).pkg g = s.pkg g := rfl
@[simp] theorem State.cluster_setCluster (s : State) (u : CluId) (k : Cluster) : (s.setCluster u k).cluster u = k := by
  simp [State.cluster, State.setCluster]

@[simp] theorem Core.slot_setSlot (k : Core) (n : Nat) (x : Slot) : (k.setSlot n x).slot n = x :=
  vecGet_set_self _ _ _
@[simp] theorem State.slot_setSlot (s : State) (c : CtxId) (x : Slot) : (s.setSlot c x).slot c = x := by
  simp [State.slot, State.setSlot, State.modCore]
@[simp] theorem State.slot_modSlot (s : State) (c : CtxId) (f : Slot → Slot) : (s.modSlot c f).slot c = f (s.slot c) := by
  simp [State.modSlot]
@[simp] theorem State.slot_putCtx (s : State) (c : CtxId) (x : Ctx) : (s.putCtx c x).slot c = { s.slot c with ctx := some x } := by
  simp [State.putCtx]
@[simp] theorem State.ctx?_putCtx (s : State) (c : CtxId) (x : Ctx) : (s.putCtx c x).ctx? c = some x := by
  simp [State.ctx?]

/-! ### Registers (R7, R50) -/

@[simp] theorem Ctx.reg_zero (x : Ctx) : x.reg 0 = 0 := rfl
@[simp] theorem Ctx.setReg_zero (x : Ctx) (v : Word) : x.setReg 0 v = x := rfl
theorem Ctx.reg_setReg_self (x : Ctx) {r : Reg} (v : Word) (h : r ≠ 0) : (x.setReg r v).reg r = v := by
  rw [Ctx.setReg, if_neg h, Ctx.reg, if_neg h]
  exact vecGet_set_self _ _ _
theorem Ctx.reg_setReg_ne (x : Ctx) {r q : Reg} (v : Word) (h : q ≠ r) : (x.setReg r v).reg q = x.reg q := by
  unfold Ctx.setReg
  split
  · rfl
  · unfold Ctx.reg
    split
    · rfl
    · exact vecGet_set_ne _ _ fun e => h e.symm

@[simp] theorem Ctx.setReg_pc (x : Ctx) (r : Reg) (v : Word) : (x.setReg r v).pc = x.pc := by unfold Ctx.setReg; split <;> rfl
@[simp] theorem Ctx.setReg_priv (x : Ctx) (r : Reg) (v : Word) : (x.setReg r v).priv = x.priv := by unfold Ctx.setReg; split <;> rfl
@[simp] theorem Ctx.setReg_kind (x : Ctx) (r : Reg) (v : Word) : (x.setReg r v).kind = x.kind := by unfold Ctx.setReg; split <;> rfl
@[simp] theorem Ctx.setReg_pin (x : Ctx) (r : Reg) (v : Word) : (x.setReg r v).pin = x.pin := by unfold Ctx.setReg; split <;> rfl
@[simp] theorem Ctx.setReg_wakep (x : Ctx) (r : Reg) (v : Word) : (x.setReg r v).wakep = x.wakep := by unfold Ctx.setReg; split <;> rfl
@[simp] theorem Ctx.setReg_fflags (x : Ctx) (r : Reg) (v : Word) : (x.setReg r v).fflags = x.fflags := by unfold Ctx.setReg; split <;> rfl
@[simp] theorem Ctx.setReg_frm (x : Ctx) (r : Reg) (v : Word) : (x.setReg r v).frm = x.frm := by unfold Ctx.setReg; split <;> rfl
@[simp] theorem Ctx.setReg_srkey (x : Ctx) (r : Reg) (v : Word) : (x.setReg r v).srkey = x.srkey := by unfold Ctx.setReg; split <;> rfl
@[simp] theorem Ctx.setReg_srctr (x : Ctx) (r : Reg) (v : Word) : (x.setReg r v).srctr = x.srctr := by unfold Ctx.setReg; split <;> rfl
@[simp] theorem Ctx.setReg_tcause (x : Ctx) (r : Reg) (v : Word) : (x.setReg r v).tcause = x.tcause := by unfold Ctx.setReg; split <;> rfl
@[simp] theorem Ctx.setReg_tval (x : Ctx) (r : Reg) (v : Word) : (x.setReg r v).tval = x.tval := by unfold Ctx.setReg; split <;> rfl
@[simp] theorem Ctx.setReg_epc (x : Ctx) (r : Reg) (v : Word) : (x.setReg r v).epc = x.epc := by unfold Ctx.setReg; split <;> rfl
@[simp] theorem Ctx.setReg_tsave0 (x : Ctx) (r : Reg) (v : Word) : (x.setReg r v).tsave0 = x.tsave0 := by unfold Ctx.setReg; split <;> rfl
@[simp] theorem Ctx.setReg_tsave1 (x : Ctx) (r : Reg) (v : Word) : (x.setReg r v).tsave1 = x.tsave1 := by unfold Ctx.setReg; split <;> rfl
@[simp] theorem Ctx.setReg_epriv (x : Ctx) (r : Reg) (v : Word) : (x.setReg r v).epriv = x.epriv := by unfold Ctx.setReg; split <;> rfl
@[simp] theorem Ctx.setReg_inh (x : Ctx) (r : Reg) (v : Word) : (x.setReg r v).inh = x.inh := by unfold Ctx.setReg; split <;> rfl
@[simp] theorem Ctx.setReg_streams (x : Ctx) (r : Reg) (v : Word) : (x.setReg r v).streams = x.streams := by unfold Ctx.setReg; split <;> rfl
@[simp] theorem Ctx.setReg_grant (x : Ctx) (r : Reg) (v : Word) : (x.setReg r v).grant = x.grant := by unfold Ctx.setReg; split <;> rfl
@[simp] theorem Ctx.setReg_vregs (x : Ctx) (r : Reg) (v : Word) : (x.setReg r v).vregs = x.vregs := by unfold Ctx.setReg; split <;> rfl
@[simp] theorem Ctx.setReg_task (x : Ctx) (r : Reg) (v : Word) : (x.setReg r v).task = x.task := by unfold Ctx.setReg; split <;> rfl
@[simp] theorem Ctx.setReg_parked (x : Ctx) (r : Reg) (v : Word) : (x.setReg r v).parked = x.parked := by unfold Ctx.setReg; split <;> rfl
@[simp] theorem Ctx.setReg_out (x : Ctx) (r : Reg) (v : Word) : (x.setReg r v).out = x.out := by unfold Ctx.setReg; split <;> rfl
@[simp] theorem Ctx.setReg_windows (x : Ctx) (r : Reg) (v : Word) : (x.setReg r v).windows = x.windows := by unfold Ctx.setReg; split <;> rfl
@[simp] theorem Ctx.setReg_accCtr (x : Ctx) (r : Reg) (v : Word) : (x.setReg r v).accCtr = x.accCtr := by unfold Ctx.setReg; split <;> rfl
@[simp] theorem Ctx.setReg_icount (x : Ctx) (r : Reg) (v : Word) : (x.setReg r v).icount = x.icount := by unfold Ctx.setReg; split <;> rfl
@[simp] theorem Ctx.setReg_stepOne (x : Ctx) (r : Reg) (v : Word) : (x.setReg r v).stepOne = x.stepOne := by unfold Ctx.setReg; split <;> rfl
@[simp] theorem Ctx.setReg_moving (x : Ctx) (r : Reg) (v : Word) : (x.setReg r v).moving = x.moving := by unfold Ctx.setReg; split <;> rfl
@[simp] theorem Ctx.setReg_leaving (x : Ctx) (r : Reg) (v : Word) : (x.setReg r v).leaving = x.leaving := by unfold Ctx.setReg; split <;> rfl
@[simp] theorem Ctx.setReg_heldFault (x : Ctx) (r : Reg) (v : Word) : (x.setReg r v).heldFault = x.heldFault := by unfold Ctx.setReg; split <;> rfl

end Sys2Proof.Machine
end

