-- ==== Sys2Proof/Laws/Run.lean ====
section
/-! SUPPORT. Running instruction bodies: what sequencing and each primitive of the monad does, and what a word's outcome is from the
way its body ends. -/
namespace Sys2Proof.Machine

/-! ### Sequencing -/

theorem run_bind {α β : Type} (a : M α) (f : α → M β) (e : Ex) :
    (a >>= f).run e = match a.run e with | .ok (v, e') => (f v).run e' | .error x => .error x := by
  simp only [StateT.run, bind, StateT.bind, Except.bind]
  cases a e <;> rfl

theorem run_bind_ok {α β : Type} {a : M α} {f : α → M β} {e e' : Ex} {v : α} (h : a.run e = .ok (v, e')) :
    (a >>= f).run e = (f v).run e' := by rw [run_bind, h]

theorem run_bind_error {α β : Type} {a : M α} {f : α → M β} {e : Ex} {x : Stop} (h : a.run e = .error x) :
    (a >>= f).run e = .error x := by rw [run_bind, h]

@[simp] theorem run_pure {α : Type} (v : α) (e : Ex) : (pure v : M α).run e = .ok (v, e) := rfl
@[simp] theorem run_get (e : Ex) : (get : M Ex).run e = .ok (e, e) := rfl
@[simp] theorem run_set (e' e : Ex) : (set e' : M PUnit).run e = .ok ((), e') := rfl
@[simp] theorem run_modify (f : Ex → Ex) (e : Ex) : (modify f : M PUnit).run e = .ok ((), f e) := rfl
@[simp] theorem run_throw {α : Type} (x : Stop) (e : Ex) : (throw x : M α).run e = .error x := rfl
@[simp] theorem run_st (e : Ex) : st.run e = .ok (e.st, e) := rfl
@[simp] theorem run_cx (e : Ex) : cx.run e = .ok (e.cx, e) := rfl
@[simp] theorem run_me (e : Ex) : me.run e = .ok (e.st.cur, e) := rfl
@[simp] theorem run_modSt (f : State → State) (e : Ex) : (modSt f).run e = .ok ((), { e with st := f e.st }) := rfl
@[simp] theorem run_modCx (f : Ctx → Ctx) (e : Ex) : (modCx f).run e = .ok ((), { e with cx := f e.cx }) := rfl
@[simp] theorem run_raise {α : Type} (c : Nat) (t : Word) (e : Ex) : (raise c t : M α).run e = .error (.fault c t) := rfl
@[simp] theorem run_stall {α : Type} (e : Ex) : (stall : M α).run e = .error .wait := rfl
theorem run_waitUnless {b : Bool} (h : b = true) (e : Ex) : (waitUnless b).run e = .ok ((), e) := by subst h; rfl
theorem run_waitUnless_false {b : Bool} (h : b = false) (e : Ex) : (waitUnless b).run e = .error .wait := by
  subst h; rfl
theorem run_faultIf_false {b : Bool} (h : b = false) (c : Nat) (t : Word) (e : Ex) : (faultIf b c t).run e = .ok ((), e) := by
  subst h; rfl
theorem run_faultIf_true {b : Bool} (h : b = true) (c : Nat) (t : Word) (e : Ex) :
    (faultIf b c t).run e = .error (.fault c t) := by subst h; rfl

/-! ### Outcomes of a word -/

theorem runWord_ok {body : M Unit} {s : State} {x : Ctx} {e : Ex} (hx : s.ctx? s.cur = some x)
    (h : body.run { st := s, cx := x, next := x.pc + 4, before := x.streams } = .ok ((), e)) : runWord body s = .next e.retire := by
  simp only [runWord, hx, h]

theorem runWord_fault {body : M Unit} {s : State} {x : Ctx} {c : Nat} {t : Word} (hx : s.ctx? s.cur = some x)
    (h : body.run { st := s, cx := x, next := x.pc + 4, before := x.streams } = .error (.fault c t)) :
    runWord body s = .next (s.takeFault s.cur x c t) := by simp only [runWord, hx, h]

theorem runWord_wait {body : M Unit} {s : State} {x : Ctx} (hx : s.ctx? s.cur = some x)
    (h : body.run { st := s, cx := x, next := x.pc + 4, before := x.streams } = .error .wait) : runWord body s = .next s := by
  simp only [runWord, hx, h]

theorem runWord_done {body : M Unit} {s t : State} {x : Ctx} (hx : s.ctx? s.cur = some x)
    (h : body.run { st := s, cx := x, next := x.pc + 4, before := x.streams } = .error (.done t)) : runWord body s = .next t := by
  simp only [runWord, hx, h]

/-- A word whose body may end in any way answers a next state: exec never refuses a word of a live context. -/
theorem runWord_next (body : M Unit) (s : State) (x : Ctx) (hx : s.ctx? s.cur = some x) : ∃ t, runWord body s = .next t := by
  simp only [runWord, hx]
  split <;> first | exact ⟨_, rfl⟩ | (split <;> exact ⟨_, rfl⟩)

/-! ### Putting a context back -/

theorem amSet_amSet {α : Type} (m : AMap α) (k : Nat) (v w : α) : amSet (amSet m k v) k w = amSet m k w := by
  induction m with
  | nil => simp [amSet]
  | cons y r ih =>
    obtain ⟨j, u⟩ := y
    simp only [amSet]
    split
    · simp [amSet]
    · split
      · simp [amSet]
      · simp only [amSet, if_neg ‹¬k < j›, if_neg ‹¬k = j›, ih]

theorem Core.setSlot_setSlot (k : Core) (n : Nat) (x y : Slot) : (k.setSlot n x).setSlot n y = k.setSlot n y := by
  simp [Core.setSlot, Vector.set_set]

theorem State.setCore_setCore (s : State) (c : CoreId) (k l : Core) : (s.setCore c k).setCore c l = s.setCore c l := by
  simp [State.setCore, amSet_amSet]

theorem State.putCtx_putCtx (s : State) (c : CtxId) (x y : Ctx) : (s.putCtx c x).putCtx c y = s.putCtx c y := by
  have h : (s.putCtx c x).slot c = { s.slot c with ctx := some x } := by simp [State.putCtx]
  have hc : (s.putCtx c x).core c.core = (s.core c.core).setSlot c.slot { s.slot c with ctx := some x } := by
    simp [State.putCtx, State.modSlot, State.setSlot, State.modCore]
  simp only [State.putCtx, State.modSlot, State.setSlot, State.modCore] at h hc ⊢
  rw [h, hc, State.setCore_setCore, Core.setSlot_setSlot]

end Sys2Proof.Machine
end

