-- ==== Sys2Proof/Laws/Issue.lean ====
section
/-! SUPPORT. The stages of a memory access: locating it, the migration before it, its fences, its issue at once, its delivery. -/
namespace Sys2Proof.Machine

theorem run_locate_ok {k : TKind} {va n al : Nat} {e : Ex} {l : Loc} {t : State} (h0 : va % al = 0)
    (h : e.st.resolve e.st.cur.core (.data e.st.cur.core) (some (.ctx e.st.cur e.cx.icount)) k e.cx.priv va n = (.ok l, t)) :
    (locate k va n al).run e = .ok (l, { e with st := t }) := by
  have h1 : (decide (va % al ≠ 0)) = false := by simp [h0]
  unfold locate
  rw [run_bind_ok (run_faultIf_false h1 _ _ e), run_bind_ok (run_get e)]
  simp only [h]
  rw [run_bind_ok (run_set _ e), run_pure]

theorem run_locate_misaligned {k : TKind} {va n al : Nat} {e : Ex} (h0 : va % al ≠ 0) :
    (locate k va n al).run e = .error (.fault cAlign (wd va)) := by
  have h1 : (decide (va % al ≠ 0)) = true := by simp [h0]
  unfold locate
  rw [run_bind_error (run_faultIf_true h1 _ _ e)]

theorem run_fenceWait_quiet {e : Ex} (h : e.cx.out = []) (a b : Bool) (home : Home) : (fenceWait a b home).run e = .ok ((), e) := by
  unfold fenceWait
  rw [run_bind_ok (run_cx e)]
  apply run_waitUnless
  simp [Ctx.loadHeld, Ctx.storeHeld, Ctx.pushHeld, h]

theorem run_drained_quiet {e : Ex} (h : e.cx.out = []) : drained.run e = .ok ((), e) := by
  unfold drained
  rw [run_bind_ok (run_cx e)]
  exact run_waitUnless (by simp [h]) e

theorem run_trackM_none {e : Ex} (h : e.cx.task = none) (w : Bool) (pa n : Nat) : (trackM w pa n).run e = .ok ((), e) := by
  unfold trackM
  rw [run_bind_ok (run_get e)]
  simp only [h]
  rfl

theorem run_needBuffers_zero (e : Ex) : (needBuffers 0).run e = .ok ((), e) := by
  unfold needBuffers
  rw [run_bind_ok (run_get e)]
  rfl

theorem run_needBuffers_room {e : Ex} {n : Nat} (h : e.st.buffersHeld e.st.cur e.cx + n ≤ 128) :
    (needBuffers n).run e = .ok ((), e) := by
  unfold needBuffers
  rw [run_bind_ok (run_get e)]
  rw [if_neg (by omega)]
  rfl

theorem run_settleOp_none {e : Ex} (h : e.cx.task = none) : settleOp.run e = .ok ((), e) := by
  have h1 : e.st.speculative e.st.cur.core.part e.cx = false := by simp [State.speculative, State.task?, h]
  unfold settleOp
  rw [run_bind_ok (run_st e), run_bind_ok (run_cx e)]
  simp only [h1, h]
  rfl

/-- An access that stays where it is (R126): only its count changes. -/
theorem run_autoMigrate_stays {e : Ex} {l : Loc} (hm : e.cx.moving = none) (hx : e.cx.tried = [])
    (ht : e.cx.thresh = 0 ∨ (e.cx.countRemote e.st.cur.core l.home).2 ≤ e.cx.thresh)
    (hr : (l.rah && e.cx.rah) = true → l.homeCore = some e.st.cur.core ∨ l.homeCore = none) :
    (autoMigrate l).run e = .ok ((), { e with cx :=
      if l.rah && e.cx.rah then { (e.cx.countRemote e.st.cur.core l.home).1 with remCount := 0 }
      else (e.cx.countRemote e.st.cur.core l.home).1 }) := by
  have htr : e.cx.triedHomes = [] := by simp [Ctx.triedHomes, hm, hx]
  have hany : l.homeCore.any e.cx.triedHomes.contains = false := by rw [htr]; cases l.homeCore <;> rfl
  have hat : (l.rah && e.cx.rah) = true → e.cx.attemptTo e.st.cur.core l = none := by
    intro hb
    rcases hr hb with h | h <;> simp [Ctx.attemptTo, h, Option.filter]
  unfold autoMigrate
  rw [run_bind_ok (run_cx e), run_bind_ok (run_me e)]
  have hn : ¬(e.cx.thresh ≠ 0 ∧ e.cx.thresh < (e.cx.countRemote e.st.cur.core l.home).2) := by omega
  cases hb : (l.rah && e.cx.rah)
  · simp [hn, hany]
  · simp [hn, hat hb]

theorem countRemote_out (x : Ctx) (c : CoreId) (h : Home) :
    (x.countRemote c h).1 = { x with remCount := (x.countRemote c h).1.remCount, remHome := (x.countRemote c h).1.remHome } := by
  unfold Ctx.countRemote
  cases h with
  | llc => rfl
  | core k => simp only; split <;> rfl

end Sys2Proof.Machine
end

