-- ==== Sys2Proof/Laws/Memory.lean ====
section
/-! SUPPORT. Memory: what a byte reads after a write, and that every operation keeps the canonical form. -/
namespace Sys2Proof.Machine

/-- The canonical form as a property of the list: addresses strictly rising, no byte zero. -/
theorem Memory.wf_iff (m : List Host.Cell) :
    Memory.wf m = true ↔ m.Pairwise (fun x y => x.1 < y.1) ∧ ∀ c ∈ m, c.2 ≠ 0 := by
  induction m with
  | nil => simp [Memory.wf]
  | cons x r ih =>
    obtain ⟨a, b⟩ := x
    cases r with
    | nil => simp [Memory.wf]
    | cons y r =>
      obtain ⟨a', b'⟩ := y
      simp only [Memory.wf, Bool.and_eq_true, bne_iff_ne, decide_eq_true_eq, ih, List.pairwise_cons,
        List.mem_cons, forall_eq_or_imp]
      constructor
      · rintro ⟨⟨h1, h2⟩, ⟨h3, h4⟩, h5, h6⟩
        exact ⟨⟨⟨h2, fun z hz => Nat.lt_trans h2 (h3 z hz)⟩, h3, h4⟩, h1, h5, h6⟩
      · rintro ⟨⟨⟨h2, _⟩, h3, h4⟩, h1, h5, h6⟩
        exact ⟨⟨h1, h2⟩, ⟨h3, h4⟩, h5, h6⟩

/-- Every cell a write leaves is the written one or was there. -/
theorem Memory.mem_write {m : List Host.Cell} {a : Nat} {b : Byte} {c : Host.Cell} (h : c ∈ Memory.write m a b) :
    c = (a, b) ∧ b ≠ 0 ∨ c ∈ m := by
  induction m with
  | nil =>
    by_cases hb : b = 0
    · rw [Memory.write, if_pos hb] at h
      exact .inr h
    · rw [Memory.write, if_neg hb] at h
      exact .inl ⟨List.mem_singleton.1 h, hb⟩
  | cons x r ih =>
    obtain ⟨k, v⟩ := x
    simp only [Memory.write] at h
    split at h
    · by_cases hb : b = 0
      · rw [if_pos hb] at h
        exact .inr h
      · rw [if_neg hb] at h
        rcases List.mem_cons.1 h with h | h
        · exact .inl ⟨h, hb⟩
        · exact .inr h
    · split at h
      · by_cases hb : b = 0
        · rw [if_pos hb] at h
          exact .inr (List.mem_cons.2 (.inr h))
        · rw [if_neg hb] at h
          rcases List.mem_cons.1 h with h | h
          · exact .inl ⟨h, hb⟩
          · exact .inr (List.mem_cons.2 (.inr h))
      · rcases List.mem_cons.1 h with h | h
        · exact .inr (List.mem_cons.2 (.inl h))
        · exact (ih h).imp_right fun h => List.mem_cons.2 (.inr h)

/-- A write keeps the canonical form. -/
theorem Memory.write_wf {m : List Host.Cell} (a : Nat) (b : Byte) (h : Memory.wf m = true) : Memory.wf (Memory.write m a b) = true := by
  rw [Memory.wf_iff] at h ⊢
  refine ⟨?_, fun c hc => ?_⟩
  · induction m with
    | nil =>
      by_cases hb : b = 0
      · rw [Memory.write, if_pos hb]
        exact List.Pairwise.nil
      · rw [Memory.write, if_neg hb]
        exact List.pairwise_singleton _ _
    | cons x r ih =>
      obtain ⟨k, v⟩ := x
      obtain ⟨hp, hz⟩ := h
      have hr := List.pairwise_cons.1 hp
      simp only [Memory.write]
      split
      · by_cases hb : b = 0
        · rw [if_pos hb]
          exact hp
        · rw [if_neg hb, List.pairwise_cons, List.pairwise_cons]
          refine ⟨fun y hy => ?_, hr.1, hr.2⟩
          rcases List.mem_cons.1 hy with rfl | hy
          · assumption
          · exact Nat.lt_trans ‹_› (hr.1 y hy)
      · split
        · subst a
          by_cases hb : b = 0
          · rw [if_pos hb]
            exact hr.2
          · rw [if_neg hb, List.pairwise_cons]
            exact hr
        · rw [List.pairwise_cons]
          refine ⟨fun y hy => ?_, ih ⟨hr.2, fun c hc => hz c (List.mem_cons.2 (.inr hc))⟩⟩
          rcases Memory.mem_write hy with ⟨rfl, _⟩ | hy
          · simp only
            omega
          · exact hr.1 y hy
  · rcases Memory.mem_write hc with ⟨rfl, hb⟩ | hc
    · exact hb
    · exact h.2 c hc

theorem Memory.writeN_wf {m : List Host.Cell} (a : Nat) (l : List Byte) (h : Memory.wf m = true) :
    Memory.wf (Memory.writeN m a l) = true := by
  induction l generalizing m a with
  | nil => exact h
  | cons b r ih => exact ih (a + 1) (Memory.write_wf a b h)

theorem Memory.filter_wf {m : List Host.Cell} (p : Host.Cell → Bool) (h : Memory.wf m = true) : Memory.wf (m.filter p) = true := by
  rw [Memory.wf_iff] at h ⊢
  exact ⟨h.1.filter p, fun c hc => h.2 c (List.mem_filter.1 hc).1⟩

theorem Memory.clear_wf {m : List Host.Cell} (lo n : Nat) (h : Memory.wf m = true) : Memory.wf (Memory.clear m lo n) = true :=
  Memory.filter_wf _ h

theorem Memory.copy_wf {m : List Host.Cell} (src dst n : Nat) (h : Memory.wf m = true) :
    Memory.wf (Memory.copy m src dst n) = true := by
  rw [Memory.wf_iff] at h ⊢
  obtain ⟨hp, hz⟩ := h
  refine ⟨?_, fun c hc => ?_⟩
  · simp only [Memory.copy, List.pairwise_append, List.pairwise_map]
    refine ⟨⟨hp.filter _, (List.pairwise_filter.2 ?_), ?_⟩, hp.filter _, ?_⟩
    · refine hp.imp fun {x y} hxy hx hy => ?_
      simp only [Bool.and_eq_true, decide_eq_true_eq] at hx hy
      omega
    · simp only [List.mem_filter, List.mem_map, decide_eq_true_eq, Bool.and_eq_true]
      rintro x ⟨_, hx⟩ y ⟨z, ⟨_, hz1, hz2⟩, rfl⟩
      simp only
      omega
    · simp only [List.mem_append, List.mem_filter, List.mem_map, decide_eq_true_eq, Bool.and_eq_true]
      rintro x hx y ⟨_, hy⟩
      rcases hx with ⟨_, hx⟩ | ⟨z, ⟨_, hz1, hz2⟩, rfl⟩
      · omega
      · simp only
        omega
  · simp only [Memory.copy, List.mem_append, List.mem_filter, List.mem_map, decide_eq_true_eq] at hc
    rcases hc with (⟨hc, _⟩ | ⟨x, ⟨hx, _⟩, rfl⟩) | ⟨hc, _⟩
    · exact hz c hc
    · exact hz x hx
    · exact hz c hc

/-- Nothing is listed below the first address of a canonical memory. -/
theorem Memory.read_below {m : List Host.Cell} {a : Nat} (h : ∀ c ∈ m, a < c.1) : Memory.read m a = 0 := by
  cases m with
  | nil => rfl
  | cons x r =>
    obtain ⟨k, v⟩ := x
    have := h (k, v) (List.mem_cons.2 (.inl rfl))
    simp only at this
    simp only [Memory.read]
    rw [if_neg (by omega), if_pos this]

/-- A byte reads what was written to it last. -/
theorem Memory.read_write {m : List Host.Cell} (a x : Nat) (b : Byte) (h : Memory.wf m = true) :
    Memory.read (Memory.write m a b) x = if x = a then b else Memory.read m x := by
  rw [Memory.wf_iff] at h
  induction m with
  | nil =>
    by_cases hb : b = 0
    · rw [Memory.write, if_pos hb]
      by_cases hx : x = a
      · rw [if_pos hx, hb]
        rfl
      · rw [if_neg hx]
    · rw [Memory.write, if_neg hb]
      by_cases hx : x = a <;> simp [Memory.read, hx]
  | cons y r ih =>
    obtain ⟨k, v⟩ := y
    obtain ⟨hp, hz⟩ := h
    have hr := List.pairwise_cons.1 hp
    have hk : ∀ c ∈ r, k < c.1 := hr.1
    have ih := ih ⟨hr.2, fun c hc => hz c (List.mem_cons.2 (.inr hc))⟩
    simp only [Memory.write]
    split
    · by_cases hb : b = 0
      · by_cases hx : x = a
        · subst hx
          rw [if_pos hb, if_pos rfl, hb]
          exact Memory.read_below fun c hc => by
            rcases List.mem_cons.1 hc with rfl | hc
            · assumption
            · exact Nat.lt_trans ‹_› (hk c hc)
        · rw [if_pos hb, if_neg hx]
      · rw [if_neg hb]
        by_cases hx : x = a
        · simp [Memory.read, hx]
        · by_cases hlt : x < a
          · have : x < k := by omega
            simp [Memory.read, hx, hlt, this, Nat.ne_of_lt this]
          · simp [Memory.read, hx, hlt]
    · split
      · subst a
        by_cases hb : b = 0
        · rw [if_pos hb]
          by_cases hx : x = k
          · subst hx
            rw [if_pos rfl, hb]
            exact Memory.read_below hk
          · rw [if_neg hx]
            by_cases hlt : x < k
            · rw [Memory.read_below fun c hc => Nat.lt_trans hlt (hk c hc)]
              simp [Memory.read, hx, hlt]
            · simp [Memory.read, hx, hlt]
        · rw [if_neg hb]
          by_cases hx : x = k <;> simp [Memory.read, hx]
      · simp only [Memory.read, ih]
        by_cases hx : x = k
        · subst hx
          have : x ≠ a := by omega
          simp [this]
        · by_cases hlt : x < k
          · have : x ≠ a := by omega
            simp [hx, hlt, this]
          · simp [hx, hlt]

/-- A write of several bytes leaves every byte outside them alone. -/
theorem Memory.read_writeN_outside {m : List Host.Cell} (a x : Nat) (l : List Byte) (h : Memory.wf m = true)
    (hx : x < a ∨ a + l.length ≤ x) : Memory.read (Memory.writeN m a l) x = Memory.read m x := by
  induction l generalizing m a with
  | nil => rfl
  | cons b r ih =>
    simp only [List.length_cons] at hx
    rw [Memory.writeN, ih (a + 1) (Memory.write_wf a b h) (by omega), Memory.read_write a x b h, if_neg (by omega)]

/-- A write of several bytes puts each at its place. -/
theorem Memory.read_writeN_inside {m : List Host.Cell} (a i : Nat) (l : List Byte) (h : Memory.wf m = true)
    (hi : i < l.length) : Memory.read (Memory.writeN m a l) (a + i) = l[i] := by
  induction l generalizing m a i with
  | nil => exact absurd hi (by simp)
  | cons b r ih =>
    cases i with
    | zero =>
      rw [Memory.writeN, Memory.read_writeN_outside (a + 1) _ r (Memory.write_wf a b h) (by omega),
        Memory.read_write a _ b h]
      simp
    | succ i =>
      have := ih (a + 1) i (Memory.write_wf a b h) (by simpa using hi)
      simpa [Memory.writeN, Nat.add_assoc, Nat.add_comm 1 i] using this

/-- The machine after reset lists no byte. -/
theorem State.reset_memory_wf : Memory.wf State.reset.mem = true := rfl

end Sys2Proof.Machine
end

