-- ==== Sys2Proof/Laws/PerInstr.lean ====
section
/-! SUPPORT. A family stated per instruction: a word has 32 bits (R26). -/
namespace Sys2Proof.Laws

/-! ### The codes and the packing of the formats stay in their fields -/

theorem extW_code_lt (x : ExtW) : x.code < 3 := by cases x <;> decide
theorem size_code_lt (x : Size) : x.code < 4 := by cases x <;> decide
theorem sgn_code_lt (x : Sgn) : x.code < 2 := by cases x <;> decide
theorem fenceKind_code_lt (x : FenceKind) : x.code < 4 := by cases x <;> decide
theorem scope_code_lt (x : Scope) : x.code < 6 := by cases x <;> decide
theorem prec_code_lt (x : Prec) : x.code < 4 := by cases x <;> decide
theorem rnd_code_lt (x : Rnd) : x.code < 8 := by cases x <;> decide
theorem sgnKind_code_lt (x : SgnKind) : x.code < 3 := by cases x <;> decide
theorem fType_code_lt (x : FType) : x.code < 6 := by cases x <;> decide
theorem vType_code_lt (x : VType) : x.code < 6 := by cases x <;> decide
theorem redKind_code_lt (x : RedKind) : x.code < 3 := by cases x <;> decide
theorem cmpKind_code_lt (x : CmpKind) : x.code < 4 := by cases x <;> decide
theorem fmt_code_lt (x : Fmt) : x.code < 18 := by cases x <;> decide
theorem dir_code_lt (x : Dir) : x.code < 4 := by cases x <;> decide
theorem bredOp_code_lt (x : BredOp) : x.code < 7 := by cases x <;> decide
theorem dblCode_lt (b : Bool) : dblCode b < 4 := by cases b <;> decide

theorem off12_lt (sz : Size) (off : BitVec 11) : off12 sz off < 2 ^ 12 := by
  have := off.isLt
  cases sz <;> simp only [off12] <;> omega

theorem packA_lt {op fn : Nat} (d a b : Reg) (ho : op < 64) (hf : fn < 2 ^ 11) : packA op d a b fn < 2 ^ 32 := by
  unfold packA; omega
theorem packI_lt {op imm : Nat} (d a : Reg) (ho : op < 64) (hf : imm < 2 ^ 16) : packI op d a imm < 2 ^ 32 := by
  unfold packI; omega
theorem packM_lt {op o : Nat} (d a : Reg) (la : Fin 16) (ho : op < 64) (hf : o < 2 ^ 12) : packM op d a la o < 2 ^ 32 := by
  unfold packM; omega
theorem packJ_lt {op o : Nat} (d : Reg) (ho : op < 64) (hf : o < 2 ^ 21) : packJ op d o < 2 ^ 32 := by
  unfold packJ; omega
theorem packQ_lt {op fn : Nat} (d a b : Reg) (la : Fin 16) (ho : op < 64) (hf : fn < 2 ^ 7) : packQ op d a b la fn < 2 ^ 32 := by
  unfold packQ; omega
theorem packV_lt {op vd va vb fn : Nat} (ho : op < 64) (hd : vd < 64) (ha : va < 64) (hb : vb < 64) (hf : fn < 2 ^ 8) :
    packV op vd va vb fn < 2 ^ 32 := by
  unfold packV; omega

namespace WordBound

/-- The word of an instruction has 32 bits. -/
def Statement (i : Instr) : Prop := ∀ w, encode i = some w → w < 2 ^ 32

theorem add (d : Reg) (a : Reg) (b : Reg) : Statement (.add d a b) :=
  fun _ h => Option.some.inj h ▸ packA_lt d a b (by decide) (by decide)
theorem sub (d : Reg) (a : Reg) (b : Reg) : Statement (.sub d a b) :=
  fun _ h => Option.some.inj h ▸ packA_lt d a b (by decide) (by decide)
theorem and (d : Reg) (a : Reg) (b : Reg) : Statement (.and d a b) :=
  fun _ h => Option.some.inj h ▸ packA_lt d a b (by decide) (by decide)
theorem or (d : Reg) (a : Reg) (b : Reg) : Statement (.or d a b) :=
  fun _ h => Option.some.inj h ▸ packA_lt d a b (by decide) (by decide)
theorem xor (d : Reg) (a : Reg) (b : Reg) : Statement (.xor d a b) :=
  fun _ h => Option.some.inj h ▸ packA_lt d a b (by decide) (by decide)
theorem andn (d : Reg) (a : Reg) (b : Reg) : Statement (.andn d a b) :=
  fun _ h => Option.some.inj h ▸ packA_lt d a b (by decide) (by decide)
theorem orn (d : Reg) (a : Reg) (b : Reg) : Statement (.orn d a b) :=
  fun _ h => Option.some.inj h ▸ packA_lt d a b (by decide) (by decide)
theorem sll (d : Reg) (a : Reg) (b : Reg) : Statement (.sll d a b) :=
  fun _ h => Option.some.inj h ▸ packA_lt d a b (by decide) (by decide)
theorem srl (d : Reg) (a : Reg) (b : Reg) : Statement (.srl d a b) :=
  fun _ h => Option.some.inj h ▸ packA_lt d a b (by decide) (by decide)
theorem sra (d : Reg) (a : Reg) (b : Reg) : Statement (.sra d a b) :=
  fun _ h => Option.some.inj h ▸ packA_lt d a b (by decide) (by decide)
theorem ror (d : Reg) (a : Reg) (b : Reg) : Statement (.ror d a b) :=
  fun _ h => Option.some.inj h ▸ packA_lt d a b (by decide) (by decide)
theorem mul (d : Reg) (a : Reg) (b : Reg) : Statement (.mul d a b) :=
  fun _ h => Option.some.inj h ▸ packA_lt d a b (by decide) (by decide)
theorem mulhs (d : Reg) (a : Reg) (b : Reg) : Statement (.mulhs d a b) :=
  fun _ h => Option.some.inj h ▸ packA_lt d a b (by decide) (by decide)
theorem mulhz (d : Reg) (a : Reg) (b : Reg) : Statement (.mulhz d a b) :=
  fun _ h => Option.some.inj h ▸ packA_lt d a b (by decide) (by decide)
theorem divs (d : Reg) (a : Reg) (b : Reg) : Statement (.divs d a b) :=
  fun _ h => Option.some.inj h ▸ packA_lt d a b (by decide) (by decide)
theorem divz (d : Reg) (a : Reg) (b : Reg) : Statement (.divz d a b) :=
  fun _ h => Option.some.inj h ▸ packA_lt d a b (by decide) (by decide)
theorem rems (d : Reg) (a : Reg) (b : Reg) : Statement (.rems d a b) :=
  fun _ h => Option.some.inj h ▸ packA_lt d a b (by decide) (by decide)
theorem remz (d : Reg) (a : Reg) (b : Reg) : Statement (.remz d a b) :=
  fun _ h => Option.some.inj h ▸ packA_lt d a b (by decide) (by decide)
theorem mins (d : Reg) (a : Reg) (b : Reg) : Statement (.mins d a b) :=
  fun _ h => Option.some.inj h ▸ packA_lt d a b (by decide) (by decide)
theorem maxs (d : Reg) (a : Reg) (b : Reg) : Statement (.maxs d a b) :=
  fun _ h => Option.some.inj h ▸ packA_lt d a b (by decide) (by decide)
theorem minz (d : Reg) (a : Reg) (b : Reg) : Statement (.minz d a b) :=
  fun _ h => Option.some.inj h ▸ packA_lt d a b (by decide) (by decide)
theorem maxz (d : Reg) (a : Reg) (b : Reg) : Statement (.maxz d a b) :=
  fun _ h => Option.some.inj h ▸ packA_lt d a b (by decide) (by decide)
theorem slts (d : Reg) (a : Reg) (b : Reg) : Statement (.slts d a b) :=
  fun _ h => Option.some.inj h ▸ packA_lt d a b (by decide) (by decide)
theorem sltz (d : Reg) (a : Reg) (b : Reg) : Statement (.sltz d a b) :=
  fun _ h => Option.some.inj h ▸ packA_lt d a b (by decide) (by decide)
theorem clz (d : Reg) (a : Reg) : Statement (.clz d a) :=
  fun _ h => Option.some.inj h ▸ packA_lt d a 0 (by decide) (by decide)
theorem ctz (d : Reg) (a : Reg) : Statement (.ctz d a) :=
  fun _ h => Option.some.inj h ▸ packA_lt d a 0 (by decide) (by decide)
theorem popc (d : Reg) (a : Reg) : Statement (.popc d a) :=
  fun _ h => Option.some.inj h ▸ packA_lt d a 0 (by decide) (by decide)
theorem brev (d : Reg) (a : Reg) : Statement (.brev d a) :=
  fun _ h => Option.some.inj h ▸ packA_lt d a 0 (by decide) (by decide)
theorem bswp (d : Reg) (a : Reg) : Statement (.bswp d a) :=
  fun _ h => Option.some.inj h ▸ packA_lt d a 0 (by decide) (by decide)
theorem exts (d : Reg) (a : Reg) (w : ExtW) : Statement (.exts d a w) :=
  fun _ h => Option.some.inj h ▸ packA_lt d a 0 (by decide) (by have := extW_code_lt w; omega)
theorem extz (d : Reg) (a : Reg) (w : ExtW) : Statement (.extz d a w) :=
  fun _ h => Option.some.inj h ▸ packA_lt d a 0 (by decide) (by have := extW_code_lt w; omega)
theorem ins (d : Reg) (a : Reg) (b : Reg) (w : ExtW) : Statement (.ins d a b w) :=
  fun _ h => Option.some.inj h ▸ packA_lt d a b (by decide) (by have := extW_code_lt w; omega)
theorem idx (d : Reg) (a : Reg) (b : Reg) (n : Fin 4) : Statement (.idx d a b n) :=
  fun _ h => Option.some.inj h ▸ packA_lt d a b (by decide) (by have := n.isLt; omega)
theorem addi (d : Reg) (a : Reg) (i : BitVec 16) : Statement (.addi d a i) :=
  fun _ h => Option.some.inj h ▸ packI_lt d a (by decide) (by have := i.isLt; omega)
theorem andi (d : Reg) (a : Reg) (i : BitVec 16) : Statement (.andi d a i) :=
  fun _ h => Option.some.inj h ▸ packI_lt d a (by decide) (by have := i.isLt; omega)
theorem ori (d : Reg) (a : Reg) (i : BitVec 16) : Statement (.ori d a i) :=
  fun _ h => Option.some.inj h ▸ packI_lt d a (by decide) (by have := i.isLt; omega)
theorem xori (d : Reg) (a : Reg) (i : BitVec 16) : Statement (.xori d a i) :=
  fun _ h => Option.some.inj h ▸ packI_lt d a (by decide) (by have := i.isLt; omega)
theorem slli (d : Reg) (a : Reg) (sh : Fin 64) : Statement (.slli d a sh) :=
  fun _ h => Option.some.inj h ▸ packI_lt d a (by decide) (by have := sh.isLt; omega)
theorem srli (d : Reg) (a : Reg) (sh : Fin 64) : Statement (.srli d a sh) :=
  fun _ h => Option.some.inj h ▸ packI_lt d a (by decide) (by have := sh.isLt; omega)
theorem srai (d : Reg) (a : Reg) (sh : Fin 64) : Statement (.srai d a sh) :=
  fun _ h => Option.some.inj h ▸ packI_lt d a (by decide) (by have := sh.isLt; omega)
theorem sltsi (d : Reg) (a : Reg) (i : BitVec 16) : Statement (.sltsi d a i) :=
  fun _ h => Option.some.inj h ▸ packI_lt d a (by decide) (by have := i.isLt; omega)
theorem sltzi (d : Reg) (a : Reg) (i : BitVec 16) : Statement (.sltzi d a i) :=
  fun _ h => Option.some.inj h ▸ packI_lt d a (by decide) (by have := i.isLt; omega)
theorem lih (d : Reg) (k : Fin 4) (i : BitVec 16) : Statement (.lih d k i) :=
  fun _ h => Option.some.inj h ▸ packI_lt d (regOf k.val) (by decide) (by have := i.isLt; omega)
theorem pcrel (d : Reg) (i : BitVec 16) : Statement (.pcrel d i) :=
  fun _ h => Option.some.inj h ▸ packI_lt d 0 (by decide) (by have := i.isLt; omega)
theorem beq (a : Reg) (b : Reg) (off : BitVec 16) : Statement (.beq a b off) :=
  fun _ h => Option.some.inj h ▸ packI_lt a b (by decide) (by have := off.isLt; omega)
theorem bne (a : Reg) (b : Reg) (off : BitVec 16) : Statement (.bne a b off) :=
  fun _ h => Option.some.inj h ▸ packI_lt a b (by decide) (by have := off.isLt; omega)
theorem jmpr (d : Reg) (t : Reg) : Statement (.jmpr d t) :=
  fun _ h => Option.some.inj h ▸ packI_lt t t (by decide) (by have := d.isLt; omega)
theorem blt (a : Reg) (b : Reg) (off : BitVec 15) : Statement (.blt a b off) :=
  fun _ h => Option.some.inj h ▸ packI_lt a b (by decide) (by have := off.isLt; omega)
theorem bge (a : Reg) (b : Reg) (off : BitVec 15) : Statement (.bge a b off) :=
  fun _ h => Option.some.inj h ▸ packI_lt a b (by decide) (by have := off.isLt; omega)
theorem blo (a : Reg) (b : Reg) (off : BitVec 15) : Statement (.blo a b off) :=
  fun _ h => Option.some.inj h ▸ packI_lt a b (by decide) (by have := off.isLt; omega)
theorem bhs (a : Reg) (b : Reg) (off : BitVec 15) : Statement (.bhs a b off) :=
  fun _ h => Option.some.inj h ▸ packI_lt a b (by decide) (by have := off.isLt; omega)
theorem call (d : Reg) (off : BitVec 21) : Statement (.call d off) :=
  fun _ h => Option.some.inj h ▸ packJ_lt d (by decide) (by have := off.isLt; omega)
theorem ld (d : Reg) (a : Reg) (sz : Size) (off : BitVec 11) (la : Fin 16) : Statement (.ld d a sz off la) :=
  fun _ h => Option.some.inj h ▸ packM_lt d a la (by decide) (off12_lt sz off)
theorem lds (d : Reg) (a : Reg) (sz : Size) (off : BitVec 11) (la : Fin 16) : Statement (.lds d a sz off la) :=
  fun _ h => Option.some.inj h ▸ packM_lt d a la (by decide) (off12_lt sz off)
theorem st (d : Reg) (a : Reg) (sz : Size) (off : BitVec 11) : Statement (.st d a sz off) :=
  fun _ h => Option.some.inj h ▸ packM_lt d a 0 (by decide) (off12_lt sz off)
theorem ldx (d : Reg) (a : Reg) (b : Reg) (sz : Size) (la : Fin 16) : Statement (.ldx d a b sz la) :=
  fun _ h => Option.some.inj h ▸ packQ_lt d a b la (by decide) (by have := size_code_lt sz; omega)
theorem lda (d : Reg) (a : Reg) (b : Reg) (sz : Size) (sc : Scope) (la : Fin 16) : Statement (.lda d a b sz sc la) :=
  fun _ h => Option.some.inj h ▸ packQ_lt d a b la (by decide) (by have := scope_code_lt sc; have := size_code_lt sz; omega)
theorem stl (d : Reg) (a : Reg) (b : Reg) (sz : Size) (sc : Scope) : Statement (.stl d a b sz sc) :=
  fun _ h => Option.some.inj h ▸ packQ_lt d a b 0 (by decide) (by have := scope_code_lt sc; have := size_code_lt sz; omega)
theorem stp (d : Reg) (a : Reg) (b : Reg) (sz : Size) : Statement (.stp d a b sz) :=
  fun _ h => Option.some.inj h ▸ packQ_lt d a b 0 (by decide) (by have := size_code_lt sz; omega)
theorem aadd (d : Reg) (a : Reg) (b : Reg) (dbl : Bool) (la : Fin 16) : Statement (.aadd d a b dbl la) :=
  fun _ h => Option.some.inj h ▸ packQ_lt d a b la (by decide) (by have := dblCode_lt dbl; omega)
theorem aand (d : Reg) (a : Reg) (b : Reg) (dbl : Bool) (la : Fin 16) : Statement (.aand d a b dbl la) :=
  fun _ h => Option.some.inj h ▸ packQ_lt d a b la (by decide) (by have := dblCode_lt dbl; omega)
theorem aor (d : Reg) (a : Reg) (b : Reg) (dbl : Bool) (la : Fin 16) : Statement (.aor d a b dbl la) :=
  fun _ h => Option.some.inj h ▸ packQ_lt d a b la (by decide) (by have := dblCode_lt dbl; omega)
theorem axor (d : Reg) (a : Reg) (b : Reg) (dbl : Bool) (la : Fin 16) : Statement (.axor d a b dbl la) :=
  fun _ h => Option.some.inj h ▸ packQ_lt d a b la (by decide) (by have := dblCode_lt dbl; omega)
theorem amin (d : Reg) (a : Reg) (b : Reg) (k : Sgn) (dbl : Bool) (la : Fin 16) : Statement (.amin d a b k dbl la) :=
  fun _ h => Option.some.inj h ▸ packQ_lt d a b la (by decide) (by have := sgn_code_lt k; have := dblCode_lt dbl; omega)
theorem amax (d : Reg) (a : Reg) (b : Reg) (k : Sgn) (dbl : Bool) (la : Fin 16) : Statement (.amax d a b k dbl la) :=
  fun _ h => Option.some.inj h ▸ packQ_lt d a b la (by decide) (by have := sgn_code_lt k; have := dblCode_lt dbl; omega)
theorem aswp (d : Reg) (a : Reg) (b : Reg) (dbl : Bool) (la : Fin 16) : Statement (.aswp d a b dbl la) :=
  fun _ h => Option.some.inj h ▸ packQ_lt d a b la (by decide) (by have := dblCode_lt dbl; omega)
theorem acas (d : Reg) (a : Reg) (b : Reg) (dbl : Bool) (la : Fin 16) : Statement (.acas d a b dbl la) :=
  fun _ h => Option.some.inj h ▸ packQ_lt d a b la (by decide) (by have := dblCode_lt dbl; omega)
theorem afadd (d : Reg) (a : Reg) (b : Reg) (dbl : Bool) (la : Fin 16) : Statement (.afadd d a b dbl la) :=
  fun _ h => Option.some.inj h ▸ packQ_lt d a b la (by decide) (by have := dblCode_lt dbl; omega)
theorem radd (a : Reg) (b : Reg) (dbl : Bool) : Statement (.radd a b dbl) :=
  fun _ h => Option.some.inj h ▸ packQ_lt 0 a b 0 (by decide) (by have := dblCode_lt dbl; omega)
theorem rmin (a : Reg) (b : Reg) (k : Sgn) (dbl : Bool) : Statement (.rmin a b k dbl) :=
  fun _ h => Option.some.inj h ▸ packQ_lt 0 a b 0 (by decide) (by have := sgn_code_lt k; have := dblCode_lt dbl; omega)
theorem rmax (a : Reg) (b : Reg) (k : Sgn) (dbl : Bool) : Statement (.rmax a b k dbl) :=
  fun _ h => Option.some.inj h ▸ packQ_lt 0 a b 0 (by decide) (by have := sgn_code_lt k; have := dblCode_lt dbl; omega)
theorem rfadd (a : Reg) (b : Reg) (dbl : Bool) : Statement (.rfadd a b dbl) :=
  fun _ h => Option.some.inj h ▸ packQ_lt 0 a b 0 (by decide) (by have := dblCode_lt dbl; omega)
theorem rlog (a : Reg) (b : Reg) (flt : Bool) (dbl : Bool) : Statement (.rlog a b flt dbl) :=
  fun _ h => Option.some.inj h ▸ packQ_lt 0 a b 0 (by decide) (by have := dblCode_lt dbl; split <;> omega)
theorem rmrg (d : Reg) (la : Fin 16) : Statement (.rmrg d la) :=
  fun _ h => Option.some.inj h ▸ packQ_lt d 0 0 la (by decide) (by decide)
theorem fence (k : FenceKind) (sc : Scope) : Statement (.fence k sc) :=
  fun _ h => Option.some.inj h ▸ packA_lt 0 0 0 (by decide) (by have := fenceKind_code_lt k; have := scope_code_lt sc; omega)
theorem cpref (a : Reg) : Statement (.cpref a) :=
  fun _ h => Option.some.inj h ▸ packA_lt 0 a 0 (by decide) (by decide)
theorem cflush (a : Reg) : Statement (.cflush a) :=
  fun _ h => Option.some.inj h ▸ packA_lt 0 a 0 (by decide) (by decide)
theorem cdrop (a : Reg) : Statement (.cdrop a) :=
  fun _ h => Option.some.inj h ▸ packA_lt 0 a 0 (by decide) (by decide)
theorem sbwait : Statement (.sbwait) :=
  fun _ h => Option.some.inj h ▸ packA_lt 0 0 0 (by decide) (by decide)
theorem fadd (d : Reg) (a : Reg) (b : Reg) (p : Prec) (r : Rnd) : Statement (.fadd d a b p r) :=
  fun _ h => Option.some.inj h ▸ packA_lt d a b (by decide) (by have := rnd_code_lt r; have := prec_code_lt p; omega)
theorem fsub (d : Reg) (a : Reg) (b : Reg) (p : Prec) (r : Rnd) : Statement (.fsub d a b p r) :=
  fun _ h => Option.some.inj h ▸ packA_lt d a b (by decide) (by have := rnd_code_lt r; have := prec_code_lt p; omega)
theorem fmul (d : Reg) (a : Reg) (b : Reg) (p : Prec) (r : Rnd) : Statement (.fmul d a b p r) :=
  fun _ h => Option.some.inj h ▸ packA_lt d a b (by decide) (by have := rnd_code_lt r; have := prec_code_lt p; omega)
theorem fdiv (d : Reg) (a : Reg) (b : Reg) (p : Prec) (r : Rnd) : Statement (.fdiv d a b p r) :=
  fun _ h => Option.some.inj h ▸ packA_lt d a b (by decide) (by have := rnd_code_lt r; have := prec_code_lt p; omega)
theorem fsqrt (d : Reg) (a : Reg) (p : Prec) (r : Rnd) : Statement (.fsqrt d a p r) :=
  fun _ h => Option.some.inj h ▸ packA_lt d a 0 (by decide) (by have := rnd_code_lt r; have := prec_code_lt p; omega)
theorem fmin (d : Reg) (a : Reg) (b : Reg) (p : Prec) : Statement (.fmin d a b p) :=
  fun _ h => Option.some.inj h ▸ packA_lt d a b (by decide) (by have := prec_code_lt p; omega)
theorem fmax (d : Reg) (a : Reg) (b : Reg) (p : Prec) : Statement (.fmax d a b p) :=
  fun _ h => Option.some.inj h ▸ packA_lt d a b (by decide) (by have := prec_code_lt p; omega)
theorem fmad (d : Reg) (a : Reg) (b : Reg) (c : Reg) (p : Prec) (r : Rnd) : Statement (.fmad d a b c p r) :=
  fun _ h => Option.some.inj h ▸ packA_lt d a b (by decide) (by have := c.isLt; have := rnd_code_lt r; have := prec_code_lt p; omega)
theorem feq (d : Reg) (a : Reg) (b : Reg) (p : Prec) : Statement (.feq d a b p) :=
  fun _ h => Option.some.inj h ▸ packA_lt d a b (by decide) (by have := prec_code_lt p; omega)
theorem flt (d : Reg) (a : Reg) (b : Reg) (p : Prec) : Statement (.flt d a b p) :=
  fun _ h => Option.some.inj h ▸ packA_lt d a b (by decide) (by have := prec_code_lt p; omega)
theorem fle (d : Reg) (a : Reg) (b : Reg) (p : Prec) : Statement (.fle d a b p) :=
  fun _ h => Option.some.inj h ▸ packA_lt d a b (by decide) (by have := prec_code_lt p; omega)
theorem fcls (d : Reg) (a : Reg) (p : Prec) : Statement (.fcls d a p) :=
  fun _ h => Option.some.inj h ▸ packA_lt d a 0 (by decide) (by have := prec_code_lt p; omega)
theorem fsgn (d : Reg) (a : Reg) (b : Reg) (p : Prec) (k : SgnKind) : Statement (.fsgn d a b p k) :=
  fun _ h => Option.some.inj h ▸ packA_lt d a b (by decide) (by have := sgnKind_code_lt k; have := prec_code_lt p; omega)
theorem fcvt (d : Reg) (a : Reg) (dst : FType) (src : FType) (r : Rnd) : Statement (.fcvt d a dst src r) :=
  fun _ h => Option.some.inj h ▸ packA_lt d a 0 (by decide) (by have := fType_code_lt dst; have := fType_code_lt src; have := rnd_code_lt r; omega)
theorem vgrant (d : Reg) (a : Reg) : Statement (.vgrant d a) :=
  fun _ h => Option.some.inj h ▸ packV_lt (by decide) (by have := d.isLt; omega) (by have := a.isLt; omega) (by decide) (by decide)
theorem vretn (d : Reg) (a : Reg) : Statement (.vretn d a) :=
  fun _ h => Option.some.inj h ▸ packV_lt (by decide) (by have := d.isLt; omega) (by have := a.isLt; omega) (by decide) (by decide)
theorem vind (vd : VReg) (vb : VReg) (a : Reg) : Statement (.vind vd vb a) :=
  fun _ h => Option.some.inj h ▸ packV_lt (by decide) (by have := vd.isLt; omega) (by have := a.isLt; omega) (by have := vb.isLt; omega) (by decide)
theorem vmvs (d : Reg) (va : VReg) (b : Reg) (t : VType) : Statement (.vmvs d va b t) :=
  fun _ h => Option.some.inj h ▸ packV_lt (by decide) (by have := d.isLt; omega) (by have := va.isLt; omega) (by have := b.isLt; omega) (by have := vType_code_lt t; omega)
theorem vmsv (vd : VReg) (a : Reg) (b : Reg) (t : VType) : Statement (.vmsv vd a b t) :=
  fun _ h => Option.some.inj h ▸ packV_lt (by decide) (by have := vd.isLt; omega) (by have := a.isLt; omega) (by have := b.isLt; omega) (by have := vType_code_lt t; omega)
theorem vbcast (vd : VReg) (a : Reg) (t : VType) : Statement (.vbcast vd a t) :=
  fun _ h => Option.some.inj h ▸ packV_lt (by decide) (by have := vd.isLt; omega) (by have := a.isLt; omega) (by decide) (by have := vType_code_lt t; omega)
theorem vld (vd : VReg) (a : Reg) (b : Reg) (t : VType) : Statement (.vld vd a b t) :=
  fun _ h => Option.some.inj h ▸ packV_lt (by decide) (by have := vd.isLt; omega) (by have := a.isLt; omega) (by have := b.isLt; omega) (by have := vType_code_lt t; omega)
theorem vst (vd : VReg) (a : Reg) (b : Reg) (t : VType) : Statement (.vst vd a b t) :=
  fun _ h => Option.some.inj h ▸ packV_lt (by decide) (by have := vd.isLt; omega) (by have := a.isLt; omega) (by have := b.isLt; omega) (by have := vType_code_lt t; omega)
theorem vldx (vd : VReg) (a : Reg) (vb : VReg) (t : VType) : Statement (.vldx vd a vb t) :=
  fun _ h => Option.some.inj h ▸ packV_lt (by decide) (by have := vd.isLt; omega) (by have := a.isLt; omega) (by have := vb.isLt; omega) (by have := vType_code_lt t; omega)
theorem vstx (vd : VReg) (a : Reg) (vb : VReg) (t : VType) : Statement (.vstx vd a vb t) :=
  fun _ h => Option.some.inj h ▸ packV_lt (by decide) (by have := vd.isLt; omega) (by have := a.isLt; omega) (by have := vb.isLt; omega) (by have := vType_code_lt t; omega)
theorem vadd (vd : VReg) (va : VReg) (vb : VReg) (t : VType) : Statement (.vadd vd va vb t) :=
  fun _ h => Option.some.inj h ▸ packV_lt (by decide) (by have := vd.isLt; omega) (by have := va.isLt; omega) (by have := vb.isLt; omega) (by have := vType_code_lt t; omega)
theorem vsub (vd : VReg) (va : VReg) (vb : VReg) (t : VType) : Statement (.vsub vd va vb t) :=
  fun _ h => Option.some.inj h ▸ packV_lt (by decide) (by have := vd.isLt; omega) (by have := va.isLt; omega) (by have := vb.isLt; omega) (by have := vType_code_lt t; omega)
theorem vmul (vd : VReg) (va : VReg) (vb : VReg) (t : VType) : Statement (.vmul vd va vb t) :=
  fun _ h => Option.some.inj h ▸ packV_lt (by decide) (by have := vd.isLt; omega) (by have := va.isLt; omega) (by have := vb.isLt; omega) (by have := vType_code_lt t; omega)
theorem vfma (vd : VReg) (va : VReg) (vb : VReg) (t : VType) : Statement (.vfma vd va vb t) :=
  fun _ h => Option.some.inj h ▸ packV_lt (by decide) (by have := vd.isLt; omega) (by have := va.isLt; omega) (by have := vb.isLt; omega) (by have := vType_code_lt t; omega)
theorem vmax (vd : VReg) (va : VReg) (vb : VReg) (t : VType) : Statement (.vmax vd va vb t) :=
  fun _ h => Option.some.inj h ▸ packV_lt (by decide) (by have := vd.isLt; omega) (by have := va.isLt; omega) (by have := vb.isLt; omega) (by have := vType_code_lt t; omega)
theorem vmin (vd : VReg) (va : VReg) (vb : VReg) (t : VType) : Statement (.vmin vd va vb t) :=
  fun _ h => Option.some.inj h ▸ packV_lt (by decide) (by have := vd.isLt; omega) (by have := va.isLt; omega) (by have := vb.isLt; omega) (by have := vType_code_lt t; omega)
theorem vexp (vd : VReg) (va : VReg) (t : VType) : Statement (.vexp vd va t) :=
  fun _ h => Option.some.inj h ▸ packV_lt (by decide) (by have := vd.isLt; omega) (by have := va.isLt; omega) (by decide) (by have := vType_code_lt t; omega)
theorem vrcp (vd : VReg) (va : VReg) (t : VType) : Statement (.vrcp vd va t) :=
  fun _ h => Option.some.inj h ▸ packV_lt (by decide) (by have := vd.isLt; omega) (by have := va.isLt; omega) (by decide) (by have := vType_code_lt t; omega)
theorem vrsq (vd : VReg) (va : VReg) (t : VType) : Statement (.vrsq vd va t) :=
  fun _ h => Option.some.inj h ▸ packV_lt (by decide) (by have := vd.isLt; omega) (by have := va.isLt; omega) (by decide) (by have := vType_code_lt t; omega)
theorem vred (vd : VReg) (va : VReg) (k : RedKind) (t : VType) : Statement (.vred vd va k t) :=
  fun _ h => Option.some.inj h ▸ packV_lt (by decide) (by have := vd.isLt; omega) (by have := va.isLt; omega) (by decide) (by have := redKind_code_lt k; have := vType_code_lt t; omega)
theorem vperm (vd : VReg) (va : VReg) (vb : VReg) (t : VType) : Statement (.vperm vd va vb t) :=
  fun _ h => Option.some.inj h ▸ packV_lt (by decide) (by have := vd.isLt; omega) (by have := va.isLt; omega) (by have := vb.isLt; omega) (by have := vType_code_lt t; omega)
theorem vcmp (vd : VReg) (va : VReg) (vb : VReg) (k : CmpKind) (t : VType) : Statement (.vcmp vd va vb k t) :=
  fun _ h => Option.some.inj h ▸ packV_lt (by decide) (by have := vd.isLt; omega) (by have := va.isLt; omega) (by have := vb.isLt; omega) (by have := cmpKind_code_lt k; have := vType_code_lt t; omega)
theorem vsel (vd : VReg) (va : VReg) (vb : VReg) (t : VType) : Statement (.vsel vd va vb t) :=
  fun _ h => Option.some.inj h ▸ packV_lt (by decide) (by have := vd.isLt; omega) (by have := va.isLt; omega) (by have := vb.isLt; omega) (by have := vType_code_lt t; omega)
theorem vcvt (vd : VReg) (va : VReg) (dst : Fmt) (src : Fmt) (r : Rnd) : Statement (.vcvt vd va dst src r) :=
  fun _ h => Option.some.inj h ▸ packV_lt (by decide) (by have := vd.isLt; omega) (by have := va.isLt; omega) (by have := fmt_code_lt src; omega) (by have := fmt_code_lt dst; have := rnd_code_lt r; omega)
theorem qbind (q : Fin 8) (a : Reg) : Statement (.qbind q a) :=
  fun _ h => Option.some.inj h ▸ packQ_lt 0 a (streamReg q) 0 (by decide) (by decide)
theorem qfib (q : Fin 8) (a : Reg) : Statement (.qfib q a) :=
  fun _ h => Option.some.inj h ▸ packQ_lt 0 a (streamReg q) 0 (by decide) (by decide)
theorem qisect (q : Fin 8) (a : Reg) : Statement (.qisect q a) :=
  fun _ h => Option.some.inj h ▸ packQ_lt 0 a (streamReg q) 0 (by decide) (by decide)
theorem qunion (q : Fin 8) (a : Reg) : Statement (.qunion q a) :=
  fun _ h => Option.some.inj h ▸ packQ_lt 0 a (streamReg q) 0 (by decide) (by decide)
theorem qnbr (q : Fin 8) (r : Dir) : Statement (.qnbr q r) :=
  fun _ h => Option.some.inj h ▸ packQ_lt 0 0 (streamReg q) 0 (by decide) (by have := dir_code_lt r; omega)
theorem qfree (q : Fin 8) : Statement (.qfree q) :=
  fun _ h => Option.some.inj h ▸ packQ_lt 0 0 (streamReg q) 0 (by decide) (by decide)
theorem qskip (q : Fin 8) (a : Reg) : Statement (.qskip q a) :=
  fun _ h => Option.some.inj h ▸ packQ_lt 0 a (streamReg q) 0 (by decide) (by decide)
theorem qcrd (d : Reg) (q : Fin 8) (la : Fin 16) : Statement (.qcrd d q la) :=
  fun _ h => Option.some.inj h ▸ packQ_lt d 0 (streamReg q) la (by decide) (by decide)
theorem qend (d : Reg) (q : Fin 8) (la : Fin 16) : Statement (.qend d q la) :=
  fun _ h => Option.some.inj h ▸ packQ_lt d 0 (streamReg q) la (by decide) (by decide)
theorem qctl (d : Reg) (q : Fin 8) (a : Reg) (la : Fin 16) : Statement (.qctl d q a la) :=
  fun _ h => Option.some.inj h ▸ packQ_lt d a (streamReg q) la (by decide) (by decide)
theorem qsave (q : Fin 8) (a : Reg) : Statement (.qsave q a) :=
  fun _ h => Option.some.inj h ▸ packQ_lt 0 a (streamReg q) 0 (by decide) (by decide)
theorem qload (q : Fin 8) (a : Reg) : Statement (.qload q a) :=
  fun _ h => Option.some.inj h ▸ packQ_lt 0 a (streamReg q) 0 (by decide) (by decide)
theorem fchk (d : Reg) (a : Reg) (la : Fin 16) : Statement (.fchk d a la) :=
  fun _ h => Option.some.inj h ▸ packQ_lt d a 0 la (by decide) (by decide)
theorem hstart (d : Reg) (a : Reg) (b : Reg) : Statement (.hstart d a b) :=
  fun _ h => Option.some.inj h ▸ packA_lt d a b (by decide) (by decide)
theorem hwait (d : Reg) (a : Reg) : Statement (.hwait d a) :=
  fun _ h => Option.some.inj h ▸ packA_lt d a 0 (by decide) (by decide)
theorem hkill (d : Reg) (a : Reg) : Statement (.hkill d a) :=
  fun _ h => Option.some.inj h ▸ packA_lt d a 0 (by decide) (by decide)
theorem hkillSelf (d : Reg) (b : Reg) : Statement (.hkillSelf d b) :=
  fun _ h => Option.some.inj h ▸ packA_lt d 0 b (by decide) (by decide)
theorem hstat (d : Reg) (a : Reg) : Statement (.hstat d a) :=
  fun _ h => Option.some.inj h ▸ packA_lt d a 0 (by decide) (by decide)
theorem hlend (d : Reg) (a : Reg) : Statement (.hlend d a) :=
  fun _ h => Option.some.inj h ▸ packA_lt d a 0 (by decide) (by decide)
theorem hrecl (d : Reg) (a : Reg) : Statement (.hrecl d a) :=
  fun _ h => Option.some.inj h ▸ packA_lt d a 0 (by decide) (by decide)
theorem self (d : Reg) : Statement (.self d) :=
  fun _ h => Option.some.inj h ▸ packA_lt d 0 0 (by decide) (by decide)
theorem yield : Statement (.yield) :=
  fun _ h => Option.some.inj h ▸ packA_lt 0 0 0 (by decide) (by decide)
theorem migr (d : Reg) (a : Reg) : Statement (.migr d a) :=
  fun _ h => Option.some.inj h ▸ packA_lt d a 0 (by decide) (by decide)
theorem pin (d : Reg) : Statement (.pin d) :=
  fun _ h => Option.some.inj h ▸ packA_lt d 0 0 (by decide) (by decide)
theorem unpin (d : Reg) : Statement (.unpin d) :=
  fun _ h => Option.some.inj h ▸ packA_lt d 0 0 (by decide) (by decide)
theorem park (d : Reg) (a : Reg) : Statement (.park d a) :=
  fun _ h => Option.some.inj h ▸ packA_lt d a 0 (by decide) (by decide)
theorem wake (a : Reg) : Statement (.wake a) :=
  fun _ h => Option.some.inj h ▸ packA_lt 0 a 0 (by decide) (by decide)
theorem tenq (d : Reg) (a : Reg) (b : Reg) : Statement (.tenq d a b) :=
  fun _ h => Option.some.inj h ▸ packA_lt d a b (by decide) (by decide)
theorem tenqd (d : Reg) (a : Reg) : Statement (.tenqd d a) :=
  fun _ h => Option.some.inj h ▸ packA_lt d a 0 (by decide) (by decide)
theorem tdone : Statement (.tdone) :=
  fun _ h => Option.some.inj h ▸ packA_lt 0 0 0 (by decide) (by decide)
theorem tsettle : Statement (.tsettle) :=
  fun _ h => Option.some.inj h ▸ packA_lt 0 0 0 (by decide) (by decide)
theorem tabort (a : Reg) : Statement (.tabort a) :=
  fun _ h => Option.some.inj h ▸ packA_lt 0 a 0 (by decide) (by decide)
theorem tsrd (d : Reg) (a : Reg) : Statement (.tsrd d a) :=
  fun _ h => Option.some.inj h ▸ packA_lt d a 0 (by decide) (by decide)
theorem tgvt (d : Reg) : Statement (.tgvt d) :=
  fun _ h => Option.some.inj h ▸ packA_lt d 0 0 (by decide) (by decide)
theorem tnest (d : Reg) : Statement (.tnest d) :=
  fun _ h => Option.some.inj h ▸ packA_lt d 0 0 (by decide) (by decide)
theorem tleave (d : Reg) : Statement (.tleave d) :=
  fun _ h => Option.some.inj h ▸ packA_lt d 0 0 (by decide) (by decide)
theorem tdefer (a : Reg) (b : Reg) : Statement (.tdefer a b) :=
  fun _ h => Option.some.inj h ▸ packA_lt 0 a b (by decide) (by decide)
theorem mxwait (d : Reg) : Statement (.mxwait d) :=
  fun _ h => Option.some.inj h ▸ packA_lt d 0 0 (by decide) (by decide)
theorem mxstat (d : Reg) (a : Reg) : Statement (.mxstat d a) :=
  fun _ h => Option.some.inj h ▸ packA_lt d a 0 (by decide) (by decide)
theorem mxspc (d : Reg) : Statement (.mxspc d) :=
  fun _ h => Option.some.inj h ▸ packA_lt d 0 0 (by decide) (by decide)
theorem cpy (d : Reg) (a : Reg) : Statement (.cpy d a) :=
  fun _ h => Option.some.inj h ▸ packA_lt d a 0 (by decide) (by decide)
theorem cpywait (d : Reg) (a : Reg) : Statement (.cpywait d a) :=
  fun _ h => Option.some.inj h ▸ packA_lt d a 0 (by decide) (by decide)
theorem cpyq (d : Reg) (a : Reg) : Statement (.cpyq d a) :=
  fun _ h => Option.some.inj h ▸ packA_lt d a 0 (by decide) (by decide)
theorem publ (d : Reg) (a : Reg) (b : Reg) : Statement (.publ d a b) :=
  fun _ h => Option.some.inj h ▸ packA_lt d a b (by decide) (by decide)
theorem embg (d : Reg) (a : Reg) : Statement (.embg d a) :=
  fun _ h => Option.some.inj h ▸ packA_lt d a 0 (by decide) (by decide)
theorem rmove (d : Reg) (a : Reg) : Statement (.rmove d a) :=
  fun _ h => Option.some.inj h ▸ packA_lt d a 0 (by decide) (by decide)
theorem racq (d : Reg) (a : Reg) (b : Reg) (la : Fin 16) : Statement (.racq d a b la) :=
  fun _ h => Option.some.inj h ▸ packQ_lt d a b la (by decide) (by decide)
theorem rcom (d : Reg) (a : Reg) (b : Reg) (la : Fin 16) : Statement (.rcom d a b la) :=
  fun _ h => Option.some.inj h ▸ packQ_lt d a b la (by decide) (by decide)
theorem rpeek (d : Reg) (a : Reg) (la : Fin 16) : Statement (.rpeek d a la) :=
  fun _ h => Option.some.inj h ▸ packQ_lt d a 0 la (by decide) (by decide)
theorem rpeekTake (d : Reg) (a : Reg) (la : Fin 16) : Statement (.rpeekTake d a la) :=
  fun _ h => Option.some.inj h ▸ packQ_lt d a 0 la (by decide) (by decide)
theorem rrel (d : Reg) (a : Reg) (b : Reg) (la : Fin 16) : Statement (.rrel d a b la) :=
  fun _ h => Option.some.inj h ▸ packQ_lt d a b la (by decide) (by decide)
theorem rdisp (d : Reg) (a : Reg) (b : Reg) (la : Fin 16) : Statement (.rdisp d a b la) :=
  fun _ h => Option.some.inj h ▸ packQ_lt d a b la (by decide) (by decide)
theorem barr (a : Reg) : Statement (.barr a) :=
  fun _ h => Option.some.inj h ▸ packA_lt 0 a 0 (by decide) (by decide)
theorem bwait (d : Reg) : Statement (.bwait d) :=
  fun _ h => Option.some.inj h ▸ packA_lt d 0 0 (by decide) (by decide)
theorem bsync (d : Reg) (a : Reg) : Statement (.bsync d a) :=
  fun _ h => Option.some.inj h ▸ packA_lt d a 0 (by decide) (by decide)
theorem bred (d : Reg) (a : Reg) (b : Reg) (o : BredOp) : Statement (.bred d a b o) :=
  fun _ h => Option.some.inj h ▸ packA_lt d a b (by decide) (by have := bredOp_code_lt o; omega)
theorem bset (d : Reg) (a : Reg) (b : Reg) : Statement (.bset d a b) :=
  fun _ h => Option.some.inj h ▸ packA_lt d a b (by decide) (by decide)
theorem trap (c : BitVec 12) : Statement (.trap c) :=
  fun _ h => Option.some.inj h ▸ packI_lt 0 0 (by decide) (by have := c.isLt; omega)
theorem eret : Statement (.eret) :=
  fun _ h => Option.some.inj h ▸ packI_lt 0 0 (by decide) (by decide)
theorem ebrk (c : BitVec 12) : Statement (.ebrk c) :=
  fun _ h => Option.some.inj h ▸ packI_lt 0 0 (by decide) (by have := c.isLt; omega)
theorem jrd (d : Reg) (a : Reg) : Statement (.jrd d a) :=
  fun _ h => Option.some.inj h ▸ packI_lt d a (by decide) (by decide)
theorem sysrd (d : Reg) (n : BitVec 12) : Statement (.sysrd d n) :=
  fun _ h => Option.some.inj h ▸ packI_lt d 0 (by decide) (by have := n.isLt; omega)
theorem syswr (n : BitVec 12) (a : Reg) : Statement (.syswr n a) :=
  fun _ h => Option.some.inj h ▸ packI_lt 0 a (by decide) (by have := n.isLt; omega)
theorem bstat (c : Reg) (a : Reg) (off : BitVec 15) : Statement (.bstat c a off) :=
  fun _ h => Option.some.inj h ▸ packI_lt c a (by decide) (by have := off.isLt; omega)
theorem tlbinv (a : Reg) (b : Reg) (sc : Scope) : Statement (.tlbinv a b sc) :=
  fun _ h => Option.some.inj h ▸ packA_lt 0 a b (by decide) (by have := scope_code_lt sc; omega)
theorem tlbsync (sc : Scope) : Statement (.tlbsync sc) :=
  fun _ h => Option.some.inj h ▸ packA_lt 0 0 0 (by decide) (by have := scope_code_lt sc; omega)
theorem ctxsv (d : Reg) (a : Reg) (b : Reg) (la : Fin 16) : Statement (.ctxsv d a b la) :=
  fun _ h => Option.some.inj h ▸ packQ_lt d a b la (by decide) (by decide)
theorem ctxld (d : Reg) (a : Reg) (b : Reg) (la : Fin 16) : Statement (.ctxld d a b la) :=
  fun _ h => Option.some.inj h ▸ packQ_lt d a b la (by decide) (by decide)
theorem rmapw (d : Reg) (a : Reg) (b : Reg) (la : Fin 16) : Statement (.rmapw d a b la) :=
  fun _ h => Option.some.inj h ▸ packQ_lt d a b la (by decide) (by decide)
theorem mbrd (d : Reg) (a : Reg) (la : Fin 16) : Statement (.mbrd d a la) :=
  fun _ h => Option.some.inj h ▸ packQ_lt d a 0 la (by decide) (by decide)
theorem mbwr (a : Reg) : Statement (.mbwr a) :=
  fun _ h => Option.some.inj h ▸ packQ_lt 0 a 0 0 (by decide) (by decide)
theorem loadRequest (x0 : Nat) : Statement (.loadRequest x0) := fun _ h => nomatch (show none = some _ from h)
theorem storeRequest (x0 : Nat) : Statement (.storeRequest x0) := fun _ h => nomatch (show none = some _ from h)
theorem l1Invalidate (x0 : Nat) (x1 : CoreId) : Statement (.l1Invalidate x0 x1) := fun _ h => nomatch (show none = some _ from h)
theorem homeWritePerform (x0 : Nat) : Statement (.homeWritePerform x0) := fun _ h => nomatch (show none = some _ from h)
theorem atomicRequest (x0 : Nat) : Statement (.atomicRequest x0) := fun _ h => nomatch (show none = some _ from h)
theorem reductionRequest (x0 : Nat) : Statement (.reductionRequest x0) := fun _ h => nomatch (show none = some _ from h)
theorem rlogRecord (x0 : Nat) : Statement (.rlogRecord x0) := fun _ h => nomatch (show none = some _ from h)
theorem replicaTimeout (x0 : Nat) : Statement (.replicaTimeout x0) := fun _ h => nomatch (show none = some _ from h)
theorem replyLands (x0 : Nat) : Statement (.replyLands x0) := fun _ h => nomatch (show none = some _ from h)
theorem acknowledgement (x0 : Nat) : Statement (.acknowledgement x0) := fun _ h => nomatch (show none = some _ from h)
theorem negativeAcknowledgement (x0 : Nat) : Statement (.negativeAcknowledgement x0) := fun _ h => nomatch (show none = some _ from h)
theorem l2cfgWrite (x0 : CoreId) (x1 : Word) : Statement (.l2cfgWrite x0 x1) := fun _ h => nomatch (show none = some _ from h)
theorem taskcfgWrite (x0 : CtxId) (x1 : Word) : Statement (.taskcfgWrite x0 x1) := fun _ h => nomatch (show none = some _ from h)
theorem atblWrite (x0 : Nat) (x1 : Word) : Statement (.atblWrite x0 x1) := fun _ h => nomatch (show none = some _ from h)
theorem windowWrite (x0 : CoreId) (x1 : Fin 4) (x2 : Word) : Statement (.windowWrite x0 x1 x2) := fun _ h => nomatch (show none = some _ from h)
theorem uplogWrite (x0 : Nat) (x1 : Word) : Statement (.uplogWrite x0 x1) := fun _ h => nomatch (show none = some _ from h)
theorem publishRegionWrite (x0 : Nat) (x1 : Bool) (x2 : Word) : Statement (.publishRegionWrite x0 x1 x2) := fun _ h => nomatch (show none = some _ from h)
theorem gsmarkWrite (x0 : Nat) (x1 : Word) : Statement (.gsmarkWrite x0 x1) := fun _ h => nomatch (show none = some _ from h)
theorem pwrcapWrite (x0 : Nat) (x1 : Word) : Statement (.pwrcapWrite x0 x1) := fun _ h => nomatch (show none = some _ from h)
theorem registerWrite (x0 : CtxId) (x1 : BitVec 12) (x2 : Word) : Statement (.registerWrite x0 x1 x2) := fun _ h => nomatch (show none = some _ from h)
theorem rccmdLoad (x0 : CtxId) (x1 : Word) (x2 : Fin 64) : Statement (.rccmdLoad x0 x1 x2) := fun _ h => nomatch (show none = some _ from h)
theorem rccmdStore (x0 : CtxId) (x1 : Word) (x2 : Fin 64) : Statement (.rccmdStore x0 x1 x2) := fun _ h => nomatch (show none = some _ from h)
theorem rccmdRelease (x0 : CtxId) (x1 : Fin 64) : Statement (.rccmdRelease x0 x1) := fun _ h => nomatch (show none = some _ from h)
theorem rcrst (x0 : CtxId) (x1 : Fin 64) : Statement (.rcrst x0 x1) := fun _ h => nomatch (show none = some _ from h)
theorem debugHalt (x0 : CtxId) : Statement (.debugHalt x0) := fun _ h => nomatch (show none = some _ from h)
theorem debugResume (x0 : CtxId) : Statement (.debugResume x0) := fun _ h => nomatch (show none = some _ from h)
theorem debugResumeOne (x0 : CtxId) : Statement (.debugResumeOne x0) := fun _ h => nomatch (show none = some _ from h)
theorem dbgdat (x0 : Nat) : Statement (.dbgdat x0) := fun _ h => nomatch (show none = some _ from h)
theorem mma (x0 : CoreId) : Statement (.mma x0) := fun _ h => nomatch (show none = some _ from h)
theorem accz (x0 : CoreId) : Statement (.accz x0) := fun _ h => nomatch (show none = some _ from h)
theorem accld (x0 : CoreId) : Statement (.accld x0) := fun _ h => nomatch (show none = some _ from h)
theorem accst (x0 : CoreId) : Statement (.accst x0) := fun _ h => nomatch (show none = some _ from h)
theorem ringdefDefine (x0 : CoreId) : Statement (.ringdefDefine x0) := fun _ h => nomatch (show none = some _ from h)
theorem ringdefAppend (x0 : CoreId) : Statement (.ringdefAppend x0) := fun _ h => nomatch (show none = some _ from h)
theorem qfence (x0 : CoreId) : Statement (.qfence x0) := fun _ h => nomatch (show none = some _ from h)
theorem jobStart (x0 : Nat) : Statement (.jobStart x0) := fun _ h => nomatch (show none = some _ from h)
theorem copyJob (x0 : Nat) (x1 : Nat) : Statement (.copyJob x0 x1) := fun _ h => nomatch (show none = some _ from h)
theorem gatherJob (x0 : Nat) (x1 : Nat) : Statement (.gatherJob x0 x1) := fun _ h => nomatch (show none = some _ from h)
theorem compressJob (x0 : Nat) : Statement (.compressJob x0) := fun _ h => nomatch (show none = some _ from h)
theorem decompressJob (x0 : Nat) : Statement (.decompressJob x0) := fun _ h => nomatch (show none = some _ from h)
theorem embgSum (x0 : Nat) : Statement (.embgSum x0) := fun _ h => nomatch (show none = some _ from h)
theorem embgMean (x0 : Nat) : Statement (.embgMean x0) := fun _ h => nomatch (show none = some _ from h)
theorem embgUpdateSum (x0 : Nat) : Statement (.embgUpdateSum x0) := fun _ h => nomatch (show none = some _ from h)
theorem embgUpdateMean (x0 : Nat) : Statement (.embgUpdateMean x0) := fun _ h => nomatch (show none = some _ from h)
theorem rmoveJob (x0 : Nat) : Statement (.rmoveJob x0) := fun _ h => nomatch (show none = some _ from h)
theorem jobCompletion (x0 : Nat) : Statement (.jobCompletion x0) := fun _ h => nomatch (show none = some _ from h)
theorem publishSwap (x0 : Nat) : Statement (.publishSwap x0) := fun _ h => nomatch (show none = some _ from h)
theorem tlbInvalidation (x0 : Nat) (x1 : Nat) : Statement (.tlbInvalidation x0 x1) := fun _ h => nomatch (show none = some _ from h)
theorem invalidationAck (x0 : Nat) (x1 : Nat) : Statement (.invalidationAck x0 x1) := fun _ h => nomatch (show none = some _ from h)
theorem tableWalk (x0 : Nat) : Statement (.tableWalk x0) := fun _ h => nomatch (show none = some _ from h)
theorem taskArrival (x0 : Nat) : Statement (.taskArrival x0) := fun _ h => nomatch (show none = some _ from h)
theorem taskRefill (x0 : CluId) : Statement (.taskRefill x0) := fun _ h => nomatch (show none = some _ from h)
theorem taskDispatch (x0 : CtxId) : Statement (.taskDispatch x0) := fun _ h => nomatch (show none = some _ from h)
theorem equinoxRound (x0 : Nat) : Statement (.equinoxRound x0) := fun _ h => nomatch (show none = some _ from h)
theorem roundComplete (x0 : Nat) : Statement (.roundComplete x0) := fun _ h => nomatch (show none = some _ from h)
theorem migrationReserve (x0 : Nat) : Statement (.migrationReserve x0) := fun _ h => nomatch (show none = some _ from h)
theorem reservationReply (x0 : Nat) : Statement (.reservationReply x0) := fun _ h => nomatch (show none = some _ from h)
theorem reservationTimeout (x0 : CtxId) : Statement (.reservationTimeout x0) := fun _ h => nomatch (show none = some _ from h)
theorem reservationCancel (x0 : Nat) : Statement (.reservationCancel x0) := fun _ h => nomatch (show none = some _ from h)
theorem migrationDepart (x0 : CtxId) : Statement (.migrationDepart x0) := fun _ h => nomatch (show none = some _ from h)
theorem migrationArrival (x0 : Nat) : Statement (.migrationArrival x0) := fun _ h => nomatch (show none = some _ from h)
theorem exitComplete (x0 : CtxId) : Statement (.exitComplete x0) := fun _ h => nomatch (show none = some _ from h)
theorem exitNotice (x0 : Nat) : Statement (.exitNotice x0) := fun _ h => nomatch (show none = some _ from h)
theorem killArrival (x0 : Nat) : Statement (.killArrival x0) := fun _ h => nomatch (show none = some _ from h)
theorem wakeArrival (x0 : Nat) : Statement (.wakeArrival x0) := fun _ h => nomatch (show none = some _ from h)
theorem parkTimeout (x0 : CtxId) : Statement (.parkTimeout x0) := fun _ h => nomatch (show none = some _ from h)
theorem neighbourWordArrival (x0 : Nat) : Statement (.neighbourWordArrival x0) := fun _ h => nomatch (show none = some _ from h)
theorem barrierArrival (x0 : Nat) : Statement (.barrierArrival x0) := fun _ h => nomatch (show none = some _ from h)
theorem barrierRelease (x0 : CtxId) : Statement (.barrierRelease x0) := fun _ h => nomatch (show none = some _ from h)
theorem journalTrap (x0 : CoreId) : Statement (.journalTrap x0) := fun _ h => nomatch (show none = some _ from h)
theorem taskUnitTrap (x0 : CluId) : Statement (.taskUnitTrap x0) := fun _ h => nomatch (show none = some _ from h)
theorem inboundParkTimeout (x0 : Nat) : Statement (.inboundParkTimeout x0) := fun _ h => nomatch (show none = some _ from h)
theorem packetTrim (x0 : Nat) : Statement (.packetTrim x0) := fun _ h => nomatch (show none = some _ from h)
theorem packetArrival (x0 : Nat) : Statement (.packetArrival x0) := fun _ h => nomatch (show none = some _ from h)
theorem trimmedHeader (x0 : Nat) : Statement (.trimmedHeader x0) := fun _ h => nomatch (show none = some _ from h)
theorem reRequest (x0 : Nat) : Statement (.reRequest x0) := fun _ h => nomatch (show none = some _ from h)
theorem deliveryMark (x0 : Nat) : Statement (.deliveryMark x0) := fun _ h => nomatch (show none = some _ from h)
theorem bareDeliveryMark (x0 : Nat) : Statement (.bareDeliveryMark x0) := fun _ h => nomatch (show none = some _ from h)
theorem endToEndExpiry (x0 : Nat) : Statement (.endToEndExpiry x0) := fun _ h => nomatch (show none = some _ from h)
theorem linkReplay (x0 : Nat) (x1 : Nat) : Statement (.linkReplay x0 x1) := fun _ h => nomatch (show none = some _ from h)
theorem laneRetirement (x0 : Nat) (x1 : Nat) (x2 : Nat) : Statement (.laneRetirement x0 x1 x2) := fun _ h => nomatch (show none = some _ from h)
theorem routerPowerDown (x0 : Nat) (x1 : Nat) : Statement (.routerPowerDown x0 x1) := fun _ h => nomatch (show none = some _ from h)
theorem routerWake (x0 : Nat) (x1 : Nat) : Statement (.routerWake x0 x1) := fun _ h => nomatch (show none = some _ from h)
theorem solsticeMark (x0 : Nat) : Statement (.solsticeMark x0) := fun _ h => nomatch (show none = some _ from h)
theorem quiesceReport (x0 : Nat) (x1 : Nat) : Statement (.quiesceReport x0 x1) := fun _ h => nomatch (show none = some _ from h)
theorem laggard (x0 : Nat) (x1 : Nat) : Statement (.laggard x0 x1) := fun _ h => nomatch (show none = some _ from h)
theorem hardQuiesce (x0 : Nat) (x1 : Nat) : Statement (.hardQuiesce x0 x1) := fun _ h => nomatch (show none = some _ from h)
theorem restore (x0 : Nat) : Statement (.restore x0) := fun _ h => nomatch (show none = some _ from h)
theorem sliceStart (x0 : Nat) : Statement (.sliceStart x0) := fun _ h => nomatch (show none = some _ from h)
theorem hostSyswr (x0 : HostCmd) : Statement (.hostSyswr x0) := fun _ h => nomatch (show none = some _ from h)
theorem hostSysrd (x0 : HostCmd) : Statement (.hostSysrd x0) := fun _ h => nomatch (show none = some _ from h)
theorem hostRmapw (x0 : HostCmd) : Statement (.hostRmapw x0) := fun _ h => nomatch (show none = some _ from h)
theorem form (x0 : HostCmd) : Statement (.form x0) := fun _ h => nomatch (show none = some _ from h)
theorem start (x0 : HostCmd) : Statement (.start x0) := fun _ h => nomatch (show none = some _ from h)
theorem route (x0 : HostCmd) : Statement (.route x0) := fun _ h => nomatch (show none = some _ from h)
theorem resume (x0 : HostCmd) : Statement (.resume x0) := fun _ h => nomatch (show none = some _ from h)
theorem dissolve (x0 : HostCmd) : Statement (.dissolve x0) := fun _ h => nomatch (show none = some _ from h)
theorem mbpost (x0 : Nat) (x1 : Nat) : Statement (.mbpost x0 x1) := fun _ h => nomatch (show none = some _ from h)
theorem mbtake (x0 : Nat) (x1 : Nat) : Statement (.mbtake x0 x1) := fun _ h => nomatch (show none = some _ from h)
theorem hcevtClear (x0 : Nat) (x1 : Word) : Statement (.hcevtClear x0 x1) := fun _ h => nomatch (show none = some _ from h)
theorem hostWindowAccess (x0 : Nat) (x1 : Nat) (x2 : Nat) (x3 : HostOp) : Statement (.hostWindowAccess x0 x1 x2 x3) := fun _ h => nomatch (show none = some _ from h)
theorem powerGood (x0 : Nat) : Statement (.powerGood x0) := fun _ h => nomatch (show none = some _ from h)
theorem firmwareVerification (x0 : Nat) : Statement (.firmwareVerification x0) := fun _ h => nomatch (show none = some _ from h)
theorem selfCalibration (x0 : Nat) (x1 : List (BitVec 64)) : Statement (.selfCalibration x0 x1) := fun _ h => nomatch (show none = some _ from h)
theorem numbering (x0 : Nat) : Statement (.numbering x0) := fun _ h => nomatch (show none = some _ from h)
theorem memoryInitialisation (x0 : Nat) : Statement (.memoryInitialisation x0) := fun _ h => nomatch (show none = some _ from h)
theorem thermalEvaluation (x0 : Nat) (x1 : List Nat) (x2 : Nat) : Statement (.thermalEvaluation x0 x1 x2) := fun _ h => nomatch (show none = some _ from h)
theorem lifetimeWrite (x0 : Nat) : Statement (.lifetimeWrite x0) := fun _ h => nomatch (show none = some _ from h)
theorem winterRewrite (x0 : Nat) : Statement (.winterRewrite x0) := fun _ h => nomatch (show none = some _ from h)
theorem attestationRequest (x0 : Nat) (x1 : List Byte) : Statement (.attestationRequest x0 x1) := fun _ h => nomatch (show none = some _ from h)
theorem powerLoss (x0 : Nat) : Statement (.powerLoss x0) := fun _ h => nomatch (show none = some _ from h)
theorem ringOperation (x0 : Nat) : Statement (.ringOperation x0) := fun _ h => nomatch (show none = some _ from h)
theorem pacingIntervalExpiry (x0 : Nat) : Statement (.pacingIntervalExpiry x0) := fun _ h => nomatch (show none = some _ from h)

end WordBound

end Sys2Proof.Laws
end

