-- ==== Sys2Proof/Safety.lean ====
section
/-! DEFINITION. What counts as a safe run of the model. -/
namespace Sys2Proof

/-- A run is safe when no step stops with a fault or a refusal. -/
def SafeRun (s : Machine.State) : Nat → Prop
  | 0 => True
  | n + 1 => ∃ t, Machine.step s = .next t ∧ SafeRun t n

end Sys2Proof
end

