-- ==== Sys2Proof/Tests/Slice0.lean ====
section
/-! SUPPORT. The model's own tests: ill-formed terms, the words the spec writes out, one step on small states, and for each
statement with hypotheses a state and operands that meet them. -/
namespace Sys2Proof.Tests
set_option Elab.async false
open Sys2Proof Sys2Proof.Machine Sys2Proof.Claims

/-! ### Small states -/

/-- The control context of core 0 of partition 0. -/
def c00 : CtxId := { core := { part := 0, pkg := 0, vc := 0 }, slot := 0 }
/-- A helper of the same core. -/
def c01 : CtxId := { c00 with slot := 1 }
/-- The core beside it. -/
def core1 : CoreId := { part := 0, pkg := 0, vc := 1 }
/-- The base of the near window (R24). -/
def near : Word := 0x00FE000000000000
/-- A context at supervisor level. -/
def ctx0 : Ctx := { Ctx.blank c00.core 0 .control with pc := near, priv := .supervisor }
/-- A partition of two cores in its slice, with a handler. -/
def part0 : Part := { State.bootPart with active := { vcore := [(0, 0), (1, 1)], clu := [(0, 0)], pkg := [(0, 0)] }, tvec := near + 256 }
/-- The domain with that partition and one context. -/
def lone (x : Ctx) : State :=
  let s := State.reset.setPart 0 part0
  let s := (s.setCore c00.core Core.fresh).setCore core1 Core.fresh
  { s.setSlot c00 { Slot.empty with state := .held, ctx := some x } with cur := c00 }
/-- Its first cluster. -/
def clu0 : CluId := { part := 0, pkg := 0, clu := 0 }
/-- Nothing holds back a context that has nothing under way. -/
theorem ready_of {s : State} {x : Ctx} {rs : List Reg} (hw : x.windows = []) (ho : x.out = []) (hl : x.lat = [])
    (hb : ∀ r ∈ rs, x.binding r = none) : Ready s x rs :=
  ⟨⟨by simp [hw], by simp [ho], by simp [hl]⟩, hb⟩
/-- A context with nothing under way, in a domain with nothing in flight. -/
theorem quiet_of {s : State} {c : CtxId} {x : Ctx} (ho : x.out = []) (hm : x.moving = none) (hr : x.tried = []) (ht : x.task = none)
    (hq : (s.part c.core.part).tasks = []) (hn : s.net = []) (hh : s.homeWrites = []) : Quiet s c x :=
  ⟨ho, hm, hr, ht, hq, by simp [hn], by simp [hh]⟩
/-- Granted registers of a context with nothing under way. -/
theorem granted_of {s : State} {x : Ctx} {rs : List Nat} (hg : ∀ r ∈ rs, r < x.grant) (ho : x.out = []) (hl : x.vlat = []) : Granted s x rs :=
  ⟨hg, by simp [ho], by simp [hl]⟩
/-- The context with a register set. -/
def withReg (r : Reg) (v : Word) : Ctx := ctx0.setReg r v
/-- The state an answer leaves. -/
def after (o : Host.Outcome State Fault Refusal) : Option State := match o with | .next t => some t | _ => none
/-- The context of `c00` an instruction leaves. -/
def ctxAfter (i : Instr) (s : State) : Option Ctx := (after (exec i s)).bind fun t => t.ctx? c00
/-- A register after an instruction. -/
def regAfter (i : Instr) (s : State) (r : Reg) : Option Word := (ctxAfter i s).map fun y => y.reg r
/-- The PC after an instruction. -/
def pcAfter (i : Instr) (s : State) : Option Word := (ctxAfter i s).map fun y => y.pc

/-- A ready packet that tells `c00` or its home something. -/
def pkt0 (dst : Agent) (m : Msg) : Packet := { (default : Packet) with id := 7, src := .core c00.core, dst := dst, stage := .ready, msg := m }
/-- The domain with a packet in flight. -/
def netted (s : State) (k : Packet) : State := { s with net := [k], nextId := 8 }

/-! ### Ill-formed terms, one for each check -/

theorem test_illFormed_branches : Instr.wellFormed (.beq 5 5 1) = false ∧ Instr.wellFormed (.bne 4 4 1) = false ∧
    Instr.wellFormed (.beq 6 5 1) = false ∧ Instr.wellFormed (.bne 4 5 1) = false := by decide
theorem test_illFormed_offsets : Instr.wellFormed (.ld 3 4 .b 128 0) = false ∧ Instr.wellFormed (.st 3 4 .w 512) = false ∧
    Instr.wellFormed (.lds 3 4 .h 256 0) = false := by decide
theorem test_illFormed_lds : Instr.wellFormed (.lds 3 4 .d 0 0) = false := by decide
theorem test_illFormed_lookahead : Instr.wellFormed (.ld 0 4 .d 0 1) = false ∧ Instr.wellFormed (.ldx 0 4 5 .d 1) = false ∧
    Instr.wellFormed (.lda 0 4 5 .d .pkg 1) = false ∧ Instr.wellFormed (.acas 0 4 5 true 1) = false ∧
    Instr.wellFormed (.amin 0 4 5 .s true 1) = false ∧ Instr.wellFormed (.rmrg 0 1) = false ∧
    Instr.wellFormed (.racq 0 4 5 1) = false ∧ Instr.wellFormed (.ctxsv 0 4 5 1) = false ∧ Instr.wellFormed (.mbrd 0 4 1) = false := by
  decide
theorem test_illFormed_conversions : Instr.wellFormed (.fcvt 3 4 .s .s .rne) = false ∧ Instr.wellFormed (.fcvt 3 4 .ls .lz .rne) = false ∧
    Instr.wellFormed (.vcvt 1 2 .f32 .f32 .rne) = false ∧ Instr.wellFormed (.vcvt 1 2 .e5m2 .nx4 .rne) = false := by decide
theorem test_illFormed_vectorType : Instr.wellFormed (.vexp 1 2 .i32) = false ∧ Instr.wellFormed (.vrcp 1 2 .i8) = false ∧
    Instr.wellFormed (.vrsq 1 2 .i16) = false := by decide
theorem test_illFormed_kill : Instr.wellFormed (.hkill 3 0) = false := by decide
theorem test_illFormed_bstat : Instr.wellFormed (.bstat 24 4 1) = false := by decide
theorem test_illFormed_numbers : Instr.wellFormed (.sysrd 3 0x007) = false ∧ Instr.wellFormed (.syswr 0x400 3) = false := by decide

/-! ### Words the spec writes out -/

/-- The listing of 02_encoding.md. -/
theorem test_decode_listing :
    decode 0x05800060 = .ok (.or 12 0 0) ∧ decode 0x51A41001 = .ok (.ld 13 4 .d 0 1) ∧ decode 0x08A5FFFF = .ok (.addi 5 5 0xFFFF) ∧
    decode 0x058C6800 = .ok (.add 12 12 13) ∧ decode 0x08840008 = .ok (.addi 4 4 8) ∧ decode 0x44057FFC = .ok (.blt 0 5 0x7FFC) ∧
    decode 0x048C0060 = .ok (.or 4 12 0) ∧ decode 0x40210000 = .ok (.jmpr 0 1) := ⟨rfl, rfl, rfl, rfl, rfl, rfl, rfl, rfl⟩
/-- FMAD of the worked case of 04_scalar_issue.md, and a control instruction from the table of 02_encoding.md. -/
theorem test_decode_others : decode 0x748531FA = .ok (.fmad 4 5 6 7 .s .dyn) ∧
    decode 0b101100_01100_00100_00101_00000000000 = .ok (.hstart 12 4 5) := ⟨rfl, rfl⟩
theorem test_decode_scalar :
    decode 0x04A639C0 = .ok (.divs 5 6 7) ∧
    decode 0x04A603A1 = .ok (.exts 5 6 (.h)) ∧
    decode 0x04A63C03 = .ok (.idx 5 6 7 3) ∧
    decode 0x1080CDEF = .ok (.ori 4 0 0xcdef) ∧
    decode 0x2C8189AB = .ok (.lih 4 1 0x89ab) ∧
    decode 0x2C824567 = .ok (.lih 4 2 0x4567) ∧
    decode 0x2C830123 = .ok (.lih 4 3 0x0123) ∧
    decode 0x0880FFFE = .ok (.addi 4 0 0xfffe) ∧
    decode 0x2085003F = .ok (.srai 4 5 63) := by
  and_intros <;> rfl
theorem test_decode_task :
    decode 0xB58D7000 = .ok (.tenq 12 13 14) ∧
    decode 0xB5840040 = .ok (.tenqd 12 4) ∧
    decode 0xB4000100 = .ok (.tabort 0) ∧
    decode 0xB58D0140 = .ok (.tsrd 12 13) ∧
    decode 0xB4A00180 = .ok (.tgvt 5) ∧
    decode 0xB58001C0 = .ok (.tnest 12) ∧
    decode 0xB5800200 = .ok (.tleave 12) ∧
    decode 0xB4042A40 = .ok (.tdefer 4 5) := by
  and_intros <;> rfl
theorem test_decode_memory :
    decode 0x61842803 = .ok (.aadd 12 4 5 true 0) ∧
    decode 0x61842903 = .ok (.aadd 12 4 5 true 2) ∧
    decode 0x61842822 = .ok (.amin 12 4 5 (.s) false 0) ∧
    decode 0x6184283B = .ok (.acas 12 4 5 true 0) ∧
    decode 0x61842842 = .ok (.afadd 12 4 5 false 0) ∧
    decode 0x64042803 = .ok (.radd 4 5 true) ∧
    decode 0x65800028 = .ok (.rmrg 12 0) ∧
    decode 0x68000002 = .ok (.fence (.acq) (.clu)) ∧
    decode 0x68000044 = .ok (.fence (.rel) (.pkg)) ∧
    decode 0x680000C4 = .ok (.fence (.sc) (.pkg)) := by
  and_intros <;> rfl
theorem test_decode_translation :
    decode 0xD8042804 = .ok (.tlbinv 4 5 (.pkg)) ∧
    decode 0xD8000044 = .ok (.tlbsync (.pkg)) := by
  and_intros <;> rfl
theorem test_decode_vector :
    decode 0x80C34000 = .ok (.vgrant 12 13) ∧
    decode 0x88304200 = .ok (.vadd 3 1 2 (.f32)) ∧
    decode 0x88414632 = .ok (.vfma 4 5 6 (.bf16)) ∧
    decode 0x9070424B = .ok (.vcmp 7 1 2 (.lt) (.i32)) ∧
    decode 0x94204010 = .ok (.vcvt 2 1 (.bf16) (.f32) (.rne)) := by
  and_intros <;> rfl
theorem test_decode_stream :
    decode 0xA004C000 = .ok (.qbind 0 4) ∧
    decode 0xA004C808 = .ok (.qfib 1 4) ∧
    decode 0xA004C010 = .ok (.qisect 0 4) ∧
    decode 0xA004C018 = .ok (.qunion 0 4) ∧
    decode 0xA000D021 = .ok (.qnbr 2 (.east)) ∧
    decode 0xA000C028 = .ok (.qfree 0) ∧
    decode 0xA405C000 = .ok (.qskip 0 5) ∧
    decode 0xA580C008 = .ok (.qcrd 12 0 0) ∧
    decode 0xA580C010 = .ok (.qend 12 0 0) ∧
    decode 0xA585C018 = .ok (.qctl 12 0 5 0) ∧
    decode 0xA404C020 = .ok (.qsave 0 4) ∧
    decode 0xA404C028 = .ok (.qload 0 4) := by
  and_intros <;> rfl
theorem test_decode_check :
    decode 0xA9840000 = .ok (.fchk 12 4 0) ∧
    decode 0xA9840100 = .ok (.fchk 12 4 2) := by
  and_intros <;> rfl
theorem test_decode_matrix :
    decode 0xC1C00000 = .ok (.mxwait 14) ∧
    decode 0xC18D0040 = .ok (.mxstat 12 13) ∧
    decode 0xC1800080 = .ok (.mxspc 12) := by
  and_intros <;> rfl
theorem test_decode_engine :
    decode 0xC5840000 = .ok (.cpy 12 4) ∧
    decode 0xC5AC0040 = .ok (.cpywait 13 12) ∧
    decode 0xC5AC0080 = .ok (.cpyq 13 12) ∧
    decode 0xC58428C0 = .ok (.publ 12 4 5) ∧
    decode 0xC5840100 = .ok (.embg 12 4) ∧
    decode 0xC5840140 = .ok (.rmove 12 4) := by
  and_intros <;> rfl
theorem test_decode_ring :
    decode 0xC9842800 = .ok (.racq 12 4 5 0) ∧
    decode 0xC9846808 = .ok (.rcom 12 4 13 0) ∧
    decode 0xC9840010 = .ok (.rpeek 12 4 0) ∧
    decode 0xC9840014 = .ok (.rpeekTake 12 4 0) ∧
    decode 0xC9846818 = .ok (.rrel 12 4 13 0) ∧
    decode 0xC9CD6020 = .ok (.rdisp 14 13 12 0) := by
  and_intros <;> rfl
theorem test_decode_barrier :
    decode 0xD0040000 = .ok (.barr 4) ∧
    decode 0xD1800040 = .ok (.bwait 12) ∧
    decode 0xD1840080 = .ok (.bsync 12 4) ∧
    decode 0xD18428D0 = .ok (.bred 12 4 5 (.faddd)) ∧
    decode 0xD1842900 = .ok (.bset 12 4 5) := by
  and_intros <;> rfl
theorem test_decode_system :
    decode 0xD4000005 = .ok (.trap 0x005) ∧
    decode 0xD4002001 = .ok (.ebrk 0x001) ∧
    decode 0xD5CD3000 = .ok (.jrd 14 13) ∧
    decode 0xD5A04001 = .ok (.sysrd 13 0x001) ∧
    decode 0xD40C5005 = .ok (.syswr 0x005 12) := by
  and_intros <;> rfl
theorem test_decode_image :
    decode 0xDD842800 = .ok (.ctxsv 12 4 5 0) ∧
    decode 0xDD842808 = .ok (.ctxld 12 4 5 0) ∧
    decode 0xDD842810 = .ok (.rmapw 12 4 5 0) := by
  and_intros <;> rfl
theorem test_decode_mailbox :
    decode 0xDD840018 = .ok (.mbrd 12 4 0) ∧
    decode 0xDC040020 = .ok (.mbwr 4) := by
  and_intros <;> rfl

/-! ### One step on a small state, against the worked cases of the spec -/

/-- 04_scalar_issue.md: a division by zero gives all ones, the most negative by -1 itself. -/
theorem test_divs_corners : regAfter (.divs 3 4 5) (lone (withReg 4 7)) 3 = some (BitVec.allOnes 64) ∧
    regAfter (.divs 3 4 5) (lone ((withReg 4 0x8000000000000000).setReg 5 (BitVec.allOnes 64))) 3 = some 0x8000000000000000 := by decide +kernel
/-- 04_scalar_issue.md: INS .h of 0xABCD at 56 keeps the part that fits. -/
theorem test_ins_top : regAfter (.ins 3 4 5 .h) (lone ((withReg 4 0xABCD).setReg 5 56)) 3 = some 0xCD00000000000000 := by decide +kernel
/-- 04_scalar_issue.md: the single rounding of FMAD gives -2^-26. -/
theorem test_fmad_once : regAfter (.fmad 4 5 6 7 .s .dyn)
    (lone (((withReg 5 0x3F800400).setReg 6 0x3F7FF800).setReg 7 0xBF800000)) 4 = some 0xB2800000 := by decide +kernel
/-- 04_scalar_issue.md: FMUL rounds to 1.0 and raises NX. -/
theorem test_fmul_inexact : (ctxAfter (.fmul 12 5 6 .s .dyn) (lone ((withReg 5 0x3F800400).setReg 6 0x3F7FF800))).map
    (fun y => (y.reg 12, y.fflags)) = some (0x3F800000, 1#5) := by decide +kernel
/-- R201: a doubleword load at an odd address raises Alignment. -/
theorem test_load_misaligned : (ctxAfter (.ld 3 4 .d 0 0) (lone (withReg 4 (near + 1)))).map
    (fun y => (y.tcause, y.tval, y.pc)) = some (1, near + 1, near + 256) := by decide +kernel
/-- A placed word runs as the first instruction after reset: ORI s4, s0, 0xCDEF. -/
theorem test_first_step : ((after (step (State.reset.withFetchWord 32 0x1080CDEF))).bind fun t => t.ctx? c00).map
    (fun y => (y.reg 4, y.pc)) = some (0xCDEF, near + 4) := by decide +kernel

/-! ### For each statement with hypotheses, states and operands that meet them -/

theorem witness_integer : (lone ctx0).ctx? c00 = some ctx0 ∧ (∃ f, integerOp ctx0.pc (.add 3 4 5) = some ([4, 5], 3, f)) ∧
    Ready (lone ctx0) ctx0 [4, 5, 3] := ⟨rfl, ⟨_, rfl⟩, by unfold Ready Unheld; decide +kernel⟩
theorem witness_float : (lone ctx0).ctx? c00 = some ctx0 ∧ (∃ f, floatOp (.fadd 3 4 5 .s .rne) = some ([4, 5], 3, f)) ∧
    Ready (lone ctx0) ctx0 [4, 5, 3] := ⟨rfl, ⟨_, rfl⟩, by unfold Ready Unheld; decide +kernel⟩
theorem witness_divideUnit : ¬UnitHeld (lone ctx0) (.divs 3 4 5) ∧
    UnitHeld ((lone ctx0).modCore c00.core fun k => { k with divFree := 9 }) (.fsqrt 3 4 .d .rne) := by decide +kernel
theorem witness_branch : (lone ctx0).ctx? c00 = some ctx0 ∧ (∃ c, branchOp (.blt 4 5 3) = some (4, 5, 3, c)) ∧ Ready (lone ctx0) ctx0 [4, 5] :=
  ⟨rfl, ⟨_, rfl⟩, by unfold Ready Unheld; decide +kernel⟩
theorem witness_jumps : (lone ctx0).ctx? c00 = some ctx0 ∧ Ready (lone ctx0) ctx0 [4, 1] ∧ (ctx0.reg 4).toNat % 4 = 0 ∧
    Ready (lone (withReg 4 2)) (withReg 4 2) [4, 1] ∧ ((withReg 4 2).reg 4).toNat % 4 ≠ 0 :=
  ⟨rfl, by unfold Ready Unheld; decide +kernel, by decide +kernel, by unfold Ready Unheld; decide +kernel, by decide +kernel⟩
theorem witness_retiring : ((lone ctx0).slot c00).step = false ∧ ctx0.stepOne = false ∧
    (((lone ctx0).modSlot c00 fun l => { l with step := true }).slot c00).step = true := by decide +kernel
theorem witness_registerForms : ∃ t y, (lone ctx0).ctx? c00 = some ctx0 ∧ Ready (lone ctx0) ctx0 [4, 5, 3] ∧ exec (.add 3 4 5) (lone ctx0) = .next t ∧
    t.ctx? c00 = some y := ⟨_, _, rfl, by unfold Ready Unheld; decide +kernel, rfl, rfl⟩
/-- The first step after a word is placed. -/
def placed : State := State.reset.withFetchWord 32 0x1080CDEF
/-- Its agenda is empty once the issue is taken from it. -/
def placed0 : State := { placed with agenda := [] }
def ctxP : Ctx := { Ctx.blank c00.core 0 .control with pc := near, priv := .supervisor }
theorem witness_step : placed.agenda = [.issue c00.core] ∧ placed0.ctx? c00 = some ctxP ∧ Alone placed0 c00 ∧
    (placed0.core c00.core).group = [] ∧ placed0.readyCtx c00 = true ∧
    (offered placed0 c00 ctxP).canIssue c00 ctxP = true ∧ (offered placed0 c00 ctxP).overdue c00 ctxP = false ∧
    (offered placed0 c00 ctxP).asyncPending c00 ctxP = false ∧
    (match ({ offered placed0 c00 ctxP with cur := c00 }).fetch c00 ctxP with
      | .word w s' => decide (w = 0x1080CDEF) && (after (exec (.ori 4 0 0xCDEF) s')).isSome
      | _ => false) = true := by
  unfold Alone; decide +kernel
def inHandler : Ctx := { ctx0 with inh := true }
theorem witness_fault : TakesFault (lone ctx0) ctx0 ∧ (lone inHandler).ctx? c00 = some inHandler ∧ inHandler.inh = true ∧
    (lone inHandler).speculative 0 inHandler = false ∧ inHandler.resultsOut = false :=
  ⟨⟨rfl, by decide +kernel⟩, rfl, rfl, by decide +kernel, by decide +kernel⟩
/-- The context with BRKEN set. -/
def breakable : State := (lone ctx0).modSlot c00 fun l => { l with brken := true }
theorem witness_breakpoint : ((lone ctx0).slot c00).brken = false ∧ breakable.ctx? c00 = some ctx0 ∧
    breakable.speculative 0 ctx0 = false ∧ (breakable.slot c00).brken = true := ⟨by decide +kernel, rfl, by decide +kernel, by decide +kernel⟩
theorem witness_eret : (lone ctx0).ctx? c00 = some ctx0 ∧ ctx0.priv ≠ .program ∧ ((lone ctx0).slot c00).step = false ∧
    ctx0.epc.toNat % 4 = 0 ∧ (lone { ctx0 with epc := 2 }).ctx? c00 = some { ctx0 with epc := 2 } ∧
    ({ ctx0 with epc := 2 } : Ctx).epc.toNat % 4 ≠ 0 := ⟨rfl, by decide +kernel, by decide +kernel, by decide +kernel, rfl, by decide +kernel⟩

/-- A stream with one element buffered, bound to s24. -/
def stream0 : Stream := { Stream.fresh .patRead with buf := [.data 7 0 0 0 0] }
def streaming : Ctx := { ctx0 with streams := ctx0.streams.set 0 (some stream0) }
theorem witness_operands : (computeOp streaming.pc (.clz 3 24)).isSome ∧
    (match (operands (.clz 3 24) [24] (some 3)).run (start (lone streaming) streaming) with
      | .ok ((vs, p), e) => decide (vs = [7]) && decide (e.cx.pc = streaming.pc) && (match (putDest p 61).run e with | .ok _ => true | _ => false)
      | _ => false) = true := by decide +kernel
theorem witness_streamOperand : streaming.windows = [] ∧ streaming.out = [] ∧ streaming.binding 24 = some (0, stream0) ∧
    streaming.binding 3 = none ∧ stream0.kind ≠ .nbr ∧ stream0.kind ≠ .patWrite ∧ stream0.buf = [.data 7 0 0 0 0] := by decide +kernel

/-- A byte of the core's own store. -/
def ownLoc : Loc := { va := near.toNat, pa := 0x100000000000, home := .core c00.core, reader := .core c00.core, rah := false, repl := none, page := none, isLocal := true }
/-- The context with an address of the near window in s4. -/
def ctxA : Ctx := withReg 4 near
def atNear : State := lone ctxA
def nearForm : AccessForm :=
  { srcs := [4], dest := some 3, kind := .read, bytes := 8, va := (fun v => v.getD 0 0)
    op := (fun _ => .load 8) }
theorem located_near : Located (start atNear ctxA) nearForm [near] ownLoc atNear := by unfold Located; decide +kernel
theorem quiet_near : Quiet atNear c00 ctxA ∧ Stays ctxA c00.core ownLoc ∧ Settled atNear (.core c00.core) 0x100000000000 8 ∧
    Memory.wf atNear.mem = true ∧ atNear.holders c00.core 0x100000000000 8 = [] :=
  ⟨quiet_of rfl rfl rfl rfl rfl rfl rfl, by unfold Stays Settled Plain; decide +kernel⟩
theorem witness_load : (∃ f, accessForm (.ld 3 4 .d 0 0) = some f ∧ f.kind = .read ∧ f.dest = some 3 ∧ f.va [near] = near ∧ f.bytes = 8) ∧
    Ready atNear ctxA [4, 3] ∧ ownLoc.home = .core c00.core ∧ ownLoc.reader = ownLoc.home :=
  ⟨⟨_, rfl, rfl, rfl, by decide +kernel, rfl⟩, by unfold Ready Unheld; decide +kernel, rfl, rfl⟩
theorem witness_store : (∃ f, accessForm (.st 3 4 .d 0) = some f ∧ f.op [near, 0] = .store (toBytes 0 8) ∧ f.va [near, 0] = near) ∧
    Ready atNear ctxA [4, 3] := ⟨⟨_, rfl, rfl, by decide +kernel⟩, by unfold Ready Unheld; decide +kernel⟩
theorem witness_atomic : (∃ f, accessForm (.aadd 3 4 5 true 0) = some f ∧ f.op [near, 0] = .atomic .add 8 0 0 ∧ f.dest = some 3) ∧
    Ready atNear ctxA [4, 5, 3] := ⟨⟨_, rfl, rfl, rfl⟩, by unfold Ready Unheld; decide +kernel⟩
/-- A byte of the next core's store. -/
def farLoc : Loc := { va := 0x00FF000000100000, pa := 0x100000100000, home := .core core1, reader := .core core1, rah := false, repl := none, page := none, isLocal := true }
def ctxF : Ctx := withReg 4 0x00FF000000100000
theorem witness_remote : (lone ctxF).resolve c00.core (.data c00.core) (some (.ctx c00 0)) .read .supervisor 0x00FF000000100000 8 =
      (.ok farLoc, lone ctxF) ∧ farLoc.home ≠ .core c00.core ∧ (lone ctxF).l1Serves c00 ctxF farLoc 8 = false ∧
    (lone ctxF).buffersHeld c00 ctxF < 128 ∧ (lone ctxF).unanswered c00 ctxF farLoc.home < 63 := by
  decide +kernel
/-- A context that may migrate, over its threshold at the second access. -/
def ctxM : Ctx := { Ctx.blank c00.core 1 .held with thresh := 1, remHome := some (0, 1), remCount := 1 }
theorem witness_misaligned : ((near + 1).toNat % 8 ≠ 0) ∧ ctxA.task = none := by decide +kernel
theorem witness_overThresh : ctxM.movable = true ∧ ctxM.moving = none ∧ farLoc.homeCore = some core1 ∧ core1 ≠ c00.core ∧
    ctxM.thresh ≠ 0 ∧ ctxM.thresh < (ctxM.countRemote c00.core farLoc.home).2 := by decide +kernel
theorem witness_fences : (lone ctx0).nbrLanded c00.core = true ∧ (∀ a ∈ ctx0.out, a.storeLike = false) ∧
    (∃ a : Access, a.storeLike = true) := ⟨by decide +kernel, by decide +kernel, { (default : Access) with storeLike := true }, rfl⟩
theorem witness_cache : (atNear.resolve c00.core (.data c00.core) (some (.ctx c00 0)) .none_ .supervisor near.toNat 1) = (.ok ownLoc, atNear) ∧
    ctxA.busyAt ownLoc.home = false ∧ Ready atNear ctxA [4] :=
  ⟨by decide +kernel, by decide +kernel, by unfold Ready Unheld; decide +kernel⟩
theorem witness_posted : (postedForm (.stp 3 4 5 .d)).isSome = true ∧ (postedForm (.rmin 4 5 .z true)).isSome = true ∧
    (atNear.core c00.core).freeEntry = some 0 ∧ atNear.unanswered c00 ctxA ownLoc.home < 63 ∧ (rlogForm 4 5 true).va [near] = near ∧
    (∃ g n, Home.llc g n ≠ .core core1) := by
  refine ⟨rfl, rfl, by decide +kernel, by decide +kernel, rfl, 0, 0, by decide +kernel⟩
theorem witness_merge : Quiet (lone ctx0) c00 ctx0 ∧ Ready (lone ctx0) ctx0 [12] ∧ ((lone ctx0).core c00.core).logCount = 0 ∧
    sortBy LogRec.le (((lone ctx0).logRecs c00.core 0).filterMap id) = [] := by
  exact ⟨quiet_of rfl rfl rfl rfl rfl rfl rfl, ready_of rfl rfl rfl (by decide +kernel), by decide +kernel⟩

/-! #### Vectors and streams -/

/-- A context with 8 vector registers. -/
def ctxV : Ctx := { ctxA with grant := 8 }
theorem witness_vector : (lone ctxV).ctx? c00 = some ctxV ∧ (vectorOp (.vadd 3 1 2 .f32)).isSome = true ∧ Granted (lone ctxV) ctxV [1, 2, 3, 7] := by
  exact ⟨rfl, rfl, granted_of (by decide +kernel) rfl rfl⟩
theorem witness_vectorMoves : Ready (lone ctxV) ctxV [4, 5, 3] ∧ ctxV.grant ≤ 64 ∧
    Granted (lone ctxV) ctxV ([1] ++ [] ++ [2] ++ []) ∧ Granted (lone ctxV) ctxV [2, 3, 3 + (ctxV.reg 5).toNat] := by
  exact ⟨ready_of rfl rfl rfl (by decide +kernel), by decide, granted_of (by decide +kernel) rfl rfl, granted_of (by decide +kernel) rfl rfl⟩
/-- A load under way to v1. -/
def loading : Access := { (default : Access) with dest := .vec 1 0, loadLike := true }
theorem witness_vectorGrant : (∃ r ∈ [(1 : VReg), 8], ctxV.grant ≤ r.val) ∧
    (∃ a ∈ [loading], ∃ r ∈ [(1 : VReg)], ∃ off, a.dest = .vec r.val off) ∧ Ready (lone ctxV) ctxV [4, 3] ∧ ctxV.out = [] ∧ ctxV.grant < 64 ∧
    (64 - ctxV.grant) / 8 ≤ (lone ctxV).vfree c00 ctxV - 0 ∧ ¬(9 % 8 = 0 ∧ 9 ≤ 64) ∧ 0 < ctxV.grant := by
  refine ⟨⟨8, by decide, by decide⟩, ⟨loading, by decide, 1, by decide, 0, rfl⟩, by unfold Ready Unheld; decide +kernel, by decide +kernel⟩
theorem witness_vectorAccess : Quiet (lone ctxV) c00 ctxV ∧ Ready (lone ctxV) ctxV [4, 5] ∧ (ctxV.reg 4 + ctxV.reg 5).toNat % 4 = 0 ∧
    InOwnMemory (lone ctxV) near.toNat 0 64 ∧ Settled (lone ctxV) (.core c00.core) ((lone ctxV).storePa c00.core 0) 64 ∧ ctxV.swst = false := by
  exact ⟨quiet_of rfl rfl rfl rfl rfl rfl rfl, ready_of rfl rfl rfl (by decide +kernel), by unfold InOwnMemory Settled Plain; decide +kernel⟩
/-- A context whose vector address is in the next core's store, whose windows let it in. -/
def ctxW : Ctx := { ctxF with grant := 8 }
def open1 : State := (lone ctxW).modCore core1 fun k => { k with win := (k.win.set 0 0xF000000000000000).set 1 0xF0001FFF00000000 |>.set 2 0xF00000001FFF0000 }
def farPiece (va : Nat) : Loc := { farLoc with va := va, pa := va - 0x00FF000000000000 + 0x100000000000 }
theorem witness_vectorElsewhere : Quiet open1 c00 ctxW ∧ Elsewhere open1 ctxW .read [(0x00FF000000100000, 0, 64)] farPiece ∧
    (ctxW.reg 4 + ctxW.reg 5).toNat ≠ 0x00FE000000100000 := by
  refine ⟨quiet_of rfl rfl rfl rfl rfl rfl rfl, ⟨?_, by decide +kernel, by decide +kernel⟩, by decide +kernel⟩
  intro p hp
  cases hp with
  | head => exact ⟨by decide +kernel, by decide +kernel, by decide +kernel, by decide +kernel, fun _ => by decide +kernel⟩
  | tail _ h => cases h

/-- A descriptor whose reserved bytes are not zero. -/
def badDesc : State := { atNear with mem := (List.range 64).map fun i => (0x100000000000 + i, 0xFF) }
theorem witness_badDescriptor :
    (match (ctxRead c00 ctxA false near.toNat 64).run.run badDesc with
      | .ok (.ok b, _) => (patternOf b).isNone
      | _ => false) = true := by decide +kernel
theorem witness_streams : (lone ctxA).ctx? c00 = some ctxA ∧ Ready atNear ctxA [4] ∧ Unheld atNear ctxA [streamReg 0] ∧ near.toNat % 64 = 0 ∧
    (match (ctxRead c00 ctxA false near.toNat 64).run.run atNear with
      | .ok (.ok b, u) => (patternOf b).isSome && decide (u.cur = c00)
      | _ => false) = true ∧ RoomFor atNear ctxA 0 .patRead ∧ RoomFor atNear ctxA 0 .isect := by
  unfold Ready Unheld RoomFor
  exact ⟨rfl, by decide +kernel, by decide +kernel, by decide +kernel, by decide +kernel, by decide +kernel, by decide +kernel⟩
theorem witness_neighbour : ctxA.task = none ∧ (∃ d n, (lone ctxA).neighbour c00.core d = some n) ∧ RoomFor atNear ctxA 0 .nbr := by
  unfold RoomFor; exact ⟨rfl, ⟨.east, core1, by decide +kernel⟩, by decide +kernel⟩
theorem witness_setStream : (∀ p, ctxA.streams.get p = none) ∧ ctxA.binding 3 = none := by decide +kernel
theorem witness_streamAnswers : ctxA.windows = [] ∧ ctxA.out = [] ∧ ctxA.binding 12 = none ∧ ctxA.streams.get 0 = none ∧
    streaming.streams.get 0 = some stream0 ∧ stream0.kind ≠ .patWrite ∧ stream0.buf = [SElem.data 7 0 0 0 0] := by decide +kernel
theorem witness_streamImages : Quiet atNear c00 ctxA ∧ InOwnMemory atNear near.toNat 0 64 ∧
    (match (ctxRead c00 ctxA false near.toNat 64).run.run atNear with
      | .ok (.ok b, _) => imageOk b && decide ((b.headD 0).toNat % 16 = 0)
      | _ => false) = true :=
  ⟨quiet_of rfl rfl rfl rfl rfl rfl rfl, by unfold InOwnMemory; decide +kernel⟩

/-! #### Helpers, migration and tasks -/

/-- Operands of HSTART: slot 1 and a block in local memory. -/
def ctxH : Ctx := ((withReg 4 1).setReg 5 near)
theorem witness_helperStart : Ready (lone ctxH) ctxH [4, 5, 12] ∧ ctxH.out = [] ∧ c00.slot = 0 ∧ (ctxH.reg 4).toNat = 1 ∧ (ctxH.reg 5).toNat % 64 = 0 ∧
    (match (ctxRead c00 ctxH false near.toNat 64).run.run (lone ctxH) with
      | .ok (.ok b, u) => decide (u.cur = c00) && decide (dword b 0 % 4 = 0) && decide ((u.slot c01).state = .free) && u.nbrLanded c00.core
      | _ => false) = true := by unfold Ready Unheld; decide +kernel
/-- A held helper in slot 1. -/
def helper1 : Ctx := Ctx.blank c00.core 1 .held
def withHelper (x : Ctx) : State := (lone x).setSlot c01 { Slot.empty with state := .held, ctx := some helper1 }
/-- The helper running. -/
def inHelper (y : Ctx) : State := { (lone ctx0).setSlot c01 { Slot.empty with state := .held, ctx := some y } with cur := c01 }
theorem witness_helpers : ((withHelper ctxH).slot c01).state = .held ∧ (withHelper ctxH).stopping c01 = false ∧
    ((lone ctxH).slot c01).ctx = none ∧ ((lone ctxH).slot c01).state = .free ∧ 10 < ((withReg 4 11).reg 4).toNat ∧
    (withReg 4 0x7FE).reg 4 &&& ~~~(0x7FE#64) = 0 ∧ c01.slot ≠ 0 ∧ helper1.kind = .held ∧
    (inHelper helper1).ctx? c01 = some helper1 ∧ Ready (inHelper helper1) helper1 [5] := by unfold Ready Unheld; decide +kernel
theorem witness_contexts : Ready (lone ctx0) ctx0 [4, 12] ∧ ctx0.kind ≠ .lent ∧ ctx0.parkDone = none ∧ ctx0.wakep = false ∧ ctx0.task = none ∧
    (ctx0.reg 4).toNat % 2 ^ 21 = ctx0.origin ∧ (0x11 : Nat) % 2 ^ 21 ≠ ctx0.origin ∧ (lone ctx0).hasCore core1 = true ∧
    10 < (0xB : Nat) % 16 := by unfold Ready Unheld; decide +kernel
/-- A movable helper with the next core's store in s4. -/
def mover : Ctx := helper1.setReg 4 0x00FF000000100000
theorem witness_migrate : (inHelper mover).ctx? c01 = some mover ∧ Ready (inHelper mover) mover [4, 12] ∧ mover.moving = none ∧ mover.movable = true ∧
    farLoc.homeCore = some core1 ∧ core1 ≠ c01.core ∧ ownLoc.homeCore = some c00.core ∧ ctx0.light = false ∧
    ({ helper1 with pin := true } : Ctx).pin = true := by unfold Ready Unheld; decide +kernel
theorem witness_migrate_place : (inHelper (mover.setReg 4 near)).resolve c00.core (.data c00.core) (some (.ctx c01 0)) .none_ .program
    near.toNat 1 = (.ok ownLoc, inHelper (mover.setReg 4 near)) := by decide +kernel
/-- A partition with a task, which `c00` runs. -/
def task0 : Task :=
  { id := 1, chain := [5], tagNs := 0, tagPkg := 0, tagVc := 0, tagSlot := 0, tagOrd := 0, pc := near, hint := 0, args := [0, 0, 0, 0]
    clu := { part := 0, pkg := 0, clu := 0 }, target := none, key := none, readyAt := 0, parent := none, st := .running
    dispatched := true, settled := false, place := some c00, edepth := 1, rfilter := 0, wfilter := 0, undo := [], logged := []
    unlogged := false, logWait := false, ovf := 0, asked := false, aborting := none, waitedOp := false, actions := [] }
def ctxT : Ctx := { ctxA with kind := .lent, priv := .program, task := some 1 }
def tasked (t : Task) : State := (lone ctxT).modPart 0 fun q => { q with tasks := [t], tcfg := { q.tcfg with pool := 4 } }
theorem witness_enqueue : Unheld atNear ctxA [4, 5, 6, 7, 8] ∧ CanEnqueue (tasked task0) ctxT ∧ CanEnqueue (lone ctxA) ctxA ∧
    (ctxA.reg 4).toNat % 4 = 0 ∧ enqFloor ((tasked task0).part 0) (some task0) = 5 ∧
    ((tasked task0).part 0).tasks.length ≠ ((tasked task0).part 0).tcfg.pool ∧
    ((lone ctxA).part 0).tasks.length = ((lone ctxA).part 0).tcfg.pool := by
  unfold Unheld CanEnqueue; decide +kernel
theorem witness_hint : (match (hintCore 0x00FF000000100000).run (start (lone ctxA) ctxA) with
    | .ok (h, e) => decide (h = core1) && decide (e.st = lone ctxA) && decide (e.cx = ctxA)
    | _ => false) = true := by decide +kernel
theorem witness_taskEnds : taskOf (tasked task0) ctxT = some task0 ∧ (tasked task0).quiet c00 ctxT = true ∧
    (((tasked task0).part 0).commitEntries task0.clu).length < 512 ∧ taskOf (lone ctxA) ctxA = none ∧
    taskOf (tasked { task0 with settled := true, unlogged := true }) ctxT = some { task0 with settled := true, unlogged := true } := by
  decide +kernel
theorem witness_commit : (tasked task0).task? 0 (some 1) = some task0 := rfl
theorem witness_taskState : Ready (tasked task0) ctxT [4, 5, 12] ∧ task0.edepth < 8 ∧ task0.edepth ≤ task0.chain.length ∧ ¬(1 < task0.edepth) ∧
    1 < ({ task0 with edepth := 2 } : Task).edepth ∧ task0.chain.length ≤ ({ task0 with edepth := 2 } : Task).edepth ∧
    near.toNat % 8 = 0 ∧ task0.actions.length < 8 := by unfold Ready Unheld; decide +kernel

/-! #### The matrix unit, engines and rings -/

theorem witness_matrixPush : near + 0x100000 = 0x00FE000000100000 ∧ ctxV.mxOut = 0 ∧ ctxV.out = [] ∧
    ((lone ctxV).core c00.core).mxq.length < 16 ∧ (lone ctxV).nbrLanded c00.core = true ∧ Ready (lone ctxV) ctxV [4, 5, 12] ∧
    2 ≤ ((withReg 4 2).reg 4).toNat ∧ (withReg 4 1).reg 4 = 1 ∧ ctxV.reg 5 = 0 := by unfold Ready Unheld; decide +kernel
/-- A command of the first slot, owned: its first three doublewords. -/
def command (w0 w1 w2 : Nat) : MxCmd :=
  { slot := 0, bytes := toBytes w0 8 ++ toBytes w1 8 ++ toBytes w2 8 ++ toBytes 0 40, owned := true, frm := 0, srkey := 0, pushed := 0
    stores := [] }
def ring0 : MRing := { defd := true, fill := 2, head := 0, count := 4, slot := 16, base := 0x4000 }
def queued (q : MxCmd) : State := (lone ctx0).modCore c00.core fun k =>
  { k with mxq := [q], rings := (k.rings.set 1 ring0).set 2 { ring0 with base := 0x8000 } }
theorem witness_matrixHeads : HeadIs (queued (command 0x102 0 0)) c00.core (command 0x102 0 0) [] .accz ∧
    HeadIs (queued (command 0x103 0x4040 0)) c00.core (command 0x103 0x4040 0) [] .accld ∧
    HeadIs (queued (command 0x104 0x4040 0)) c00.core (command 0x104 0x4040 0) [] .accst ∧
    HeadIs (queued (command 0x3005 0x400 0x400000080)) c00.core (command 0x3005 0x400 0x400000080) [] .define ∧
    HeadIs (queued (command 0x11005 1 0)) c00.core (command 0x11005 1 0) [] .append ∧
    HeadIs (queued (command 6 0x4048 7)) c00.core (command 6 0x4048 7) [] .qfence ∧
    HeadIs (queued (command 0x121101 0 0)) c00.core (command 0x121101 0 0) [] .mma := by unfold HeadIs; decide +kernel
theorem witness_matrixRanges : RangeFree (queued (command 0x121101 0 0)) c00.core 0x4040 1024 ∧
    RangeFree (queued (command 0x121101 0 0)) c00.core 0x4000 1024 ∧ RangeFree (queued (command 0x121101 0 0)) c00.core 0x8000 1024 ∧
    (queued (command 6 0 0)).ringLocal c00.core ring0 = true ∧ fmtOfNat 0 = some .f32 ∧
    (mxFmt 0 = some .f32 ∧ pairOk .f32 .f32 = true ∧ slotLeast .f32 ≤ ring0.slot * 64) := by unfold RangeFree; decide +kernel
theorem witness_matrixRefused : (command 0 0 0).kind = none ∧ (command 0xF2 0 0).fieldsOk .accz = false ∧
    ({ command 0x102 0 0 with owned := false } : MxCmd).owned = false := by decide +kernel
theorem witness_status : Ready atNear ctxA [4, 12] ∧ (∀ e ∈ ctxA.jobs, ¬(fld e.status 62 2 = 0)) ∧
    (∃ e ∈ [({ tag := 1, status := 0 } : JobEntry)], fld e.status 62 2 = 0 ∧ e.tag = 1) := by
  refine ⟨by unfold Ready Unheld; decide +kernel, by decide +kernel, { tag := 1, status := 0 }, by decide +kernel⟩
theorem witness_publish : (lone ctxA).speculative 0 ctxA = false ∧ (tasked task0).speculative 0 ctxT = true ∧
    1 ≤ fld (1 : Word) 0 13 ∧ (1 : Word) &&& ~~~(0x71FFF#64) = 0 ∧ (ctxA.reg 4).toNat % 524288 = 0 ∧ ctxA.publ = none ∧ ctxA.out = [] := by
  decide +kernel
theorem witness_jobAccepted : (jobForm (.cpy 12 4)).isSome = true ∧ (jobForm (.rmove 12 4)).isSome = true ∧ Ready atNear ctxA [4, 12] ∧
    JobRoom (lone ctxA) ∧ (match (readRecordAt near.toNat 256).run (start (lone ctxA) ctxA) with
      | .ok (b, e) => decide (e.cx = ctxA) && decide (e.st.cur = c00) && e.st.jobs.isEmpty && e.st.nbrLanded c00.core && decide (dword b 11 % 8 = 0)
      | _ => false) = true := by unfold Ready Unheld JobRoom; decide +kernel
/-- A job of `c00` that copies nothing. -/
def job0 : Job :=
  { id := 3, tag := 1, issuer := c00, pkg := 0, engine := 0, kind := .copy, priv := .supervisor, task := none, recVa := near.toNat
    recBytes := List.replicate 256 0, mode := 0, srkey := 0, seqJob := true, compl := 0, started := false, worked := false, pos := 0
    flags := 0, count := 0, fault := none, pages := [], touched := [], publish := none, old := none, frec := none, note := []
    accNo := 0, reads := [], out := [], sent := [], after := none, told := false }
def working (j : Job) : State := { lone ctxA with jobs := [j] }
theorem witness_jobs : (working job0).jobs.find? (fun k => k.id == 3) = some job0 ∧ ((working job0).part 0).live = true ∧
    job0.started = false ∧ (∀ k ∈ (working job0).jobs, k.issuer = job0.issuer → job0.tag ≤ k.tag) ∧
    (jobStep (.copyJob 3 1)).isSome = true ∧ (working job0).jobLive job0 = true ∧
    (match ((working job0).part 0).takeFrames job0.task job0.pages with | .ok _ => true | .error _ => false) = true ∧
    job0.compl = 0 ∧ job0.publish = none := by decide +kernel
/-- The job running; and one write to the next core's store, of a piece that has ended. -/
def running (j : Job) : State := working { j with started := true }
theorem witness_jobWork : (match (copyWork 1 { job0 with started := true }).run.run { st := running job0, ix := 0, out := [], acc := 0 } with
      | .ok (.ok _, _) => true
      | .ok (.error _, _) => true
      | _ => false) = true ∧ ({ job0 with worked := true } : Job).worked = true ∧ (running job0).toFill { job0 with started := true } = none ∧
    (lone ctxA).resolve c00.core (.data c00.core) (some (.job 3)) .write .supervisor near.toNat 8 = (.ok ownLoc, lone ctxA) := by decide +kernel
/-- A masked write above the local memory of `c00`'s own core, as laid out, refused as a log record, and refused otherwise. -/
def write1 (cause : Option Nat) : JobWrite :=
  { no := 1, va := 0x00FE0000000FFF00, op := .masked (List.replicate 8 none), counted := false, home := none, cause := cause }
def ended : JobAfter := { (default : JobAfter) with worked := true }
def ending (out sent : List JobWrite) : Job := { job0 with started := true, after := some ended, out := out, sent := sent }
theorem witness_jobEnds : (ending [] [write1 none]).sent ≠ [] ∧ (∀ v ∈ (ending [] [write1 (some 0x17)]).sent, v.cause = some 0x17) ∧
    (write1 (some 6)).cause = some 6 ∧ (6 : Nat) ≠ 0x17 ∧ (ending [] []).sent = [] ∧
    (running (ending [] [])).jobLive (ending [] []) = true ∧ (ending [] []).publish = none := by decide +kernel
theorem witness_jobSends : (ending [write1 none] []).out = [write1 none] ∧ (running (ending [write1 none] [])).shadowAt (ending [write1 none] []) (write1 none) = none ∧
    (match (running (ending [write1 none] [])).jobLoc (ending [write1 none] []) .data .write (write1 none).base 8 with
      | (.ok l, u) => !l.isLocal && u.canSend (.engine 0 0) l.home.agent 1 && decide (u.jobs = (running (ending [write1 none] [])).jobs)
      | _ => false) = true := by decide +kernel
/-- A publish of one page. -/
def publish0 : Publish := { id := 9, part := 0, names := [2], owner := none, core := c00.core, scope := .core, sent := false, vas := [0] }
def publishing : State := { (lone ctxA).modPart 0 fun q => { q with shadows := [{ name := 2, vas := [0], frame := 1, owner := none, filled := 512 }] } with
  publishes := [publish0] }
theorem witness_swap : publishing.publishes.find? (fun k => k.id == 9) = some publish0 ∧ publishing.stillWriting publish0 = false ∧
    ((publishing.part 0).shadows.filter fun h => h.owner == none && publish0.names.contains h.name) ≠ [] := by decide +kernel
/-- A handle of ring 1 of the own cluster. -/
def ctxR : Ctx := withReg 4 1
theorem witness_ringAsk : (ringForm (.racq 12 4 5 0)).isSome = true ∧ (ringForm (.rrel 12 4 5 0)).isSome = true ∧ Ready (lone ctxR) ctxR [4, 5, 12] ∧
    ctxR.task = none ∧ (ctxR.reg 4).toNat / 2 ^ 20 = 0 ∧ (lone ctxR).hasClu { part := 0, pkg := 0, clu := 0 } = true ∧
    (lone ctxR).hasClu { part := 0, pkg := 0, clu := 255 } = false ∧ ctxR.out = [] ∧ (lone ctxR).buffersHeld c00 ctxR < 128 := by
  unfold Ready Unheld; decide +kernel
/-- A ring block in local memory and a request that has reached its unit. -/
def blk0 : RingBlk := { (default : RingBlk) with base := near.toNat, slotsz := 64, count := 4 }
def asking (op : RingOp) : State := ((lone ctxR).setBlock clu0 1 blk0).send 0 0 (.ring clu0) (.ring clu0) 0 (.ringReq c00 0 1 clu0 op)
theorem witness_ringUnit : ((asking (.acq 64)).deliverable 1).map (·.msg) = some (.ringReq c00 0 1 clu0 (.acq 64)) ∧
    (asking (.acq 64)).ctx? c00 = some ctxR ∧ amGet? ((asking (.acq 64)).cluster clu0).blocks 1 = some blk0 ∧ (65 : Nat) > blk0.slotsz ∧
    (match (readSide { core := c00.core, priv := .supervisor, late := false, id := 1 } blk0 blk0.tail).run (asking (.acq 64)) with
      | .ok (e, w) => decide (e.tag = 0) && (match (writeSide { core := c00.core, priv := .supervisor, late := false, id := 1 } blk0 0 { tag := 1, exp := 64, got := 0 }).run w with
        | .ok _ => true | _ => false)
      | _ => false) = true := by decide +kernel
/-- The image of a block that keeps the limits, and one that does not. -/
theorem witness_ringBlocks : (blockOf 1 (RingBlk.image { blk0 with base := 64 })).isSome = true ∧ blockOf 1 (List.replicate 64 0) = none ∧
    (match (ctxRead c00 ctxR false near.toNat 64).run.run { lone ctxR with cur := c00 } with | .ok (.ok _, w) => decide (w.cur = c00) | _ => false) = true ∧
    Quiet (lone ctxR) c00 ctxR ∧ (lone ctxR).refused c00.core (.core c00.core) .wr 0x100000000000 64 = false ∧
    (lone ctxR).speculative 0 ctxR = false :=
  ⟨by decide +kernel, by decide +kernel, by decide +kernel, quiet_of rfl rfl rfl rfl rfl rfl rfl, by decide +kernel⟩

/-! #### Barriers, system registers, images and mailboxes -/

/-- A barrier of which the cluster is a member by one, with a context arrived. -/
def bar0 : Barrier := { Barrier.fresh with counts := [(clu0.key, 1)] }
def barred (x : Ctx) : State := (lone x).modPart 0 fun q => { q with barriers := q.barriers.set 0 bar0 }
theorem witness_barriers : Ready (lone ctx0) ctx0 [4, 5, 12] ∧ ctx0.task = none ∧ ctx0.barPend = false ∧ ctx0.mixed = false ∧ ctx0.out = [] ∧
    (barred ctx0).nbrLanded c00.core = true ∧ (((barred ctx0).part 0).barriers.get (Fin.ofNat 32 0)).count clu0.key ≠ 0 ∧
    (((lone ctx0).part 0).barriers.get (Fin.ofNat 32 0)).count clu0.key = 0 ∧ 31 < ((withReg 4 32).reg 4).toNat ∧
    ctx0.waitBar ≠ some ctx0.pc ∧ ({ ctx0 with waitBar := some near } : Ctx).waitBar = some near ∧ ctx0.resultsOut = false ∧
    (Barrier.fresh.counts.map (·.1)).Pairwise (· < ·) ∧ amGet [] bar0.arrived clu0.key = [] ∧ (88 : Nat) ≤ 88 := by
  unfold Ready Unheld; decide +kernel
/-- An arrival on its way. -/
def arriving (b : Barrier) : State :=
  ((lone { ctx0 with barPend := true, barId := 7 }).modPart 0 fun q => { q with barriers := q.barriers.set 0 b }).send 0 0 (.core c00.core)
    (.barrier clu0) 0 (.arrive clu0 0 7 c00 none 0)
theorem witness_barrierEvents : ((arriving bar0).pkt? 1).map (·.msg) = some (.arrive clu0 0 7 c00 none 0) ∧
    ({ bar0 with held := amSet bar0.held clu0.key [⟨7, 0, c00, none, 0⟩] } : Barrier).countHeld.complete = true ∧
    ({ bar0 with counts := [(clu0.key, 2)], held := [(clu0.key, [⟨7, 0, c00, none, 0⟩])] } : Barrier).countHeld.complete = false ∧
    ({ ({ bar0 with held := [(clu0.key, [⟨7, 0, c00, none, 0⟩])] } : Barrier).countHeld with gen := 1, arrived := [] } : Barrier).countHeld.complete = false ∧
    (∃ x : Ctx, x.released = some none) := by
  refine ⟨by decide +kernel, by decide +kernel, by decide +kernel, by decide +kernel, { ctx0 with released := some none }, rfl⟩
def failed : State := (lone ctx0).modCore c00.core fun k => { k with journal := k.journal.set 0 { (default : JEntry) with state := 2 } }
theorem witness_traps : failed.asyncReady c00 ctx0 = true ∧ ((failed.core c00.core).journal.get 0).state = 2 ∧
    ((lone ctx0).modCluster clu0 fun k => { k with unitTrap := some (5, 64) }).unitPending c00 = some (5, 64) ∧
    (lone ctx0).unitCore clu0 = c00.core ∧ failed.asyncReady c00 inHandler = false := by decide +kernel
theorem witness_system : Ready (lone ctx0) ctx0 [4, 12] ∧ (ctx0.reg 4).toNat < 512 ∧ ctx0.reg 4 / 64 % 4 ≠ 3 ∧ c00.slot = 0 ∧ (ctxA.reg 4).toNat % 8 = 0 ∧
    sysOfNat 0x007 = none ∧ sysOfNat 0x300 = some .tvec ∧ SysReg.tvec.writeLevel = some .sup ∧ plainShared .tvec ∧ SysReg.tcause.held = .context ∧
    sysOfNat 0x114 = some .dbgdat ∧ SysReg.gsmark.writeLevel = some .fw ∧ SysReg.rlseq.writeLevel = some .ctl ∧ c01.slot ≠ 0 := by
  unfold Ready Unheld plainShared; decide +kernel
theorem witness_statusBranch : atNear.resolve c00.core (.data c00.core) (some (.ctx c00 0)) .read .supervisor near.toNat 8 = (.ok ownLoc, atNear) ∧
    ctxA.moving = none ∧ Stays ctxA c00.core ownLoc ∧
    (match (ctxRead c00 (counted ctxA c00.core ownLoc) false near.toNat 8).run.run atNear with | .ok (.ok _, _) => true | _ => false) = true := by
  unfold Stays; decide +kernel
theorem witness_registerEvents : (∀ k ∈ (lone ctx0).cores, (coreOfKey k.1).part = 0 → k.2.logCount = 0) ∧ ((lone ctx0).part 0).phase = .inSlice ∧
    (State.reset.part 0).phase ≠ .inSlice ∧ ((lone ctx0).part 0).shadows = [] ∧ (publishing.part 0).shadows ≠ [] ∧
    (∀ j ∈ (lone ctx0).jobs, j.issuer.core.part ≠ 0) ∧ (lone ctx0).logCore c00.core < 2048 ∧ ((lone ctx0).slot c00).halted = false ∧
    (((lone ctx0).halt c00 3).slot c00).halted = true := by decide +kernel
/-- A debugger's message that has reached its core. -/
def debugged : State := ((lone ctx0).halt c00 3).send 0 0 (.core c00.core) (.core c00.core) 0 (.dbg c01 5 c00 0x1004 (some 9))
theorem witness_debugger : (debugged.deliverable 1).map (·.msg) = some (.dbg c01 5 c00 0x1004 (some 9)) ∧ (debugged.ctx? c00).isSome = true := by
  decide +kernel
theorem witness_invalidations : Ready (lone ctx0) ctx0 [4, 5] ∧ ctx0.priv ≠ .program ∧ ctx0.out = [] ∧ (0 : Nat) / 2 ^ 37 % 2 ^ 9 = 0 ∧
    ¬((2 ^ 47 : Nat) / 2 ^ 46 % 4 < 2 ∧ 2 ^ 47 % 2 ^ 37 = 0) ∧ ((lone ctx0).invals.filter fun k => k.core == some c00.core).length < 4 ∧
    (∀ n ∈ ctx0.trackers, ∀ k ∈ (lone ctx0).invals, k.id ≠ n) := by unfold Ready Unheld; decide +kernel
/-- An invalidation sent to one agent. -/
def inval0 (st : InvStage) : Inval :=
  { id := 4, part := 0, mode := 2, asid := 0, lo := 0, hi := 1, pages := [], agents := [(.core c00.core, st)], core := some c00.core, publish := none }
theorem witness_invalidationSteps : ([inval0 .sent].find? (fun k => k.id == 4)) = some (inval0 .sent) ∧
    (inval0 .sent).agents[0]? = some (.core c00.core, .sent) ∧ (inval0 (.draining 2)).agents[0]? = some (.core c00.core, .draining 2) ∧
    ({ lone ctx0 with invals := [inval0 (.draining 2)] } : State).invDrained (inval0 (.draining 2)) 2 (.core c00.core) = true ∧
    ((inval0 .acked).agents.all fun k => decide (k.2 = .acked)) = true := by decide +kernel
/-- A walk at its first level. -/
def walk0 : Walk := { (default : Walk) with id := 6, clu := clu0, lvl := 0, done := none }
/-- The same walk with its core's slot 0 in use, waiting for a context. -/
def walking0 : State := { lone ctx0 with walks := [{ walk0 with core := c00.core, by_ := [.ctx c00 0] }] }
/-- The answer to the read of its first entry, which is not valid. -/
def walkAnswer : Packet := pkt0 (.core c00.core) (.jdata (.walk 6 c00.core) 0 false (List.replicate 8 0))
theorem witness_walk : (walking0.walks.find? fun k => k.id == 6) = some { walk0 with core := c00.core, by_ := [.ctx c00 0] } ∧
    walking0.walking walk0 = true ∧ walk0.asked = false ∧ (amGet? walking0.pkgs ((walk0.table + levelIndex 0 0 * 8) / 2 ^ 46)).isSome = true ∧
    walking0.buffersHeld c00 ctx0 < 128 ∧ (netted walking0 walkAnswer).deliverable 7 = some walkAnswer ∧
    (match walking0.walkEntry 0 0 0 0 0 with | (.inr .absent, _) => true | _ => false) = true := by
  decide +kernel
theorem witness_images : Ready (lone ctxH) ctxH [5, 4, 12] ∧ ((withHelper ctxH).slot c01).halted = false ∧ (((withHelper ctxH).halt c01 3).slot c01).halted = true ∧
    ((withHelper ctxH).halt c01 3).quiet c01 (Ctx.unpark helper1) = true ∧ ((lone ctxH).slot c01).state = .free ∧
    imageBad .supervisor (List.replicate 8192 0) = true ∧ Quiet (lone ctxH) c00 ctxH ∧ Apart c01 c00 := by
  refine ⟨ready_of rfl rfl rfl (by decide +kernel), by decide +kernel, by decide +kernel, by decide +kernel, by decide +kernel, by decide +kernel,
    quiet_of rfl rfl rfl rfl rfl rfl rfl, by unfold Apart; decide +kernel⟩
theorem witness_imageLoads : imageBad .supervisor (((lone ctx0).ctxImage c01 helper1 false (toBytes 0 56) 0).take 8192) = false := by
  decide +kernel
/-- The bytes of an image are settled in a domain with nothing under way. -/
theorem witness_imageSettled (n : Nat) : Settled (lone ctxH) (.core c00.core) 0x100000000000 n := by
  have hw : (lone ctxH).homeWrites = [] := rfl
  have hp : (lone ctxH).poison = [] := rfl
  have hd : (lone ctxH).dirty = [] := rfl
  have ho : (lone ctxH).openBytes = [] := rfl
  have hb : ((lone ctxH).core c00.core).sboard = [] := by decide +kernel
  have he : ((lone ctxH).core c00.core).early = [] := by decide +kernel
  refine ⟨⟨by simp [State.boardHeld, hb], by simp [State.writeUnderWay, hw], by simp [State.poisoned, hp], fun i _ => ⟨?_, ?_, ?_⟩⟩, ?_⟩
  · simp [State.early, he]
  · simp [State.staleHome, hd]
  · simp [State.openAt, ho]
  · simp [show (lone ctxH).net = [] from rfl]
theorem witness_remap : Ready (lone ctx0) ctx0 [4, 5, 12] ∧ ¬((0 : Nat) / 2 ^ 62 = 3) ∧ ctx0.reg 4 &&& ~~~(0xCF000000000007FF#64) = 0 ∧
    (0 : Nat) / 2 ^ 56 % 16 = c00.core.part ∧ (2 ^ 56 : Nat) / 2 ^ 56 % 16 ≠ c00.core.part ∧ ctx0.priv ≠ .firmware := by unfold Ready Unheld; decide +kernel
theorem witness_mailboxes : Ready atNear ctxA [4, 12] ∧ near.toNat % 64 = 0 ∧ 64 ≤ atNear.l2Base c00.core ∧ atNear.l2Base c00.core ≤ 2 ^ 20 ∧
    (atNear.part 0).mbWait = [] ∧ (atNear.part 0).inbox = [] ∧ (atNear.part 0).outbox.length < 256 ∧ (atNear.part 0).outHeld = [] ∧
    atNear.nbrLanded c00.core = true ∧ (List.replicate 64 (0 : Byte)).length = 64 ∧ c01.slot ≠ 0 ∧
    (atNear.pkg 0).ready = true ∧ (State.reset.part 0).st ≠ .formed ∧ (amGet? atNear.pkgs 0).isSome = true ∧
    ([[]] : List (List Byte)) ≠ [] := by unfold Ready Unheld; decide +kernel

/-! #### Homes and replies -/

/-- A request of `c00` at the next core's store, ready there. -/
def req0 (op : ReqOp) : Req :=
  { src := c00, acc := 0, va := 0x00FF000000100000, pa := 0x100000100000, home := .core core1, op := op, task := none, posted := none
    aseq := 0, replicated := none, via := .ctx }
def asks (op : ReqOp) : State := { netted (lone ctx0) (pkt0 (.core core1) (.req (req0 op))) with clock := 1 }
/-- The same with the next core's store open to `c00`. -/
def opened (op : ReqOp) : State := (asks op).modCore core1 fun k =>
  { k with win := (k.win.set 0 0xF000000000000000).set 1 0xF0001FFF00000000 |>.set 2 0xF00000001FFF0000 }
theorem witness_homes :
    (asks (.load 8)).performable 7 = some (pkt0 (.core core1) (.req (req0 (.load 8))), req0 (.load 8)) ∧ ((asks (.load 8)).part 0).tasks = [] ∧
    (asks (.load 8)).canSend (.core core1) (.core c00.core) (replyLen 0x100000100000 8) = true ∧
    (asks (.load 8)).refused c00.core (.core core1) .rd 0x100000100000 8 = true ∧
    (opened (.load 8)).refused c00.core (.core core1) .rd 0x100000100000 8 = false ∧
    (opened (.atomic .add 8 1 0)).refused c00.core (.core core1) .atomic 0x100000100000 8 = false ∧
    (opened (.atomic .add 8 1 0)).holders c00.core 0x100000100000 8 = [] ∧ Memory.wf (opened (.atomic .add 8 1 0)).mem = true := by decide +kernel
theorem witness_homesSettled : Plain (opened (.load 8)) (.core core1) 0x100000100000 8 ∧
    Plain (opened (.atomic .add 8 1 0)) (.core core1) 0x100000100000 8 ∧ Fresh (opened (.atomic .add 8 1 0)) (req0 (.atomic .add 8 1 0)) := by
  unfold Plain Fresh; decide +kernel
theorem witness_homesAsked : ∀ op ∈ [ReqOp.atomic .add 8 1 0, .reduce .add 8 1, .store [1, 2]],
    Asked (opened op) 7 (pkt0 (.core core1) (.req (req0 op))) (req0 op) := by unfold Asked; decide +kernel
/-- Two requests that reached the home in one cycle, the second from the higher core. -/
def req1 : Req := { req0 (.load 8) with src := { core := core1, slot := 0 } }
def second : Packet := { pkt0 (.core core1) (.req req1) with id := 8, src := .core core1 }
theorem witness_homesTurn : (let s : State := { asks (.load 8) with net := [pkt0 (.core core1) (.req (req0 (.load 8))), second], nextId := 9 }
      decide (s.waitsOnly 8 = some (second, req1)) &&
      decide (s.waitsOnly 7 = some (pkt0 (.core core1) (.req (req0 (.load 8))), req0 (.load 8))) && !s.waitsForTask (req0 (.load 8))) = true ∧
    lexLt [0, 0, 0] [0, 1, 0] = true ∧ (req0 (.load 8)).isWalk = false ∧ (req0 (.load 8)).task = none := by decide +kernel
/-- A load of a replicated page whose write has not ended, after 2 us. -/
theorem witness_replicaTimeout : (let r : Req := { req0 (.load 8) with replicated := some 1 }
      let k : Packet := pkt0 (.core core1) (.req r)
      let s : State := { netted (lone ctx0) k with
        clock := 8000, homeWrites := [{ id := 5, pkt := k, req := { r with op := .store (toBytes 0 8) }, acks := [3] }] }
      decide (s.turnOf 7 = some k) && s.writeUnderWay r.pa 8 && decide (k.at_ + 8000 ≤ s.clock)) = true := by decide +kernel
theorem witness_answered : ({ asks (.atomic .add 8 1 0) with replies := [(0, .core core1, c00.core.srcKey, 0, some 5)] } : State).cached 0 (.core core1)
    c00.core.srcKey 0 = some (some 5) := by decide +kernel
theorem witness_rlog : Asked (opened (.rlog false true 1 0)) 7 (pkt0 (.core core1) (.req (req0 (.rlog false true 1 0)))) (req0 (.rlog false true 1 0)) ∧
    (opened (.rlog false true 1 0)).refused c00.core (.core core1) .atomic 0x100000100000 (dbBytes true) = false ∧
    ((opened (.rlog false true 1 0)).part 0).logSize ≤ ((opened (.rlog false true 1 0)).core core1).logCount := by
  unfold Asked; decide +kernel
/-- A write that waits for one acknowledgement. -/
def write0 (acks : List Nat) : HomeWrite := { id := 7, pkt := pkt0 (.core core1) .void, req := req0 (.store [1, 2]), acks := acks }
theorem witness_homeWrite : ([write0 [core1.key]].find? fun h => h.id == 7) = some (write0 [core1.key]) ∧
    (write0 [core1.key]).acks.contains core1.key = true ∧ (write0 []).acks = [] ∧
    ({ lone ctx0 with homeWrites := [write0 []] } : State).early (.core core1) true 0x100000100000 = false := by decide +kernel
/-- An outstanding load of `c00`. -/
def load0 : Access := { (default : Access) with loadLike := true, dest := .reg 3 false, bytes := 8, pc := near, va := near.toNat }
def ctxO : Ctx := { ctx0 with out := [load0], icount := 1 }
def told (m : Msg) : State := netted (lone ctxO) (pkt0 (.core c00.core) m)
theorem witness_replies : (told (.data c00 0 false (List.replicate 8 1))).deliverable 7 =
      some (pkt0 (.core c00.core) (.data c00 0 false (List.replicate 8 1))) ∧
    (told (.data c00 0 true [])).deliverable 7 = some (pkt0 (.core c00.core) (.data c00 0 true [])) ∧
    (told (.nack c00 0 6)).ctx? c00 = some ctxO ∧ ctxO.out = [] ++ load0 :: [] ∧ load0.acc = 0 ∧ load0.err = none ∧ ctxO.leaving = none ∧
    CanTake (told (.nack c00 0 6)) c00 ctxO load0 ∧ ((told (.nack c00 0 6)).core c00.core).entryOf c00.slot 0 = none := by
  refine ⟨by decide +kernel, by decide +kernel, by decide +kernel, rfl, rfl, rfl, rfl, ?_, by decide +kernel⟩
  unfold CanTake
  exact ⟨by decide +kernel, rfl, rfl, fun _ _ h => by simp [load0] at h, by decide +kernel, rfl, rfl, rfl, rfl, by decide +kernel, by decide +kernel, rfl,
    by decide +kernel⟩
theorem witness_failedEntry : (((told (.nack c00 0 6)).modCore c00.core fun k =>
    { k with journal := k.journal.set 0 { (default : JEntry) with state := 1, slot := 0, acc := 0 } }).core c00.core).entryOf c00.slot 0 = some 0 := by
  decide +kernel

/-! #### Task units and contexts in motion -/

/-- A task of `c00`'s cluster in a state, and its record on the way. -/
def arrivingTask (t : Task) : State :=
  netted ((lone ctx0).modPart 0 fun q => { q with tasks := [t], tcfg := { q.tcfg with pool := 4 } }) (pkt0 (.task clu0) (.task 1 clu0))
theorem witness_taskArrival : (arrivingTask task0).deliverable 7 = some (pkt0 (.task clu0) (.task 1 clu0)) ∧
    (arrivingTask task0).task? 0 (some 1) = some task0 ∧ ((arrivingTask task0).cluster clu0).unitTrap = none ∧
    ((arrivingTask task0).part 0).heldEntries clu0 < 4096 := by decide +kernel
/-- A helper slot lent to tasks, with a task queued for it. -/
def lentOut (t : Task) : State :=
  ((lone ctx0).setSlot c01 { Slot.empty with state := .lent }).modPart 0 fun q => { q with tasks := [t], tcfg := { q.tcfg with pool := 4 } }
def task1 : Task := { task0 with st := .queued, dispatched := false, place := none, edepth := 0 }
theorem witness_dispatch : ((lentOut task1).part 0).live = true ∧ ((lentOut task1).slot c01).state = .lent ∧ (lentOut task1).ctx? c01 = none ∧
    (∀ t ∈ ((lentOut task1).part 0).tasks, t.aborting = none) ∧
    firstTask (((lentOut task1).part 0).tasks.filter fun t => t.clu == c01.core.clu && t.st == .queued && t.readyAt ≤ (lentOut task1).gtime &&
        ((lentOut task1).part 0).keyFree c01.core.clu t && (lentOut task1).mayRun c01.core t) = some task1 := by decide +kernel
theorem witness_refill : ((lentOut { task1 with st := .spilled }).part 0).tasks.filter (fun t => t.clu == clu0 && t.st == .spilled) =
      [{ task1 with st := .spilled }] ∧ ((lentOut task1).part 0).heldEntries clu0 < 3072 ∧
    task1.asked = false ∧ task1.aborting = none ∧
    (let s := (lentOut { task1 with st := .spilled }).modPart 0 fun q => { q with tcfg := { q.tcfg with ovf := near.toNat } }
     match (s.resolve (s.unitCore clu0) (.unit clu0) (some (.unit clu0)) .read .supervisor near.toNat 64).1 with
     | .ok _ => true
     | _ => false) = true := by decide +kernel
theorem witness_rounds : ((lentOut task1).part 0).round = none ∧ ((lentOut task1).part 0).nextRound ≤ (lentOut task1).clock ∧
    (∀ t ∈ ((lentOut task1).part 0).tasks, t.st ≠ .finished) ∧ ((lentOut { task1 with st := .finished }).part 0).tasks ≠ [] := by decide +kernel
/-- A context's message on its way. -/
def ready (x : Ctx) (dst : CoreId) (m : Msg) : State := netted (lone x) (pkt0 (.core dst) m)
theorem witness_reserve : (ready ctx0 core1 (.reserve c00 core1)).deliverable 7 = some (pkt0 (.core core1) (.reserve c00 core1)) ∧
    ((ready ctx0 core1 (.reserve c00 core1)).slot { core := core1, slot := 1 }).state = .free ∧
    (∀ m < 1, m ≠ 0 → ((lone ctx0).slot { core := core1, slot := m }).state ≠ .free) := by decide +kernel
/-- A context that has asked for a slot on the next core. -/
def move0 : Moving := { target := core1, slot := none, asked := some 0, dest := none, answered := false }
theorem witness_moves : ({ ctx0 with moving := some move0 } : Ctx).moving = some move0 ∧ move0.target = core1 ∧ move0.asked ≠ none ∧
    move0.answered = false ∧ (0 : Nat) + 8000 ≤ ({ lone ctx0 with clock := 8000 } : State).clock ∧ (lone ctx0).clock < 0 + 8000 ∧
    (((lone ctx0).setSlot { core := core1, slot := 3 } { Slot.empty with state := .reserved }).slot { core := core1, slot := 3 }).state = .reserved ∧
    ({ ctx0 with parked := some (some 5) } : Ctx).parked = some (some 5) := by decide +kernel
/-- A helper with a slot granted on the next core, and one that is leaving. -/
def goer : Ctx := { helper1 with moving := some { move0 with slot := some 2, answered := true } }
def leaver : Ctx := { helper1 with leaving := some { value := 5, how := 1 } }
theorem witness_departs : (inHelper goer).ctx? c01 = some goer ∧ ((inHelper goer).part 0).live = true ∧ ((inHelper goer).slot c01).halted = false ∧
    goer.leaving = none ∧ (inHelper goer).quiet c01 goer = true ∧ goer.barPend = false ∧
    (inHelper goer).canSend (.core c01.core) (.core core1) 5 = true ∧ ((inHelper leaver).part 0).onCores = true ∧
    (inHelper leaver).quiet c01 leaver = true := by decide +kernel
theorem witness_wakes : (inHelper helper1).whereIs c01 = some c01 ∧ helper1.leaving = none ∧ helper1.moving = none ∧ leaver.leaving ≠ none ∧
    (netted (inHelper helper1) (pkt0 (.core c01.core) (.kill c01 0 0 1))).deliverable 7 = some (pkt0 (.core c01.core) (.kill c01 0 0 1)) := by
  decide +kernel
/-- A neighbour's word on its way, and a parked wake. -/
def word0 : Packet := pkt0 (.core core1) (.nbr core1 .west false 9)
def parked0 : Packet := { pkt0 (.core core1) (.wake c01 0 0 1 c00) with stage := .parked }
theorem witness_arrivals : (netted (lone ctx0) word0).pkt? 7 = some word0 ∧ (netted (lone ctx0) parked0).pkt? 7 = some parked0 ∧
    ((netted (lone ctx0) word0).net.find? fun q => match q.msg with | .nbr a b _ _ => a == core1 && b == .west | _ => false) = some word0 ∧
    (((lone ctx0).core core1).nbrq.get (dirIx .west)).length < 16 ∧ parked0.stage = .parked ∧
    parked0.at_ + 40000 ≤ ({ lone ctx0 with clock := 40000 } : State).clock := by decide +kernel

/-! #### The network -/

def fly0 : Packet := { (default : Packet) with id := 7, src := .core c00.core, dst := .core core1, len := 1, stage := .flying, msg := .ack c00 0 }
theorem witness_arrives : (netted (lone ctx0) fly0).pkt? 7 = some fly0 ∧ fly0.cls < 2 ∧ fly0.trim = false ∧ fly0.len ≠ 0 ∧
    ((netted (lone ctx0) fly0).routeOf fly0).any (fun h => !h.isEmpty && !(netted (lone ctx0) fly0).routeDown h) = true ∧
    fly0.pseq = ((netted (lone ctx0) fly0).pair 0 fly0.src fly0.dst 0).nextDel ∧
    (∀ q ∈ (netted (lone ctx0) fly0).net, fly0.samePair q = true → q.stage ≠ .window) ∧
    ((netted (lone ctx0) fly0).pair 0 fly0.src fly0.dst 0).nextDel < ({ fly0 with pseq := 1 } : Packet).pseq ∧
    ({ fly0 with trim := true } : Packet).retx = false ∧ ((lone ctx0).pair 0 fly0.src fly0.dst 2).mayAsk (lone ctx0).clock = true := by
  decide +kernel
/-- A pair with a packet delivered and not marked, and a pacing record with one re-request waiting. -/
def pair0 (cls : Nat) : PairSt :=
  { part := 0, src := .core c00.core, dst := .core core1, cls := cls, nextSeq := 1, nextDel := 1, marked := 0, lastSent := 0, link := 0
    interval := 64, lastReq := 0, waiting := [(0, 0, 0)] }
def paired (cls : Nat) : State := { netted (lone ctx0) { fly0 with stage := .header, trim := true } with pairs := [pair0 cls], clock := 1024 }
theorem witness_pairs : (paired 0).pairs[0]? = some (pair0 0) ∧ (pair0 0).marked < (pair0 0).nextDel ∧
    ((paired 0).pair 0 (.core core1) (.core c00.core) 0).lastSent + 1024 ≤ (paired 0).clock ∧ (pair0 2).mayAsk (paired 2).clock = true ∧
    (pair0 2).waiting = (0, 0, 0) :: [] ∧ (∃ q ∈ (paired 2).net, q.src = (pair0 2).src ∧ q.dst = (pair0 2).dst ∧ q.cls = 0 ∧ q.pseq = 0 ∧ q.stage = .header) := by
  decide +kernel
/-- A request to a core of the next package, of which the partition has a part. -/
def beyond (clock : Nat) : State :=
  { ((netted (lone ctxO) { fly0 with dst := .core { core1 with pkg := 1 }, msg := .req (req0 (.load 8)) }).modPart 0 fun q =>
      { q with active := { q.active with pkg := [(0, 0), (1, 1)] } }).modPkg 0 fun k => { k with route := [(1, 3)] } with clock := clock }
theorem witness_expiry : ((beyond 0).pkt? 7).any (fun k => decide (k.cls = 0) && decide ((beyond 0).agentPkg k.src ≠ (beyond 0).agentPkg k.dst)) = true ∧
    (beyond 64000).clock = 0 + 64000 ∧ ((beyond 0).part 0).phase ≠ .out_ ∧ (0 : Nat) + 1 < 8 * ((beyond 0).linksTo 0 0 1).length ∧
    8 * max 1 ((beyond 0).linksTo 0 0 1).length ≤ 8 * 64 - 1 + 1 := by decide +kernel
theorem witness_links : (∃ l < 32, ((lone ctx0).pkg 0).linkUp l = true) ∧ 5 ∉ ((lone ctx0).pkg 0).lanesOff ∧
    ({ lone ctx0 with clock := 2048 } : State).mayPowerDown 0 9 = true ∧ (lone ctx0).mayPowerDown 0 9 = false ∧
    (∃ k ∈ (netted (lone ctx0) fly0).net, k.stage = .flying ∧ ∃ h, (netted (lone ctx0) fly0).routeOf k = some h ∧ ∃ x ∈ h, x.1 = 0) := by
  refine ⟨⟨0, by decide +kernel⟩, by decide +kernel, by decide +kernel, by decide +kernel, fly0, by decide +kernel, rfl, ?_⟩
  exact ⟨_, rfl, by decide +kernel⟩

/-! #### Partitions, host commands and packages -/

/-- A partition of one core with a save area at 1 MiB, and a mark. -/
def oneCore (f : Phase) : State := (lone ctx0).modPart 0 fun q =>
  { q with active := { q.active with vcore := [(0, 0)] }, gsarea := 0x100000, gscfg := 1, gsmark := 1, phase := f }
theorem witness_mark : ((oneCore .inSlice).part 0).live = true ∧ ((oneCore .inSlice).part 0).gsmark ≠ 0 ∧
    (((oneCore .inSlice).part 0).gsmark.toNat + 255) / 256 * 256 ≤ ({ oneCore .inSlice with clock := 1024 } : State).gtime ∧
    (oneCore .inSlice).areaThere 0 = true ∧ (lone ctx0).areaThere 0 = false ∧ ((oneCore .inSlice).part 0).tasks = [] := by decide +kernel
theorem witness_quiesce : StoppingOn (oneCore (.stopping 0 [0] [])) 0 0 0 [0] [] ∧ (oneCore (.stopping 0 [0] [])).chipQuiet 0 0 = true ∧
    ([0] : List Nat).filter (· != 0) = [] ∧ ([0, 1] : List Nat).filter (· != 0) ≠ [] ∧
    OneCore (oneCore (.stopping 0 [0] [])) 0 c00.core 0x100000 ∧ ctx0.awaits = false ∧
    (0 : Nat) + 50000 ≤ ({ oneCore .inSlice with clock := 200000 } : State).gtime ∧
    ((oneCore (.stopping 0 [0] [])).putCtx c00 ctxO).chipQuiet 0 0 = false := by unfold StoppingOn OneCore; decide +kernel
/-- The same partition out of its slice after a run, with the map it had staged. -/
def outside : State := (oneCore .out_).modPart 0 fun q => { q with st := .running, everRun := true }
theorem witness_restore : (outside.part 0).st = .running ∧ (outside.part 0).phase = .out_ ∧ (outside.part 0).everRun = true ∧
    (∀ r < 16, r ≠ 0 → (outside.part r).st = .running → (outside.part r).phase = .out_) ∧ outside.stagedOk 0 = true ∧
    (outside.modPart 0 fun q => { q with active := q.nextMap }).areaThere 0 = true ∧
    (outside.modPart 0 fun q => { q with active := q.nextMap }).hasCore c00.core = true ∧ OneCore outside 0 c00.core 0x100000 := by
  unfold OneCore; decide +kernel
theorem witness_sliceStart : ((oneCore (.restored 0)).part 0).phase = .restored 0 ∧
    (0 / 256 + 1) * 256 ≤ ({ oneCore (.restored 0) with clock := 1024 } : State).gtime := by decide +kernel
theorem witness_window : (amGet? (lone ctx0).pkgs 0).isSome = true ∧ ((lone ctx0).pkg 0).ready = true ∧ 64 + 8 ≤ ((lone ctx0).pkg 0).hbmTop ∧
    (∀ p < 16, ((lone ctx0).part p).tasks = []) ∧ (lone ctx0).writeUnderWay 64 8 = false ∧ (lone ctx0).poisoned 64 8 = false ∧
    (∀ i < 8, (lone ctx0).early ((lone ctx0).outsideHome 64) false (64 + i) = false ∧ (lone ctx0).staleHome ((lone ctx0).outsideHome 64) (64 + i) = false ∧
      (lone ctx0).openAt (64 + i) = false) ∧ Memory.wf (lone ctx0).mem = true ∧
    ((State.reset.modPkg 0 fun k => { k with ready := false }).pkg 0).ready = false := by decide +kernel
theorem witness_commands : sysOfNat 0x300 = some .tvec ∧ SysReg.tcause.held = .context ∧ (∃ r, sysOfNat 1 = some r ∧ r.held = .context ∧
    (contextWord (lone ctx0) ctx0 1).isSome = true) ∧ IsFormed ((lone ctx0).part 0) ∧ ¬IsFormed (State.reset.part 0) ∧
    (lone ctx0).hasCore c00.core = true ∧ (outside.part 0).st ≠ .formed ∧ ((lone ctx0).part 0).st = .running ∧
    (0xCF000000000007FF : Word) &&& ~~~(0xCF000000000007FF#64) = 0 := by unfold IsFormed; decide +kernel
/-- A partition formed, with core 0 of package 0 staged, and a block of zeros at 64. -/
def formed0 : State := State.reset.setPart 0 { Part.fresh with st := .formed, staged := part0.staged, active := part0.active }
theorem witness_start : (formed0.part 0).st = .formed ∧ formed0.ctx? c00 = none ∧ dword (formed0.deviceRead 64 64).1 0 % 4 = 0 ∧
    formed0.startOk 0 = true ∧ (amGet? ((formed0.part 0).nextMap).pkg 0).isSome = true ∧ (amGet? ((formed0.part 0).nextMap).vcore 0).isSome = true := by
  decide +kernel
/-- The package at a phase of bring-up. -/
def phased (n : Nat) : State := State.reset.modPkg 0 fun k => { k with phase := n }
theorem witness_bringUp : (amGet? (phased 0).pkgs 0).isSome = true ∧ ((phased 1).pkg 0).phase = 1 ∧ ((phased 2).pkg 0).phase = 2 ∧
    ((phased 3).pkg 0).phase = 3 ∧ ((phased 4).pkg 0).phase = 4 ∧ Memory.wf (phased 4).mem = true ∧
    entryOk (BitVec.ofNat 64 0x1000000000000000) = true := by and_intros <;> decide +kernel
theorem witness_packageEvents : (State.reset.pkg 0).phase ≠ 0 ∧ (State.reset.pkg 0).phase ≠ 15 ∧ [50, 120, 60, 70].length = 4 ∧
    (∃ d ∈ [50, 120, 60, 70], 120 ≤ d) ∧ (State.reset.pkg 0).hour < ({ State.reset with clock := 14400000000000 } : State).clock / 14400000000000 ∧
    ((State.reset.modPkg 0 fun k => { k with pendingRetire := [(0, 1)] }).pkg 0).pendingRetire ≠ [] ∧ OnPackage part0 0 ∧ (List.replicate 32 (0 : Byte)).length = 32 := by
  unfold OnPackage; decide +kernel

/-! #### Further clauses -/

/-- An answer of reads whose value passes a test. -/
def readsTo {α : Type} (a : WalkM RM α) (s : State) (p : α → State → Bool) : Bool :=
  match a.run.run s with
  | .ok (.ok v, u) => p v u
  | _ => false

theorem witness_offered : (placed0.core c00.core).slotAt ≤ placed0.clock ∧ placed0.ccEdge c00.core = placed0.clock ∧
    (placed0.part 0).roundDue placed0.clock = false ∧ ({ ctx0 with haltReq := true } : Ctx).haltReq = true ∧
    (lone { ctx0 with priv := .program }).ctx? c00 = some { ctx0 with priv := .program } := by
  refine ⟨by decide +kernel, by decide +kernel, by decide +kernel, rfl, rfl⟩

/-- A stream bound to the neighbour in the east. -/
def nbrStream : Stream := { Stream.fresh .nbr with dir := .east }
def neighbouring : Ctx := { ctxA with streams := ctxA.streams.set 0 (some nbrStream) }
theorem witness_neighbourEnd : neighbouring.streams.get 0 = some nbrStream ∧ nbrStream.broken = false ∧ neighbouring.task = none ∧
    (lone neighbouring).neighbour c00.core .east = some core1 ∧ (lone neighbouring).nbrCount core1 (dirOpp .east) < 16 ∧
    16 ≤ ((lone neighbouring).modCore core1 fun k => { k with nbrq := k.nbrq.set (dirIx (dirOpp .east)) (List.replicate 16 (false, 0)) }).nbrCount core1
      (dirOpp .east) ∧
    (∃ d, (lone neighbouring).neighbour c00.core d = none) ∧ ({ nbrStream with broken := true } : Stream).broken = true :=
  ⟨rfl, rfl, rfl, by decide +kernel, by decide +kernel, by decide +kernel, ⟨.north, by decide +kernel⟩, rfl⟩

/-- An image of a stream of kind `k`, the walk descriptors it names, their record and its one dense level. -/
def imageBytes (k : Nat) : List Byte :=
  toBytes k 8 ++ toBytes (near.toNat + 64) 8 ++ toBytes 0 48 ++
  toBytes (near.toNat + 128) 8 ++ toBytes 0 24 ++ toBytes (near.toNat + 128) 8 ++ toBytes 0 24 ++
  toBytes 0 16 ++ toBytes 1 8 ++ toBytes 0 8 ++ toBytes (4 * 2 ^ 32) 8 ++ toBytes 0 24
def imaged (k : Nat) : State := { atNear with mem := Memory.writeN [] 0x100000000000 (imageBytes k) }
/-- The image of a pattern of zero bytes. -/
def patternImage : State := { atNear with mem := Memory.writeN [] 0x100000000000 (toBytes 1 8 ++ toBytes (near.toNat + 64) 8) }
/-- The image of kind `k` stands at the address in s4, its first byte names that kind, and `more` holds of what follows. -/
def imageRead (s : State) (k : Nat) (more : List Byte → State → Bool) : Bool :=
  readsTo (ctxRead c00 ctxA false near.toNat 64) s fun b u =>
    imageOk b && decide ((b.headD 0).toNat % 16 = k) && decide (dword b 1 % 64 = 0) && decide (u.cur = c00) && more b u
theorem witness_imageKinds :
    imageRead patternImage 1 (fun b u => readsTo (ctxRead u.cur ctxA false (dword b 1) 64) u fun d v =>
      (patternOf d).any fun p => !p.wr && decide (v.cur = c00)) = true ∧
    imageRead (imaged 3) 3 (fun b u => let rd := ctxRead u.cur ctxA false
      readsTo (do readWalker rd true (← rd (dword b 1) 32)) u fun w _ => w.isSome) = true ∧
    imageRead (imaged 4) 4 (fun b u => let rd := ctxRead u.cur ctxA false
      readsTo (do
        let e ← rd (dword b 1) 64
        let m ← readWalker rd true (e.take 32)
        let n ← readWalker rd true (e.drop 32)
        return (m, n)) u fun w _ => w.1.isSome && w.2.isSome) = true ∧
    imageRead (imaged 0x106) 6 (fun b u => decide (u.neighbour c00.core (dirOfNat (dword b 0 / 2 ^ 8 % 4)) ≠ none)) = true ∧
    RoomFor (imaged 4) ctxA 0 .isect := by unfold RoomFor; decide +kernel
/-- A helper that has gone to the next core, and one that is being stopped. -/
def awayHelper : State := (lone ctxH).setSlot c01 { Slot.empty with state := .away, awayVc := 1 }
theorem witness_helperAway : (awayHelper.slot c01).state = .away ∧ awayHelper.stopping c01 = false ∧
    ((awayHelper.modSlot c01 fun l => { l with killSent := true })).stopping c01 = true ∧
    (withReg 4 0x1000).reg 4 &&& ~~~(0x7FE#64) ≠ 0 ∧ ((withHelper ctxH).slot (helper1.originCtx 0)).killSent = false := by decide +kernel
theorem witness_wakeQueued : (lone ctx0).hasCore { core1 with vc := 9 } = false ∧ (tasked task0).task? 0 ctxT.task = some task0 ∧
    task0.settled = false ∧ 8 ≤ ({ task0 with actions := List.replicate 8 (0, .wake 0) } : Task).actions.length := by decide +kernel
/-- A commit queue full of tasks before the running one, or with one behind it that may have a write of a job under way. -/
def finished (n m : Nat) : List Task :=
  (List.range n).map fun i => { task0 with id := i + 2, st := .finished, place := none, tagOrd := i, chain := [if i < m then 1 else 9] }
def crowd (m : Nat) : State := (lone ctxT).modPart 0 fun q => { q with tasks := task0 :: finished 512 m, tcfg := { q.tcfg with pool := 1000 } }
def lastOf (s : State) : Task := ((s.part 0).commitEntries task0.clu).foldl (fun m u => if m.precedes u then u else m) task0
theorem witness_capacity : 512 ≤ (((crowd 512).part 0).commitEntries task0.clu).length ∧ (lastOf (crowd 512)).id = 1 ∧
    (crowd 512).mayAbort 0 1 = true ∧ (lastOf (crowd 511)).id = 513 ∧ (crowd 511).mayAbort 0 513 = true ∧
    ((((crowd 511).abort .capacity false 0 513).task? 0 (some 1)).any fun y => y.st == .running && y.place == some c00) = true ∧
    ({ crowd 511 with jobs := [{ job0 with task := some 513, sent := [write1 none] }] } : State).mayAbort 0 513 = false := by decide +kernel
theorem witness_matrixOwner : (((lone ctxV).modPart 0 fun q => { q with phase := .out_ }).part 0).onChip 0 = false ∧ coreOfKey c00.core.key = c00.core := by decide +kernel
theorem witness_jobKeeps : ({ ended with keep := [write1 none] } : JobAfter).keep ≠ [] ∧ ended.keep = [] ∧
    (∃ w ∈ (ending [] [write1 none]).sent, w.cause = none) ∧
    ({ ending [] [write1 (some 6)] with told := true, compl := 64, worked := true } : Job).sent = [write1 (some 6)] := by
  exact ⟨by decide +kernel, by decide +kernel, ⟨write1 none, by decide +kernel⟩, by decide +kernel⟩
/-- The cycle in which an operation reached its unit is over. -/
def askingOn (op : RingOp) : State := { asking op with clock := 1 }
theorem witness_ringTurn : ((askingOn (.acq 64)).deliverable 1).any (fun k => decide (k.at_ < (askingOn (.acq 64)).clock) &&
      !(askingOn (.acq 64)).ringBehind k c00) = true ∧ (askingOn (.acq 64)).opsThere clu0 = true ∧ (lone ctxR).opsThere clu0 = false ∧
    ((askingOn .rst).deliverable 1).any (fun k => decide (k.msg = .ringReq c00 0 1 clu0 .rst) && !(askingOn .rst).ringBehind k c00) = true := by
  decide +kernel
/-- The arrival at its node, and one of the same cycle from a lower slot. -/
def arrivedAt (clock : Nat) : State := { (arriving bar0).modPkt 1 fun k => { k with stage := .ready } with clock := clock }
def arrivedBefore : State :=
  let s := { arrivedAt 1 with cur := c01 }
  s.send 0 0 (.core c00.core) (.barrier clu0) 0 (.arrive clu0 0 8 { c00 with slot := 0 } none 0)
theorem witness_arrivalTurn : ((arrivedAt 1).pkt? 1).any (fun k => decide (k.stage = .ready) && decide (k.at_ < 1)) = true ∧
    ((arriving bar0).pkt? 1).any (fun k => decide (k.stage ≠ .ready)) = true ∧ ¬(bar0.setAt = (arrivedAt 0).clock + 1) ∧
    (∀ q ∈ (arrivedAt 1).net, q.arrivalAt clu0 0 = true →
      ¬(q.at_ < 0 ∨ q.at_ = 0 ∧ lexLt q.arrivalPlace [c00.core.pkg, c00.core.vc, c00.slot] = true)) ∧
    (lone ctx0).levelDone bar0 clu0.key = false ∧
    (lone ctx0).levelDone { bar0 with arrived := [(clu0.key, [⟨7, 0, c00, none, 0⟩])] } clu0.key = true := by decide +kernel
theorem witness_systemWrites : sysOfNat 0x301 = some .taskcfg ∧ sysOfNat 0x200 = some .rccmd ∧ sysOfNat 0x201 = some .rcrst ∧ ((lone ctxA).part 0).tasks = [] ∧ ((tasked task0).part 0).tasks ≠ [] ∧
    (lone ctxA).hasCore (dbgTarget 0 ((lone ctxA).core c00.core).dbgsel).core = true ∧
    (dbgTarget 0 ((lone ctxA).core c00.core).dbgsel).slot < 11 ∧
    readsTo (ctxRead c00 ctxA false near.toNat 64) (lone ctxA) (fun b u => decide (u.cur = c00) && decide (blockOf 1 b = none) && !u.opsThere clu0) = true ∧ amGet? (((lone ctxR).setBlock clu0 1 blk0).cluster clu0).blocks 1 = some blk0 := by decide +kernel
theorem witness_haltAsked : ({ ctx0 with faultWaits := true } : Ctx).faultWaits = true ∧ ctx0.faultWaits = false := by decide +kernel
theorem witness_markDue : ((lone ctx0).part 0).gsmark = 0 ∧
    markAt (((lone ctx0).modPart 0 fun q => { q with gsmark := 256 }).part 0).gsmark ≤ ({ lone ctx0 with clock := 1024 } : State).gtime := by decide +kernel
/-- Translation on, and a walk that has ended for `c00`. -/
def leaf0 (w : Bool) : Tlb :=
  { part := 0, asid := 0, va := 0x80000, bits := 19, pa := 0x80000, name := none, home := 0, hopnd := 0, rah := false, u := false, x := false, w := w, r := true }
def walked (r : WalkRes) : State :=
  { (lone ctx0).modPart 0 fun q => { q with atbl := 1 } with
    walks := [{ walk0 with core := c00.core, va := 0x80000, done := some r, by_ := [.ctx c00 0] }] }
theorem witness_walkEnded : ∀ r ∈ [WalkRes.absent, .bad, .failed 0x15, .leaf (leaf0 true)],
    ((walked r).part 0).atbl.getLsbD 0 = true ∧ (walked r).heldBack 0 (.core c00.core) 0x80000 = false ∧
    (walked r).heldBack 0 (.clu clu0) 0x80000 = false ∧ ((walked r).core c00.core).dtlb = [] ∧ ((walked r).cluster clu0).tlb = [] ∧
    ((walked r).walks.find? fun x => x.clu == c00.core.clu && x.asid == 0 && x.va / 2 ^ 19 == 0x80000 / 2 ^ 19 &&
      x.by_.contains (.ctx c00 0) && x.done.isSome).any (fun w => w.done == some r) = true := by decide +kernel
theorem witness_leaf : permitted (leaf0 true) .write .supervisor ∧ ¬permitted (leaf0 false) .write .supervisor ∧
    (walked .absent).staleWalk (.core c00.core) walk0 (leaf0 true) = false ∧
    ({ walked .absent with invals := [{ inval0 (.draining 9) with id := 8, hi := 2 ^ 40 }] } : State).staleWalk (.core c00.core) walk0 (leaf0 true) = true := by
  unfold permitted; decide +kernel
/-- A read of the walk that came back failed, and another walk of the same page. -/
def walkNack : Packet := pkt0 (.core c00.core) (.jnack (.walk 6 c00.core) 0 0x15)
def askedWalk : Walk := { walk0 with core := c00.core, by_ := [.ctx c00 0], asked := true, va := 0x80000 }
def walking2 : State := { lone ctx0 with walks := [askedWalk, { askedWalk with id := 9, va := 0x80008, asked := false }] }
theorem witness_walkFails : (netted walking2 walkNack).deliverable 7 = some walkNack ∧
    ((netted walking2 walkNack).walks.find? fun k => k.id == 6) = some askedWalk ∧ (0x15 : Nat) ≠ 7 ∧
    (walking2.walkEntry 0 0 0x80000 0 0b110 ).1 = .inr .absent ∧
    (match (walking2.walkEntry 0 0 0x80000 2 0b1111).1 with | .inr (.leaf e) => decide (e.va ≤ 0x80008) && decide (0x80008 < e.va + 2 ^ e.bits) | _ => false) = true ∧
    (match (walking2.walkEntry 0 0 0x80000 0 0b1).1 with | .inl _ => true | _ => false) = true ∧
    walking2.badEntry 2 0b1111 = false ∧ walking2.badEntry 0 0b11 = true ∧ (walking2.part 0).inMapOrPool 0 = false ∧ (walking2.part 0).nameOf 0 = none := by
  decide +kernel

theorem witness_refuses : (asks (.load 8)).refusesReq (pkt0 (.core core1) (.req (req0 (.load 8)))) (req0 (.load 8)) = true ∧
    (opened (.load 8)).refusesReq (pkt0 (.core core1) (.req (req0 (.load 8)))) (req0 (.load 8)) = false ∧
    ({ pkt0 (.core core1) (.req (req0 (.load 8))) with judged := some true } : Packet).judged = some true ∧ (req0 (.load 8)).early = [] ∧
    (req0 (.load 8)).apart = false ∧ (opened (.load 8)).waitsForTask (req0 (.load 8)) = false := by decide +kernel
/-- The log of the next core in its home's address space, its page known to the core. -/
def logged : State :=
  ((opened (.rlog false true 1 0)).modPart 0 fun q => { q with uplog := 0x80001, atbl := 1 }).modCore core1 fun k =>
    { k with dtlb := [{ leaf0 true with va := 0x80000, bits := 19 }] }
theorem witness_logPlace : logged.recordWaits core1 (logged.core core1).logCount (.msg 7) = none ∧
    (((netted (lone ctx0) (pkt0 (.core core1) .void)).core core1).logCount < (logged.part 0).logSize) ∧
    ((logged.dropPkt 7).recordIn core1 0 (.msg 7)).recordPa core1 0 ≠ none := by decide +kernel

/-- An image of a helper whose first stream is a neighbour that is not there. -/
def strangeImage : List Byte := toBytes 0 0x300 ++ toBytes 6 8 ++ toBytes 0 (8192 - 0x308)
theorem witness_imageStreams :
    (match (imgStreams (.ctxld 12 4 5 0) helper1 (toBytes 0 8192)).run (start ((lone ctxH).ownDone c00.core) ctxH) with
      | .ok (some _, e) => decide (e.st = (lone ctxH).ownDone c00.core) && decide (e.cx = ctxH)
      | _ => false) = true ∧
    (match (imgStreams (.ctxld 12 4 5 0) helper1 strangeImage).run (start ((lone ctxH).ownDone c00.core) ctxH) with
      | .ok (none, e) => decide (e.st = (lone ctxH).ownDone c00.core) && decide (e.cx = ctxH)
      | _ => false) = true ∧ Apart c01 c00 ∧ helper1.qslots = 0 := by unfold Apart; decide +kernel
theorem witness_posting : (lone ctx0).clock < (((lone ctx0).modPart 0 fun q => { q with postAt := 4 }).part 0).postAt ∧
    ((lone ctx0).part 0).postAt ≤ (lone ctx0).clock := by decide +kernel

/-- A kill parked for a context, and a context's image on its way. -/
def parkedKill : Packet := { pkt0 (.core core1) (.kill c01 0 0 1) with id := 9, stage := .parked }
theorem witness_parkedKill : parkedKill.parkedFor = some c01 ∧ parkedKill.id ≠ 7 ∧ (∀ q ∈ (netted (lone ctx0) parked0).net, q.parkedFor ≠ some c00) ∧
    parked0.at_ + 40000 < ({ lone ctx0 with clock := 40001 } : State).clock ∧
    (((inHelper helper1).modSlot c01 fun l => { l with killSent := true }).slot c01).killSent = true ∧
    ((inHelper helper1).slot c01).killSent = false ∧ ((inHelper goer).part 0).onChip 0 = true ∧ goer.lat = [] := by decide +kernel

theorem witness_reached : (match (netted (lone ctx0) fly0).routeOf fly0 with
      | some h => decide ((netted (lone ctx0) fly0).reached h ≠ []) && !(netted (lone ctx0) fly0).routeDown h
      | none => false) = true ∧
    (netted (lone ctx0) fly0).afterOwn fly0 = false ∧ (netted ((lone ctx0).ownDone core1) fly0).afterOwn fly0 = true ∧
    ((netted (lone ctx0) fly0).pacing fly0).mayAsk 0 = true := by decide +kernel
/-- A re-request that has reached the source of a packet it keeps. -/
def again : Packet := { pkt0 (.core c00.core) (.rereq 0 fly0.src fly0.dst 0 0) with id := 8, src := .core core1, cls := 2 }
def keeping (header : Bool) : State :=
  { lone ctx0 with net := (if header then [{ fly0 with stage := .header }] else []) ++ [again], kept := [fly0], nextId := 9 }
theorem witness_again : (keeping true).deliverable 8 = some again ∧ (keeping false).deliverable 8 = some again ∧
    (keeping true).kept.find? (fun q => q.part == 0 && q.src == fly0.src && q.dst == fly0.dst && q.cls == 0 && q.pseq == 0) = some fly0 ∧
    ((keeping true).dropPkt 8).net.find? (fun q => q.pseq == 0 && q.stage == .header) = some { fly0 with stage := .header } ∧
    ((keeping false).dropPkt 8).net = [] := by decide +kernel
/-- The request of `beyond`, as its source keeps it: it has been tried, and its time has come. -/
def tried (l : List (Nat × Nat)) : State :=
  { beyond 64000 with outgoing := [{ pkt := { fly0 with dst := .core { core1 with pkg := 1 }, msg := .req (req0 (.load 8)) }
                                     timer := 0, link := 0, tries := l }] }
theorem witness_lateRequest : (tried []).outgoing.find? (fun q => q.pkt.id == 7) = some ((tried []).outgoing.headD default) ∧
    (tried []).awaited ((tried []).outgoing.headD default).pkt = true ∧ ((tried []).part 0).onCores = true ∧
    (Msg.req (req0 (.load 8))).canFail = true ∧ ((tried []).core c00.core).entryOf c00.slot 0 = none ∧
    ((tried []).linksTo 0 0 1).length = 2 ∧ (∀ l < 2, 8 ≤ amGet 0 (amSet [(0, 7), (1, 8)] 0 8) l) ∧
    CanTake (tried [(0, 7), (1, 8)]) c00 ctxO load0 := by
  refine ⟨by decide +kernel, by decide +kernel, by decide +kernel, by decide +kernel, by decide +kernel, by decide +kernel, by decide +kernel, ?_⟩
  unfold CanTake
  exact ⟨by decide +kernel, rfl, rfl, fun _ _ h => by simp [load0] at h, by decide +kernel, rfl, rfl, rfl, rfl, by decide +kernel, by decide +kernel, rfl,
    by decide +kernel⟩
theorem witness_quietChip : (oneCore (.stopping 0 [0] [])).chipIdle 0 0 = true ∧ (oneCore (.stopping 0 [0] [])).toSpill 0 0 = [] ∧
    ((lentOut task1).modPart 0 fun q => { q with phase := .stopping 0 [0] [] }).toSpill 0 0 = [clu0] ∧
    ({ oneCore (.stopping 0 [0] []) with clock := 80000 } : State).gtime = 0 + 20000 := by decide +kernel
theorem witness_taken : ((arrivingTask task0).part 0).entriesTaken clu0 < 4096 ∧
    ((lentOut { task1 with st := .spilled }).part 0).entriesTaken clu0 < 3072 ∧
    (((lentOut task1).modPart 0 fun q => { q with round := some 0 }).part 0).roundDue 0 = false ∧
    (((lentOut task1).modPart 0 fun q => { q with round := some 0 }).part 0).roundDue 100000 = true ∧
    (lentOut task1).ownNow 0 = false ∧ ((lentOut task1).ownDone c00.core).ownNow 0 = true := by decide +kernel

/-- A stored table signed by the device. Whether any other signature verifies is left open (log 9), so of the clauses about it none can be shown met. -/
def signedCopy (k : Pkg) : WinterCopy :=
  { version := 5, entries := [], sig1 := Config.signs false k.attKey1 (winterMsg 5 []), sig2 := Config.signs true k.attKey2 (winterMsg 5 []) }
theorem witness_validCopy (k : Pkg) : ValidCopy k (signedCopy k) := by
  unfold ValidCopy BothHold Holds signedCopy
  exact ⟨Nat.zero_le _, by simp, .inl rfl, .inl rfl⟩
theorem witness_newestCopy (k : Pkg) : newestCopy { k with copyA := signedCopy k, copyB := signedCopy k } ≠ none := by
  unfold newestCopy
  rw [if_pos ⟨witness_validCopy { k with copyA := signedCopy k, copyB := signedCopy k }, fun _ => Nat.le_refl _⟩]
  simp
theorem witness_noCopy : newestCopy { State.reset.pkg 0 with copyA := { version := 0, entries := [0xF000000000000000#64], sig1 := [], sig2 := [] }
                                                             copyB := { version := 0, entries := [0xF000000000000000#64], sig1 := [], sig2 := [] } } = none := by
  have h : entryOk 0xF000000000000000#64 = false := by decide +kernel
  simp [newestCopy, UsesA, ValidCopy, h]
theorem witness_lifeBlock (k : Pkg) (m : List Byte) : BothHold k m (Config.signs false k.attKey1 m) (Config.signs true k.attKey2 m) :=
  ⟨.inl rfl, .inl rfl⟩

/-! #### Encoding and memory -/

theorem witness_encoding : (Instr.divs 5 6 7).wellFormed = true ∧ encode (.divs 5 6 7) = some 0x04A639C0 ∧
    decode 0x04A639C0 = .ok (.divs 5 6 7) := by and_intros <;> rfl
theorem witness_canonical : Memory.wf placed.mem = true ∧ (after (step placed)).isSome = true := by decide +kernel

end Sys2Proof.Tests
end

section
/-! Issuing an instruction (R7, R29, R410, R420): what retiring leaves, and the halts that follow it. -/
namespace Sys2Proof.Claims
open Sys2Proof.Machine

/-- A retired instruction in full: the windows are those that `windowsAfter` counts. -/
theorem retired_eq (y : Ctx) (next : Word) :
    y.retired next = { y with
      pc := next, windows := windowsAfter y, icount := y.icount + 1, reads := [], posted := none, moving := none
      faultWaits := false, tried := [], stepOne := false } := rfl

/-- Issuing puts the retired context back, and halts it where it steps (R410) or where a halt was asked for (R420). -/
theorem issued_eq (s : State) (x y : Ctx) (next : Word) :
    issued s x y next =
      let t := s.putCtx s.cur (y.retired next)
      if (s.slot s.cur).step || y.stepOne then t.halt s.cur 1 else if y.haltReq then t.halt s.cur 3 else t := by
  simp [issued, Ex.retire]

theorem halt_slot (s : State) (c : CtxId) (reason : Nat) :
    ((s.halt c reason).slot c).halted = true ∧ ((s.halt c reason).slot c).reason = reason := by
  simp [State.halt]

theorem issued_of_stepping {s : State} {x y : Ctx} {next : Word} (h : (s.slot s.cur).step = true ∨ y.stepOne = true) :
    issued s x y next = (s.putCtx s.cur (y.retired next)).halt s.cur 1 := by
  rw [issued_eq]
  exact if_pos (Bool.or_eq_true_iff.2 h)

theorem issued_of_not_stepping {s : State} {x y : Ctx} {next : Word} (hs : (s.slot s.cur).step = false) (hy : y.stepOne = false) :
    issued s x y next =
      if y.haltReq then (s.putCtx s.cur (y.retired next)).halt s.cur 3 else s.putCtx s.cur (y.retired next) := by
  simp [issued_eq, hs, hy]

/-- An instruction of a context that neither steps nor is asked to halt only puts the retired context back. -/
theorem issued_of_running {s : State} {x y : Ctx} {next : Word} (hs : (s.slot s.cur).step = false) (hy : y.stepOne = false)
    (hh : y.haltReq = false) : issued s x y next = s.putCtx s.cur (y.retired next) := by
  simp [issued_of_not_stepping hs hy, hh]

/-- Settles O5, by what retiring answers with STEP clear and with STEP set. -/
theorem retiringMovesOnAndSteppingHalts : Obligations.RetiringMovesOnAndSteppingHalts := by
  unfold Obligations.RetiringMovesOnAndSteppingHalts
  refine ⟨fun s x y next hs hy => ⟨fun hh => ?_, fun hh => ?_⟩, fun s x y next h => ?_⟩
  · rw [issued_of_running hs hy hh, retired_eq]
  · rw [issued_of_not_stepping hs hy, if_pos hh, retired_eq]
  · rw [issued_of_stepping h]
    exact halt_slot _ _ _

end Sys2Proof.Claims
end

section
/-! The register forms (R7, R98-R114): how an instruction whose operands are ready issues, one lemma for each body the forms share. -/
namespace Sys2Proof.Claims
open Sys2Proof.Machine

/-! ### Operands, destinations and the divide unit -/

/-- Registers among ready ones are ready. -/
theorem Ready.mono {s : State} {x : Ctx} {regs more : List Reg} (h : Ready s x more) (hsub : regs ⊆ more) : Ready s x regs := by
  obtain ⟨⟨hw, ho, hl⟩, hb⟩ := h
  exact ⟨⟨fun w hm hr => hw w hm (hsub hr), fun a ha r hr => ho a ha r (hsub hr), fun p hp hr => hl p hp (hsub hr)⟩,
    fun r hr => hb r (hsub hr)⟩

/-- Ready registers with a destination among them are read, and nothing else happens. -/
theorem run_operands_ready (i : Instr) {s : State} {x : Ctx} {srcs : List Reg} {d : Reg} (h : Ready s x (srcs ++ [d])) :
    (operands i srcs (some d)).run (start s x) = .ok ((srcs.map x.reg, .reg d), start s x) := by
  obtain ⟨⟨hw, ho, hl⟩, hb⟩ := h
  rw [← List.append_nil (srcs ++ [d])] at hw ho hl
  exact operands_plain i (start s x) srcs (some d) [] hw ho hl hb

/-- Ready registers are read without a destination, and nothing else happens. -/
theorem run_operands_ready_noDest (i : Instr) {s : State} {x : Ctx} {srcs : List Reg} (h : Ready s x srcs) :
    (operands i srcs none).run (start s x) = .ok ((srcs.map x.reg, .reg 0), start s x) := by
  obtain ⟨⟨hw, ho, hl⟩, hb⟩ := h
  rw [← List.append_nil srcs, ← List.append_nil (srcs ++ [])] at hw ho hl
  rw [← List.append_nil srcs] at hb
  exact operands_plain i (start s x) srcs none [] hw ho hl hb

theorem run_putSlow_reg (e : Ex) (d : Reg) (n : Nat) (v : Word) :
    (putSlow (.reg d) n v).run e =
      .ok ((), { e with cx := (e.cx.setReg d v).slow e.st.clock d (e.st.ccAfter e.st.cur.core n) }) := rfl

/-- The divide unit of the current core can be taken (R93). -/
abbrev UnitFree (s : State) : Prop := (s.core s.cur.core).divFree ≤ s.clock

/-- The state with the divide unit of the current core held for `n` cc (R92). -/
def unitHeldFor (s : State) (n : Nat) : State :=
  s.modCore s.cur.core fun k => { k with divFree := s.ccAfter s.cur.core n }

theorem run_dividerFree {e : Ex} (h : UnitFree e.st) : dividerFree.run e = .ok ((), e) := by
  rw [dividerFree, run_bind_ok (run_st e)]
  exact run_waitUnless (decide_eq_true h) e

theorem run_dividerFree_held {e : Ex} (h : ¬ UnitFree e.st) : dividerFree.run e = .error .wait := by
  rw [dividerFree, run_bind_ok (run_st e)]
  exact run_waitUnless_false (decide_eq_false h) e

/-- What a rounding operation makes of its context: the flags ORed in and, under SR, the counter advanced (R71, R79). -/
def roundedCtx (x : Ctx) (r : Rnd) (fl : Flags) : Ctx := (x.orFlags fl).advance (x.mode r).code 1

/-- What a rounding operation delivers (R108). -/
def roundedOp (x : Ctx) (srcs : List Reg) (p : Prec) (r : Rnd) (f : Bool → List FV → Exact × Flags) : Nat × Flags :=
  p.ffmt.deliver (x.mode r) (f ((x.mode r).code == 3) ((srcs.map x.reg).map (fpArg p)))

/-- A multiple of 4 has no bit below bit 2. -/
theorem and_three_eq_zero {v : Word} (h : v.toNat % 4 = 0) : v &&& 3 = 0 := by
  apply BitVec.eq_of_toNat_eq
  rw [BitVec.toNat_and]
  exact (Nat.and_two_pow_sub_one_eq_mod v.toNat 2).trans h

/-! ### The bodies -/

section
variable {s : State} {x : Ctx} (hx : s.ctx? s.cur = some x)
include hx

/-- A body that begins with ready operands goes on with their values and a destination register. -/
theorem runWord_operands {i : Instr} {srcs : List Reg} {d : Reg} {k : List Word × Plan → M Unit} {e : Ex}
    (hr : Ready s x (srcs ++ [d])) (hk : (k (srcs.map x.reg, .reg d)).run (start s x) = .ok ((), e)) :
    runWord (operands i srcs (some d) >>= k) s = .next e.retire :=
  runWord_ok hx ((run_bind_ok (run_operands_ready i hr)).trans hk)

/-- The same of a body that takes the divide unit first, where the unit is free. -/
theorem runWord_unit_operands {i : Instr} {srcs : List Reg} {d : Reg} {k : List Word × Plan → M Unit} {e : Ex}
    (hu : UnitFree s) (hr : Ready s x (srcs ++ [d])) (hk : (k (srcs.map x.reg, .reg d)).run (start s x) = .ok ((), e)) :
    runWord (dividerFree >>= fun _ => operands i srcs (some d) >>= k) s = .next e.retire :=
  runWord_ok hx ((run_bind_ok (run_dividerFree hu)).trans ((run_bind_ok (run_operands_ready i hr)).trans hk))

/-- R93: where the divide unit is held, a body that takes it waits, with no effect. -/
theorem runWord_unit_held {k : Unit → M Unit} (hu : ¬ UnitFree s) : runWord (dividerFree >>= k) s = .next s :=
  runWord_wait hx (run_bind_error (run_dividerFree_held hu))

theorem runWord_alu1 {i : Instr} {d a : Reg} {f : Word → Word} (hr : Ready s x [a, d]) :
    runWord (alu1 i d a f) s = .next (issued s x (x.setReg d (f (x.reg a))) (x.pc + 4)) :=
  runWord_operands hx (srcs := [a]) hr rfl

theorem runWord_alu2 {i : Instr} {d a b : Reg} {f : Word → Word → Word} (hr : Ready s x [a, b, d]) :
    runWord (alu2 i d a b f) s = .next (issued s x (x.setReg d (f (x.reg a) (x.reg b))) (x.pc + 4)) :=
  runWord_operands hx (srcs := [a, b]) hr rfl

theorem runWord_alu2Slow {n : Nat} {i : Instr} {d a b : Reg} {f : Word → Word → Word} (hr : Ready s x [a, b, d]) :
    runWord (alu2Slow n i d a b f) s =
      .next (issued s x ((x.setReg d (f (x.reg a) (x.reg b))).slow s.clock d (s.ccAfter s.cur.core n)) (x.pc + 4)) :=
  runWord_operands hx (srcs := [a, b]) hr rfl

theorem runWord_divide {i : Instr} {signed : Bool} {d a b : Reg} {f : Word → Word → Word} (hu : UnitFree s)
    (hr : Ready s x [a, b, d]) :
    runWord (divide i signed d a b f) s =
      let n := divLatency (if signed then (x.reg a).toInt.natAbs else (x.reg a).toNat)
      .next (issued (unitHeldFor s n) x ((x.setReg d (f (x.reg a) (x.reg b))).slow s.clock d (s.ccAfter s.cur.core n)) (x.pc + 4)) :=
  runWord_unit_operands hx (srcs := [a, b]) hu hr rfl

theorem exec_ins {d a b : Reg} {width : ExtW} (hr : Ready s x [a, b, d]) :
    exec (.ins d a b width) s =
      .next (issued s x (x.setReg d (insW (x.reg d) (x.reg a) (x.reg b) (extWidth width))) (x.pc + 4)) :=
  runWord_operands hx (srcs := [a, b, d]) (hr.mono (by simp)) rfl

theorem exec_lih {d : Reg} {k : Fin 4} {imm : BitVec 16} (hr : Ready s x [d]) :
    exec (.lih d k imm) s = .next (issued s x (x.setReg d (lihW (x.reg d) k.val imm)) (x.pc + 4)) :=
  runWord_operands hx (srcs := [d]) (hr.mono (by simp)) rfl

theorem exec_pcrel {d : Reg} {imm : BitVec 16} (hr : Ready s x [d]) :
    exec (.pcrel d imm) s = .next (issued s x (x.setReg d (x.pc + (imm.signExtend 64 <<< 2))) (x.pc + 4)) :=
  runWord_operands hx (srcs := []) hr rfl

/-! ### Floating point -/

theorem runWord_fpOp {i : Instr} {d : Reg} {srcs : List Reg} {p : Prec} {r : Rnd} {f : Bool → List FV → Exact × Flags}
    (hr : Ready s x (srcs ++ [d])) :
    runWord (fpOp i false d srcs p r f) s =
      let c := roundedOp x srcs p r f
      .next (issued s x (((roundedCtx x r c.2).setReg d (wd c.1)).slow s.clock d (s.ccAfter s.cur.core 4)) (x.pc + 4)) :=
  runWord_operands hx hr rfl

theorem runWord_fpOp_unit {i : Instr} {d : Reg} {srcs : List Reg} {p : Prec} {r : Rnd} {f : Bool → List FV → Exact × Flags}
    (hu : UnitFree s) (hr : Ready s x (srcs ++ [d])) :
    runWord (fpOp i true d srcs p r f) s =
      let c := roundedOp x srcs p r f
      .next (issued (unitHeldFor s (fpDivLatency p)) x
        (((roundedCtx x r c.2).setReg d (wd c.1)).slow s.clock d (s.ccAfter s.cur.core (fpDivLatency p))) (x.pc + 4)) :=
  runWord_unit_operands hx hu hr rfl

theorem runWord_fpMinMax {i : Instr} {isMax : Bool} {d a b : Reg} {p : Prec} (hr : Ready s x [a, b, d]) :
    runWord (fpMinMax i isMax d a b p) s =
      let c := p.ffmt.minMax isMax (lowBits (x.reg a) p.ffmt.width) (lowBits (x.reg b) p.ffmt.width)
      .next (issued s x (((x.orFlags c.2).setReg d (wd c.1)).slow s.clock d (s.ccAfter s.cur.core 4)) (x.pc + 4)) :=
  runWord_operands hx (srcs := [a, b]) hr rfl

theorem runWord_fpCmp {i : Instr} {k : CmpKind} {d a b : Reg} {p : Prec} (hr : Ready s x [a, b, d]) :
    runWord (fpCmp i k d a b p) s =
      let c := fpCompare k (fpArg p (x.reg a)) (fpArg p (x.reg b))
      .next (issued s x (((x.orFlags c.2).setReg d (bool01 c.1)).slow s.clock d (s.ccAfter s.cur.core 4)) (x.pc + 4)) :=
  runWord_operands hx (srcs := [a, b]) hr rfl

theorem exec_fcvt {d a : Reg} {dst src : FType} {r : Rnd} (hr : Ready s x [a, d]) :
    exec (.fcvt d a dst src r) s =
      let c := cvtRes dst (x.mode r) (cvtArg src (x.reg a))
      .next (issued s x (((roundedCtx x r c.2).setReg d c.1).slow s.clock d (s.ccAfter s.cur.core 4)) (x.pc + 4)) :=
  runWord_operands hx (srcs := [a]) hr rfl

/-! ### Branches -/

theorem runWord_branch {w : Nat} {i : Instr} {a b : Reg} {off : BitVec w} {c : Word → Word → Bool} (hr : Ready s x [a, b]) :
    runWord (branch i a b off c) s =
      .next (if c (x.reg a) (x.reg b) then issued s x (jumped s x) (targetOf x.pc off) else issued s x x (x.pc + 4)) := by
  have hrun : ∀ k : List Word × Plan → M Unit, (operands i [a, b] none >>= k).run (start s x) =
      (k ([x.reg a, x.reg b], .reg 0)).run (start s x) := fun k => run_bind_ok (run_operands_ready_noDest i hr)
  cases hc : c (x.reg a) (x.reg b)
  · exact runWord_ok hx ((hrun _).trans (by simp [hc]; rfl))
  · exact runWord_ok hx ((hrun _).trans (by simp [hc]; rfl))

theorem exec_call {d : Reg} {off : BitVec 21} (hr : Ready s x [d]) :
    exec (.call d off) s = .next (issued s x (jumped s (x.setReg d (x.pc + 4))) (targetOf x.pc off)) :=
  runWord_operands hx (srcs := []) hr rfl

theorem exec_jmpr {d t : Reg} (hr : Ready s x [t, d]) (ht : (x.reg t).toNat % 4 = 0) :
    exec (.jmpr d t) s = .next (issued s x (jumped s (x.setReg d (x.pc + 4))) (x.reg t)) :=
  runWord_operands hx (srcs := [t]) hr (run_bind_ok (run_faultIf_false (decide_eq_false fun hne => hne (and_three_eq_zero ht)) _ _ _))

end

end Sys2Proof.Claims
end

section
/-! The frame of the register forms (R7, R90, R98-R114): what issuing one of them leaves alone, in the machine and in its context. -/
namespace Sys2Proof.Claims
open Sys2Proof.Machine

/-! ### The machine outside a slot -/

theorem core_modCore (s : State) (c d : CoreId) (f : Core → Core) :
    (s.modCore c f).core d = if d.key = c.key then f (s.core d) else s.core d := by
  split
  case isTrue h => simp [State.core, State.modCore, State.setCore, h]
  case isFalse h => rw [State.modCore, State.core_setCore_ne s _ h]

theorem slot_setSlot_ne (k : Core) {m n : Nat} (x : Slot) (h : m % 11 ≠ n % 11) : (k.setSlot n x).slot m = k.slot m :=
  vecGet_set_ne _ _ fun e => h (congrArg Fin.val e).symm

theorem SameButSlot.refl (s : State) (c : CtxId) : SameButSlot s s c := by
  unfold SameButSlot
  simp

theorem SameButSlot.mem {s t : State} {c : CtxId} (h : SameButSlot s t c) : t.mem = s.mem := by
  obtain ⟨-, hmem, -⟩ := h
  exact hmem

theorem SameButSlot.trans {s t u : State} {c : CtxId} (h1 : SameButSlot s t c) (h2 : SameButSlot t u c) : SameButSlot s u c := by
  have hcore {p q r : Core} (h : { q with slots := p.slots, divFree := p.divFree } = p)
      (h' : { r with slots := q.slots, divFree := q.divFree } = q) : { r with slots := p.slots, divFree := p.divFree } = p :=
    (congrArg (fun k => { k with slots := p.slots, divFree := p.divFree }) h').trans h
  unfold SameButSlot at *
  grind

/-- A change of one core in nothing but one slot and the time at which its divide unit frees. -/
theorem sameButSlot_modCore {s : State} {c : CtxId} {f : Core → Core}
    (hcore : ∀ k : Core, { f k with slots := k.slots, divFree := k.divFree } = k)
    (hslot : ∀ (k : Core) (n : Nat), n % 11 ≠ c.slot % 11 → (f k).slot n = k.slot n) : SameButSlot s (s.modCore c.core f) c := by
  refine ⟨rfl, rfl, rfl, rfl, rfl, rfl, rfl, rfl, rfl, rfl, rfl, rfl, rfl, rfl, rfl, rfl, rfl, rfl, rfl, rfl,
    fun d hd => ?_, fun k => ?_⟩
  · rw [State.slot, State.slot, core_modCore]
    rcases hd with hkey | ⟨heq, hne⟩
    · rw [if_neg hkey]
    · rw [if_pos (congrArg CoreId.key heq), hslot _ _ hne]
  · rw [core_modCore]
    split
    · exact hcore _
    · rfl

theorem sameButSlot_putCtx (s : State) (c : CtxId) (x : Ctx) : SameButSlot s (s.putCtx c x) c :=
  sameButSlot_modCore (fun _ => rfl) fun k _ h => slot_setSlot_ne k _ h

theorem sameButSlot_unitHeldFor (s : State) (n : Nat) : SameButSlot s (unitHeldFor s n) s.cur :=
  sameButSlot_modCore (fun _ => rfl) fun _ _ _ => rfl

theorem slot_unitHeldFor (s : State) (n : Nat) (c : CtxId) : (unitHeldFor s n).slot c = s.slot c := by
  rw [State.slot, State.slot, unitHeldFor, core_modCore]
  split <;> rfl

/-! ### The context outside a destination -/

/-- What an instruction that computes into register `d` leaves alone in its context; its flags and its stochastic counter too where
`plain` says so. -/
structure KeepsBut (d : Reg) (plain : Prop) (x y : Ctx) : Prop where
  special : SameSpecial x y
  reg : ∀ r, r ≠ d → y.reg r = x.reg r
  flags : plain → y.fflags = x.fflags ∧ y.srctr = x.srctr
  stepOne : y.stepOne = x.stepOne
  haltReq : y.haltReq = x.haltReq

section
variable {d : Reg} {plain : Prop} {x y : Ctx}

theorem KeepsBut.refl : KeepsBut d plain x x where
  special := by unfold SameSpecial; simp
  reg _ _ := rfl
  flags _ := ⟨rfl, rfl⟩
  stepOne := rfl
  haltReq := rfl

/-- A write of a register is a change of the table of registers alone. -/
theorem setReg_eq (x : Ctx) (r : Reg) (v : Word) : x.setReg r v = { x with regs := (x.setReg r v).regs } := by
  unfold Ctx.setReg
  split <;> rfl

theorem KeepsBut.setReg (h : KeepsBut d plain x y) (v : Word) : KeepsBut d plain x (y.setReg d v) where
  special := by rw [setReg_eq]; exact h.special
  reg r hr := (Ctx.reg_setReg_ne y v hr).trans (h.reg r hr)
  flags hp := by simpa using h.flags hp
  stepOne := by simpa using h.stepOne
  haltReq := by rw [setReg_eq]; exact h.haltReq

/-- A note of when a result is ready is a change of those notes alone. -/
theorem slow_eq (x : Ctx) (now : Nat) (d : Reg) (n : Nat) : x.slow now d n = { x with lat := (x.slow now d n).lat } := by
  unfold Ctx.slow
  split <;> rfl

theorem KeepsBut.slow (h : KeepsBut d plain x y) (now : Nat) (r : Reg) (n : Nat) : KeepsBut d plain x (y.slow now r n) := by
  rw [slow_eq]
  exact ⟨h.special, h.reg, h.flags, h.stepOne, h.haltReq⟩

theorem KeepsBut.jumped (h : KeepsBut d plain x y) (s : State) : KeepsBut d plain x (jumped s y) :=
  ⟨h.special, h.reg, h.flags, h.stepOne, h.haltReq⟩

theorem KeepsBut.orFlags (h : KeepsBut d plain x y) (hp : ¬ plain) (f : Flags) : KeepsBut d plain x (y.orFlags f) :=
  ⟨h.special, h.reg, fun p => absurd p hp, h.stepOne, h.haltReq⟩

theorem KeepsBut.advance (h : KeepsBut d plain x y) (hp : ¬ plain) (code n : Nat) : KeepsBut d plain x (y.advance code n) := by
  unfold Ctx.advance
  split
  · exact ⟨h.special, h.reg, fun p => absurd p hp, h.stepOne, h.haltReq⟩
  · exact h

theorem KeepsBut.rounded (hp : ¬ plain) (r : Rnd) (f : Flags) : KeepsBut d plain x (roundedCtx x r f) :=
  (KeepsBut.refl.orFlags hp f).advance hp _ _

end

/-! ### The outcome of a form -/

/-- The outcome of an instruction that computes into register `d`: it waits with no effect, or it issues, having changed nothing but its
context within that frame and the divide unit of its core. -/
def IssuesWithin (s : State) (x : Ctx) (d : Reg) (plain : Prop) (o : Host.Outcome State Fault Refusal) : Prop :=
  o = .next s ∨ ∃ s' y next, (s' = s ∨ ∃ n, s' = unitHeldFor s n) ∧ KeepsBut d plain x y ∧ o = .next (issued s' x y next)

section
variable {s : State} {x : Ctx} {d : Reg} {plain : Prop} {o : Host.Outcome State Fault Refusal}

theorem IssuesWithin.of_issued {y : Ctx} {next : Word} (h : o = .next (issued s x y next)) (hy : KeepsBut d plain x y) :
    IssuesWithin s x d plain o := .inr ⟨s, y, next, .inl rfl, hy, h⟩

theorem IssuesWithin.of_unit {n : Nat} {y : Ctx} {next : Word} (h : o = .next (issued (unitHeldFor s n) x y next))
    (hy : KeepsBut d plain x y) : IssuesWithin s x d plain o := .inr ⟨_, y, next, .inr ⟨n, rfl⟩, hy, h⟩

/-- What the next state keeps, where the context neither steps nor is asked to halt. -/
theorem IssuesWithin.frame {t : State} {y : Ctx} (h : IssuesWithin s x d plain o) (hx : s.ctx? s.cur = some x)
    (hstep : (s.slot s.cur).step = false) (hone : x.stepOne = false) (hreq : x.haltReq = false) (ho : o = .next t)
    (hy : t.ctx? s.cur = some y) :
    SameButSlot s t s.cur ∧ SameSpecial x y ∧ (∀ r, r ≠ d → y.reg r = x.reg r) ∧
      (plain → y.fflags = x.fflags ∧ y.srctr = x.srctr) := by
  subst ho
  rcases h with h | ⟨s', z, next, hs', hz, h⟩
  · cases h
    obtain rfl : x = y := Option.some.inj (hx.symm.trans hy)
    obtain ⟨hspecial, hreg, hflags, -, -⟩ := KeepsBut.refl (d := d) (plain := plain) (x := x)
    exact ⟨SameButSlot.refl s s.cur, hspecial, hreg, hflags⟩
  · obtain ⟨hsame, hslot, hcur⟩ : SameButSlot s s' s.cur ∧ s'.slot s.cur = s.slot s.cur ∧ s'.cur = s.cur := by
      rcases hs' with rfl | ⟨n, rfl⟩
      · exact ⟨SameButSlot.refl _ _, rfl, rfl⟩
      · exact ⟨sameButSlot_unitHeldFor s n, slot_unitHeldFor s n _, rfl⟩
    rw [issued_of_running (by rw [hcur, hslot, hstep]) (hz.stepOne.trans hone) (hz.haltReq.trans hreq), hcur] at h
    cases h
    rw [State.ctx?_putCtx] at hy
    cases hy
    exact ⟨hsame.trans (sameButSlot_putCtx s' s.cur _), hz.special, hz.reg, hz.flags⟩

end

end Sys2Proof.Claims
end

section
/-! Every register form keeps that frame, and register zero (R7, R50). -/
namespace Sys2Proof.Claims
open Sys2Proof.Machine

section
variable {s : State} {x : Ctx} (hx : s.ctx? s.cur = some x)
include hx

/-! ### The shared bodies -/

theorem alu1_within {i : Instr} {d a : Reg} {f : Word → Word} {plain : Prop} (hr : Ready s x [a, d]) :
    IssuesWithin s x d plain (runWord (alu1 i d a f) s) :=
  .of_issued (runWord_alu1 hx hr) (KeepsBut.refl.setReg _)

theorem alu2_within {i : Instr} {d a b : Reg} {f : Word → Word → Word} {plain : Prop} (hr : Ready s x [a, b, d]) :
    IssuesWithin s x d plain (runWord (alu2 i d a b f) s) :=
  .of_issued (runWord_alu2 hx hr) (KeepsBut.refl.setReg _)

theorem alu2Slow_within {n : Nat} {i : Instr} {d a b : Reg} {f : Word → Word → Word} {plain : Prop} (hr : Ready s x [a, b, d]) :
    IssuesWithin s x d plain (runWord (alu2Slow n i d a b f) s) :=
  .of_issued (runWord_alu2Slow hx hr) ((KeepsBut.refl.setReg _).slow _ _ _)

theorem divide_within {i : Instr} {signed : Bool} {d a b : Reg} {f : Word → Word → Word} {plain : Prop} (hr : Ready s x [a, b, d]) :
    IssuesWithin s x d plain (runWord (divide i signed d a b f) s) := by
  by_cases hu : UnitFree s
  · exact .of_unit (runWord_divide hx hu hr) ((KeepsBut.refl.setReg _).slow _ _ _)
  · exact .inl (runWord_unit_held hx hu)

theorem fpOp_within {i : Instr} {unit : Bool} {d : Reg} {srcs : List Reg} {p : Prec} {r : Rnd} {f : Bool → List FV → Exact × Flags}
    {plain : Prop} (hp : ¬ plain) (hr : Ready s x (srcs ++ [d])) : IssuesWithin s x d plain (runWord (fpOp i unit d srcs p r f) s) := by
  have hkeeps (v : Word) (fl : Flags) (n : Nat) :
      KeepsBut d plain x (((roundedCtx x r fl).setReg d v).slow s.clock d (s.ccAfter s.cur.core n)) :=
    ((KeepsBut.rounded hp r fl).setReg v).slow _ _ _
  cases unit with
  | false => exact .of_issued (runWord_fpOp hx hr) (hkeeps _ _ _)
  | true =>
    by_cases hu : UnitFree s
    · exact .of_unit (runWord_fpOp_unit hx hu hr) (hkeeps _ _ _)
    · exact .inl (runWord_unit_held hx hu)

theorem fpMinMax_within {i : Instr} {isMax : Bool} {d a b : Reg} {p : Prec} {plain : Prop} (hp : ¬ plain) (hr : Ready s x [a, b, d]) :
    IssuesWithin s x d plain (runWord (fpMinMax i isMax d a b p) s) :=
  .of_issued (runWord_fpMinMax hx hr) (((KeepsBut.refl.orFlags hp _).setReg _).slow _ _ _)

theorem fpCmp_within {i : Instr} {k : CmpKind} {d a b : Reg} {p : Prec} {plain : Prop} (hp : ¬ plain) (hr : Ready s x [a, b, d]) :
    IssuesWithin s x d plain (runWord (fpCmp i k d a b p) s) :=
  .of_issued (runWord_fpCmp hx hr) (((KeepsBut.refl.orFlags hp _).setReg _).slow _ _ _)

theorem branch_within {w : Nat} {i : Instr} {a b d : Reg} {off : BitVec w} {c : Word → Word → Bool} {plain : Prop}
    (hr : Ready s x [a, b]) : IssuesWithin s x d plain (runWord (branch i a b off c) s) := by
  have h := runWord_branch (i := i) (off := off) (c := c) hx hr
  cases hc : c (x.reg a) (x.reg b) <;> rw [hc] at h
  · exact .of_issued h KeepsBut.refl
  · exact .of_issued h (KeepsBut.refl.jumped s)

/-! ### The instructions -/

theorem exec_integerOp_within {i : Instr} {srcs : List Reg} {d : Reg} {f : List Word → Word} {plain : Prop}
    (h : integerOp x.pc i = some (srcs, d, f)) (hr : Ready s x (srcs ++ [d])) : IssuesWithin s x d plain (exec i s) := by
  cases i with
  | add | sub | and | or | xor | andn | orn | sll | srl | sra | ror | mins | maxs | minz | maxz | slts | sltz | idx =>
    cases h
    exact alu2_within hx hr
  | mul | mulhs | mulhz =>
    cases h
    exact alu2Slow_within hx hr
  | divs | divz | rems | remz =>
    cases h
    exact divide_within hx hr
  | clz | ctz | popc | brev | bswp | addi | andi | ori | xori | slli | srli | srai | sltsi | sltzi =>
    cases h
    exact alu1_within hx hr
  | exts _ _ width | extz _ _ width =>
    cases width <;> cases h <;> exact alu1_within hx hr
  | ins =>
    cases h
    exact .of_issued (exec_ins hx (hr.mono (by simp))) (KeepsBut.refl.setReg _)
  | lih =>
    cases h
    exact .of_issued (exec_lih hx (hr.mono (by simp))) (KeepsBut.refl.setReg _)
  | pcrel =>
    cases h
    exact .of_issued (exec_pcrel hx hr) (KeepsBut.refl.setReg _)
  | _ => cases h

theorem exec_floatOp_within {i : Instr} {srcs : List Reg} {d : Reg} {f : Ctx → List Word → Word × Ctx} {plain : Prop}
    (hp : ¬ plain) (h : floatOp i = some (srcs, d, f)) (hr : Ready s x (srcs ++ [d])) : IssuesWithin s x d plain (exec i s) := by
  cases i with
  | fadd | fsub | fmul | fmad | fdiv | fsqrt =>
    cases h
    exact fpOp_within hx hp hr
  | fmin | fmax =>
    cases h
    exact fpMinMax_within hx hp hr
  | feq | flt | fle =>
    cases h
    exact fpCmp_within hx hp hr
  | fcls =>
    cases h
    exact alu1_within hx hr
  | fsgn =>
    cases h
    exact alu2_within hx hr
  | fcvt =>
    cases h
    exact .of_issued (exec_fcvt hx hr) (((KeepsBut.rounded hp _ _).setReg _).slow _ _ _)
  | _ => cases h

/-- A computing instruction keeps the frame, and one that is no floating-point instruction the flags too. -/
theorem exec_computeOp_within {i : Instr} {srcs : List Reg} {d : Reg} {f : Ctx → List Word → Word × Ctx}
    (h : computeOp x.pc i = some (srcs, d, f)) (hr : Ready s x (srcs ++ [d])) :
    IssuesWithin s x d (floatOp i = none) (exec i s) := by
  unfold computeOp at h
  split at h
  next srcs' d' g hint =>
    cases h
    exact exec_integerOp_within hx hint hr
  next => exact exec_floatOp_within hx (by simp [h]) h hr

theorem exec_branchOp_within {i : Instr} {a b d : Reg} {off : Word} {c : Word → Word → Bool} {plain : Prop}
    (h : branchOp i = some (a, b, off, c)) (hr : Ready s x [a, b]) : IssuesWithin s x d plain (exec i s) := by
  cases i with
  | beq | bne | blt | bge | blo | bhs =>
    cases h
    exact branch_within hx hr
  | _ => cases h

end

/-- R50: register zero reads zero and discards writes; any other register reads what was written to it. -/
theorem reg_setReg (x : Ctx) (r : Reg) (v : Word) : x.reg 0 = 0 ∧ x.setReg 0 v = x ∧ (x.setReg r v).reg 0 = 0 ∧
    (r ≠ 0 → (x.setReg r v).reg r = v) ∧ ∀ q, q ≠ r → (x.setReg r v).reg q = x.reg q :=
  ⟨x.reg_zero, x.setReg_zero v, Ctx.reg_zero _, x.reg_setReg_self v, fun _ => x.reg_setReg_ne v⟩

/-- Settles O6: each register form issues within the frame of its destination, and issuing keeps the rest of the machine. -/
theorem registerZeroAndRegisterForms : Obligations.RegisterZeroAndRegisterForms := by
  unfold Obligations.RegisterZeroAndRegisterForms
  refine ⟨reg_setReg, fun s t x y i srcs d hx hstep hone hreq hr hform hexec hy => ?_⟩
  have hwithin : IssuesWithin s x d (floatOp i = none) (exec i s) := by
    rcases hform with ⟨f, hf⟩ | ⟨a, b, off, c, hbr, rfl, rfl⟩ | ⟨off, rfl, rfl⟩ | ⟨r, rfl, rfl, halign⟩
    · exact exec_computeOp_within hx hf hr
    · exact exec_branchOp_within hx hbr (hr.mono (by simp))
    · exact .of_issued (exec_call hx hr) ((KeepsBut.refl.setReg _).jumped s)
    · exact .of_issued (exec_jmpr hx hr halign) ((KeepsBut.refl.setReg _).jumped s)
  obtain ⟨hsame, hspecial, hreg, hflags⟩ := hwithin.frame hx hstep hone hreq hexec hy
  exact ⟨hsame, hspecial, hreg, fun a => by rw [hsame.mem], hflags⟩

end Sys2Proof.Claims
end

section
/-! The identity, priority, pinning, parking and waking of a context (R119, R127, R137, R139, R140), and the actions a task queues
(R166, R175): one lemma for each way an instruction ends. -/
namespace Sys2Proof.Claims
open Sys2Proof.Machine

theorem fld_zero (w : Word) (n : Nat) : fld w 0 n = w.toNat % 2 ^ n := by simp [fld]

theorem wd_b2n (b : Bool) : wd (b2n b) = if b then 1 else 0 := by cases b <;> rfl

/-- A body that leaves only a change of the state it began in. -/
theorem runWord_leave {body : M Unit} {s : State} {x : Ctx} {f : State → State} (hx : s.ctx? s.cur = some x)
    (h : body.run (start s x) = .error (.leave f)) : runWord body s = .next (f s) := by
  simp only [start] at h
  simp only [runWord, hx, h]

theorem run_if_pos {α : Type} {c : Prop} {_ : Decidable c} {m k : M α} {e : Ex} (h : c) : (if c then m else k).run e = m.run e := by
  rw [if_pos h]

theorem run_if_neg {α : Type} {c : Prop} {_ : Decidable c} {m k : M α} {e : Ex} (h : ¬c) : (if c then m else k).run e = k.run e := by
  rw [if_neg h]

/-- Where a wake goes (R139), by the fields of the identity it names (R119). -/
theorem sendWake_eq (s : State) (c : CtxId) (w : Word) :
    s.sendWake c w =
      let o : CtxId := { core := { part := c.core.part, pkg := w.toNat / 2 ^ 15 % 2 ^ 6, vc := w.toNat / 2 ^ 4 % 2 ^ 11 }
                         slot := w.toNat % 16 }
      if s.hasCore o.core then s.send c.core.part 2 (.core c.core) (.core o.core) 0 (.wake o o.core.pkg o.core.vc o.slot c) else s := by
  rw [State.sendWake, fld_zero]
  rfl

/-! ### Queueing an action (R166, R175) -/

theorem run_queueAction_noTask {e : Ex} (h : e.cx.task = none) (w : Action) : (queueAction w).run e = .ok (false, e) := by
  have hspec : e.st.speculative e.st.cur.core.part e.cx = false := by simp [State.speculative, State.task?, h]
  unfold queueAction
  rw [run_bind_ok (run_st e), run_bind_ok (run_cx e)]
  simp only [hspec, h]
  cases w <;> rfl

section
variable {e : Ex} {t : Task} (ht : e.st.task? e.st.cur.core.part e.cx.task = some t) (hopen : t.settled = false)
include ht hopen

theorem run_queueAction_room (hroom : t.actions.length < 8) (w : Action) :
    (queueAction w).run e = .ok (true, { e with st := e.st.modTask e.st.cur.core.part t.id fun t =>
      { t with actions := t.actions ++ [(e.st.nextId, w)] } }) := by
  have hspec : e.st.speculative e.st.cur.core.part e.cx = true := by simp [State.speculative, ht, hopen]
  unfold queueAction
  rw [run_bind_ok (run_st e), run_bind_ok (run_cx e)]
  simp only [hspec, ht, if_neg (Nat.not_le.2 hroom)]
  rfl

theorem run_queueAction_full (hfull : 8 ≤ t.actions.length) (w : Action) :
    (queueAction w).run e =
      .error (.leave fun s => s.modTask e.st.cur.core.part t.id fun t => { t with waitedOp := true }) := by
  have hspec : e.st.speculative e.st.cur.core.part e.cx = true := by simp [State.speculative, ht, hopen]
  unfold queueAction
  rw [run_bind_ok (run_st e), run_bind_ok (run_cx e)]
  simp only [hspec, ht, if_pos hfull]
  rfl

end

/-! ### The instructions -/

section
variable {s : State} {x : Ctx} (hx : s.ctx? s.cur = some x)
include hx

theorem exec_self {d : Reg} (hr : Ready s x [d]) : Answers s x (.self d) d (x.identity s.cur) :=
  runWord_operands hx (srcs := []) hr rfl

theorem exec_yield : exec .yield s = .next (issued s x { x with yielded := true } (x.pc + 4)) :=
  runWord_ok (body := modCx fun x => { x with yielded := true }) hx rfl

theorem runWord_setPin {i : Instr} {d : Reg} {v : Bool} (hr : Ready s x [d]) :
    runWord (setPin i d v) s = .next (issued s x ({ x with pin := v }.setReg d (if x.pin then 1 else 0)) (x.pc + 4)) :=
  (runWord_operands hx (srcs := []) hr rfl).trans (by rw [← wd_b2n]; rfl)

/-! PARK reads its operands first, and then looks for how a park ended. -/

section
variable {d a : Reg} (hr : Ready s x [a, d])
include hr

theorem exec_park_lent (hk : x.kind = .lent) : Raises s x (.park d a) 10 (wordOf (.park d a)) :=
  runWord_fault hx ((run_bind_ok (run_st _)).trans ((run_bind_ok (run_cx _)).trans
    ((run_bind_ok (run_operands_ready (srcs := [a]) _ hr)).trans (run_bind_error (run_faultIf_true (beq_iff_eq.2 hk) _ _ _)))))

variable (hk : x.kind ≠ .lent)
include hk

omit hx in
/-- A PARK outside a lent context goes on past its check. -/
theorem run_park {k : State → Ctx → List Word × Plan → Ctx → M Unit} :
    (st >>= fun s0 => cx >>= fun x0 => operands (.park d a) [a] (some d) >>= fun vp =>
      faultIf (x0.kind == .lent) cContext (wordOf (.park d a)) >>= fun _ => cx >>= k s0 x0 vp).run (start s x) =
      (k s x ([x.reg a], .reg d) (start s x).cx).run (start s x) := by
  rw [run_bind_ok (run_st _), run_bind_ok (run_cx _), run_bind_ok (run_operands_ready (srcs := [a]) _ hr)]
  exact (run_bind_ok (run_faultIf_false (beq_false_of_ne hk) _ _ _)).trans (run_bind_ok (run_cx _))

theorem exec_park_finished {woken : Bool} (hd : x.parkDone = some woken) :
    exec (.park d a) s = .next (issued s x ({ x with parkDone := none }.setReg d (if woken then 1 else 0)) (x.pc + 4)) := by
  refine runWord_ok hx ((run_park hr hk).trans ?_)
  rw [show (start s x).cx.parkDone = _ from hd, ← wd_b2n]
  rfl

theorem exec_park_woken (hd : x.parkDone = none) (hw : x.wakep = true) :
    exec (.park d a) s = .next (issued s x ({ x with wakep := false }.setReg d 1) (x.pc + 4)) := by
  refine runWord_ok hx ((run_park hr hk).trans ?_)
  rw [show (start s x).cx.parkDone = _ from hd]
  exact (run_bind_ok (run_cx _)).trans (run_if_pos hw)

theorem exec_park_parks (hd : x.parkDone = none) (hw : x.wakep = false) :
    exec (.park d a) s = .next (s.putCtx s.cur { x with
      parked := some (if x.reg a = 0 then none else some (s.clock + (x.reg a).toNat * 4)) }) := by
  have hzero : x.reg a = 0 ↔ (x.reg a).toNat = 0 := BitVec.toNat_inj.symm
  simp only [hzero]
  refine runWord_done hx ((run_park hr hk).trans ?_)
  rw [show (start s x).cx.parkDone = _ from hd]
  exact (run_bind_ok (run_cx _)).trans (run_if_neg (by simp [start, hw]))

end

/-! WAKE names its context by the identity in its operand. -/

section
variable {a : Reg} (hr : Ready s x [a])
include hr

/-- R21: there is no context 11 to 15. -/
theorem exec_wake_noSlot (hslot : 10 < (x.reg a).toNat % 16) : Raises s x (.wake a) 2 (wordOf (.wake a)) :=
  runWord_fault hx ((run_bind_ok (run_operands_ready_noDest _ hr)).trans
    (run_bind_error (run_faultIf_true (decide_eq_true (by rw [fld_zero]; exact hslot)) _ _ _)))

variable (hslot : (x.reg a).toNat % 16 ≤ 10)
include hslot

omit hx in
/-- A WAKE of a slot there is goes on past its check with the value of its operand. -/
theorem run_wake {k : List Word × Plan → M Unit} :
    (operands (.wake a) [a] none >>= fun vp => faultIf (decide (10 < fld (vp.1.getD 0 0) 0 4)) cIllegal (wordOf (.wake a)) >>=
      fun _ => k vp).run (start s x) = (k ([x.reg a], .reg 0)).run (start s x) :=
  (run_bind_ok (run_operands_ready_noDest _ hr)).trans
    (run_bind_ok (run_faultIf_false (decide_eq_false (by rw [fld_zero]; exact Nat.not_lt.2 hslot)) _ _ _))

theorem exec_wake_self (ht : x.task = none) (ho : (x.reg a).toNat % 2 ^ 21 = x.origin) :
    exec (.wake a) s = .next (issued s x { x with wakep := true } (x.pc + 4)) := by
  refine runWord_ok hx ((run_wake hr hslot).trans ((run_bind_ok (run_queueAction_noTask (e := start s x) ht _)).trans ?_))
  exact (run_if_pos rfl).trans ((run_bind_ok (run_cx _)).trans (run_if_pos ((fld_zero _ _).trans ho)))

theorem exec_wake_other (ht : x.task = none) (ho : (x.reg a).toNat % 2 ^ 21 ≠ x.origin) :
    exec (.wake a) s = .next (issued (s.sendWake s.cur (x.reg a)) x x (x.pc + 4)) := by
  refine runWord_ok hx ((run_wake hr hslot).trans ((run_bind_ok (run_queueAction_noTask (e := start s x) ht _)).trans ?_))
  exact (run_if_pos rfl).trans ((run_bind_ok (run_cx _)).trans (run_if_neg fun h => ho ((fld_zero _ _).symm.trans h)))

section
variable {t : Task} (ht : s.task? s.cur.core.part x.task = some t) (hopen : t.settled = false)
include ht hopen

theorem exec_wake_queued (hroom : t.actions.length < 8) :
    exec (.wake a) s = .next (issued (s.modTask s.cur.core.part t.id fun t =>
      { t with actions := t.actions ++ [(s.nextId, .wake (x.reg a))] }) x x (x.pc + 4)) :=
  runWord_ok hx ((run_wake hr hslot).trans ((run_bind_ok (run_queueAction_room (e := start s x) ht hopen hroom _)).trans rfl))

theorem exec_wake_full (hfull : 8 ≤ t.actions.length) :
    exec (.wake a) s = .next (s.modTask s.cur.core.part t.id fun t => { t with waitedOp := true }) :=
  runWord_leave (f := fun u => u.modTask s.cur.core.part t.id fun t => { t with waitedOp := true }) hx
    ((run_wake hr hslot).trans (run_bind_error (run_queueAction_full (e := start s x) ht hopen hfull _)))

end

end

end

/-- Settles O27: each clause is one way SELF, YIELD, PIN, UNPIN, PARK or WAKE ends. -/
theorem contextsYieldPinParkAndWake : Obligations.ContextsYieldPinParkAndWake := by
  unfold Obligations.ContextsYieldPinParkAndWake
  intro s x d a hx hr
  have hd : Ready s x [d] := hr.mono (by simp)
  have ha : Ready s x [a] := hr.mono (by simp)
  exact ⟨exec_self hx hd, exec_yield hx, runWord_setPin hx hd, runWord_setPin hx hd,
    exec_park_lent hx hr, exec_park_woken hx hr, fun _ hk => exec_park_finished hx hr hk, exec_park_parks hx hr,
    exec_wake_noSlot hx ha, exec_wake_self hx ha, fun hslot ht ho => (exec_wake_other hx ha hslot ht ho).trans (by rw [sendWake_eq]),
    fun _ hslot ht hopen => ⟨exec_wake_queued hx ha hslot ht hopen, exec_wake_full hx ha hslot ht hopen⟩⟩

end Sys2Proof.Claims
end

section
/-! What a package's part of the state keeps when a step changes it, and what clearing the memory of some addresses leaves. -/
namespace Sys2Proof.Machine

theorem amSet_of_amGet? {α : Type} {m : AMap α} {k : Nat} {v : α} (h : amGet? m k = some v) : amSet m k v = m := by
  induction m with
  | nil => cases h
  | cons y r ih =>
    obtain ⟨j, u⟩ := y
    rw [amGet?] at h
    rw [amSet]
    split at h
    next hkj =>
      cases h
      rw [if_neg (by omega), if_pos hkj, hkj]
    next hkj =>
      split at h
      next => cases h
      next hlt => rw [if_neg hlt, if_neg hkj, ih h]

section
variable (s : State) (g : Nat) (f : Pkg → Pkg)

@[simp] theorem State.pkg_modPkg : (s.modPkg g f).pkg g = f (s.pkg g) := State.pkg_setPkg s g _

end

section
variable {s : State} {g : Nat} (hg : (amGet? s.pkgs g).isSome = true)
include hg

theorem State.onPkg_eq (f : Pkg → Pkg) : s.onPkg g f = s.modPkg g f := if_pos hg

/-- A change that leaves a package as it is leaves the state as it is. -/
theorem State.modPkg_eq_self {f : Pkg → Pkg} (hf : f (s.pkg g) = s.pkg g) : s.modPkg g f = s := by
  obtain ⟨k, hk⟩ := Option.isSome_iff_exists.1 hg
  have hpkg : s.pkg g = k := by simp [State.pkg, amGet, hk]
  rw [State.modPkg, hf, hpkg, State.setPkg, amSet_of_amGet? hk]

theorem State.onPkg_eq_self {f : Pkg → Pkg} (hf : f (s.pkg g) = s.pkg g) : s.onPkg g f = s :=
  (State.onPkg_eq hg f).trans (State.modPkg_eq_self hg hf)

end

/-- A canonical memory cut to some addresses reads as before at those and zero elsewhere. -/
theorem Memory.read_filter {m : List Host.Cell} (p : Nat → Bool) (a : Nat) (h : Memory.wf m = true) :
    Memory.read (m.filter fun c => p c.1) a = if p a then Memory.read m a else 0 := by
  rw [Memory.wf_iff] at h
  obtain ⟨hp, -⟩ := h
  induction m with
  | nil => simp [Memory.read]
  | cons y r ih =>
    obtain ⟨k, v⟩ := y
    obtain ⟨hk, hr⟩ := List.pairwise_cons.1 hp
    by_cases hpk : p k = true
    · rw [List.filter_cons_of_pos (p := fun c : Host.Cell => p c.1) hpk, Memory.read, Memory.read, ih hr]
      by_cases hak : a = k
      · simp [hak, hpk]
      · simp only [if_neg hak]
        split <;> simp
    · rw [List.filter_cons_of_neg (p := fun c : Host.Cell => p c.1) hpk, ih hr, Memory.read]
      by_cases hak : a = k
      · simp [hak, hpk]
      · rw [if_neg hak]
        split
        next hpa =>
          split
          next hlt => exact Memory.read_below fun c hc => Nat.lt_trans hlt (hk c hc)
          next => rfl
        next => rfl

end Sys2Proof.Machine
end

section
/-! What stands in a package without power, as the model tests it: signatures, copies of the Winter table, firmware images (R448, R453,
R457). -/
namespace Sys2Proof.Claims
open Sys2Proof.Machine

/-! ### Signatures -/

theorem blockOk_iff (k : Pkg) : k.blockOk = true ↔ BothHold k (blockBytes k.lifeBlock) k.lifeSig1 k.lifeSig2 := by
  simp [Pkg.blockOk, Pkg.attests]

theorem copyOk_iff (k : Pkg) (c : WinterCopy) : k.copyOk c = true ↔ ValidCopy k c := by
  simp [Pkg.copyOk, Pkg.attests, and_assoc]

theorem imageOk_iff (k : Pkg) (i : FwImage) : k.imageOk i = true ↔ ValidImage k i := by
  simp [Pkg.imageOk, and_assoc]

/-! ### The copy of the Winter table in use (R448) -/

theorem winterIs_eq (k : Pkg) :
    k.winterIs = if UsesA k then some true else if ValidCopy k k.copyB then some false else none := by
  simp only [Pkg.winterIs, UsesA, ← copyOk_iff]
  cases k.copyOk k.copyA with
  | false => cases k.copyOk k.copyB <;> simp
  | true =>
    cases k.copyOk k.copyB with
    | false => simp
    | true => by_cases hv : k.copyB.version ≤ k.copyA.version <;> simp [hv]

theorem winter_eq_newestCopy (k : Pkg) : k.winter = newestCopy k := by
  rw [Pkg.winter, winterIs_eq, newestCopy]
  split
  · rfl
  · split <;> rfl

/-! ### The firmware image that runs (R457) -/

/-- An image that stands in one of the two places for it and is valid. -/
def Candidate (k : Pkg) (i : FwImage) : Prop := (k.fw0 = some i ∨ k.fw1 = some i) ∧ ValidImage k i

theorem candidate_iff (k : Pkg) (i : FwImage) :
    Candidate k i ↔ k.fw0.filter k.imageOk = some i ∨ k.fw1.filter k.imageOk = some i := by
  simp only [Candidate, Option.filter_eq_some_iff, imageOk_iff, or_and_right]

theorem image?_eq_none {k : Pkg} (h : k.image? = none) (i : FwImage) : ¬Candidate k i := by
  rw [candidate_iff]
  unfold Pkg.image? at h
  split at h
  · cases h
  · cases h
  next h0 => simp [h0, h]

theorem image?_eq_some {k : Pkg} {i : FwImage} (h : k.image? = some i) :
    Candidate k i ∧ ∀ j, Candidate k j → j.version ≤ i.version := by
  simp only [candidate_iff]
  unfold Pkg.image? at h
  split at h
  next a b ha hb =>
    cases h
    rw [ha, hb]
    split
    · exact ⟨.inl rfl, by rintro j (h | h) <;> cases h <;> omega⟩
    · exact ⟨.inr rfl, by rintro j (h | h) <;> cases h <;> omega⟩
  next a ha hb =>
    cases h
    rw [ha, hb]
    exact ⟨.inl rfl, by rintro j (h | h) <;> cases h; exact Nat.le_refl _⟩
  next ha =>
    rw [ha, h]
    exact ⟨.inr rfl, by rintro j (h | h) <;> cases h; exact Nat.le_refl _⟩

theorem exists_candidate_iff (k : Pkg) :
    (k.fw0.any (ValidImage k ·) || k.fw1.any (ValidImage k ·)) = true ↔ ∃ i, Candidate k i := by
  simp only [Bool.or_eq_true, Option.any_eq_true, decide_eq_true_eq, Candidate, or_and_right, exists_or]

/-! ### A rewrite of the table (R448) -/

/-- Two entries that name one unit. -/
def SameUnit (f e : BitVec 64) : Prop := fld f 60 4 = fld e 60 4 ∧ fld f 40 16 = fld e 40 16

theorem SameUnit.trans {d e f : BitVec 64} (h1 : SameUnit d e) (h2 : SameUnit e f) : SameUnit d f := by
  obtain ⟨hkind, hunit⟩ := h1
  obtain ⟨hkind', hunit'⟩ := h2
  exact ⟨hkind.trans hkind', hunit.trans hunit'⟩

/-- A list of entries with one more, unless it names the unit of that already. -/
def withEntry (l : List (BitVec 64)) (e : BitVec 64) : List (BitVec 64) :=
  if l.any fun f => fld f 60 4 == fld e 60 4 && fld f 40 16 == fld e 40 16 then l else l ++ [e]

theorem prefix_withEntry (l : List (BitVec 64)) (e : BitVec 64) : l <+: withEntry l e := by
  unfold withEntry
  split
  · exact List.prefix_rfl
  · exact List.prefix_append _ _

theorem exists_mem_withEntry (l : List (BitVec 64)) (e : BitVec 64) : ∃ f ∈ withEntry l e, SameUnit f e := by
  unfold withEntry
  split
  next h => simpa [SameUnit] using h
  next => exact ⟨e, by simp, rfl, rfl⟩

theorem prefix_foldl_withEntry (es l : List (BitVec 64)) : l <+: es.foldl withEntry l := by
  induction es generalizing l with
  | nil => exact List.prefix_rfl
  | cons e es ih => exact (prefix_withEntry l e).trans (ih _)

theorem exists_mem_foldl_withEntry {es : List (BitVec 64)} {e : BitVec 64} (he : e ∈ es) (l : List (BitVec 64)) :
    ∃ f ∈ es.foldl withEntry l, SameUnit f e := by
  induction es generalizing l with
  | nil => cases he
  | cons e' es ih =>
    rcases List.mem_cons.1 he with rfl | he
    · obtain ⟨f, hf, hs⟩ := exists_mem_withEntry l e
      exact ⟨f, (prefix_foldl_withEntry es _).subset hf, hs⟩
    · exact ih he _

/-- The signed copy that follows copy `c` with further entries. -/
def nextCopy (k : Pkg) (c : WinterCopy) (es : List (BitVec 64)) : WinterCopy :=
  let entries := (es.foldl withEntry c.entries).take 1024
  let version := (c.version + 1) % 2 ^ 32
  { version, entries
    sig1 := Config.signs false k.attKey1 (winterMsg version entries)
    sig2 := Config.signs true k.attKey2 (winterMsg version entries) }

theorem rewrite_of_none {k : Pkg} (h : k.winterIs = none) (es : List (BitVec 64)) : k.rewrite es = k := by
  simp only [Pkg.rewrite, h]

theorem rewrite_of_copyA {k : Pkg} (h : k.winterIs = some true) (es : List (BitVec 64)) :
    k.rewrite es = { k with copyB := nextCopy k k.copyA es } := by
  simp only [Pkg.rewrite, h]
  rfl

theorem rewrite_of_copyB {k : Pkg} (h : k.winterIs = some false) (es : List (BitVec 64)) :
    k.rewrite es = { k with copyA := nextCopy k k.copyB es } := by
  simp only [Pkg.rewrite, h]
  rfl

section
variable (k : Pkg) {c : WinterCopy} (es : List (BitVec 64))

theorem bothHold_nextCopy : let n := nextCopy k c es; BothHold k (winterMsg n.version n.entries) n.sig1 n.sig2 :=
  ⟨.inl rfl, .inl rfl⟩

theorem prefix_nextCopy (hc : c.entries.length ≤ 1024) : c.entries <+: (nextCopy k c es).entries :=
  List.prefix_take_iff.2 ⟨prefix_foldl_withEntry es _, hc⟩

variable {es}

/-- A table that is not full names the unit of every new entry. -/
theorem exists_mem_nextCopy (hroom : (nextCopy k c es).entries.length < 1024) {e : BitVec 64} (he : e ∈ es) :
    ∃ f ∈ (nextCopy k c es).entries, SameUnit f e := by
  have hlen : (es.foldl withEntry c.entries).length ≤ 1024 := by
    simp only [nextCopy, List.length_take] at hroom
    omega
  simp only [nextCopy, List.take_of_length_le hlen]
  exact exists_mem_foldl_withEntry he _

end

/-- A rewrite with entries that name the units of `new_` leaves what R448 asks for. -/
theorem rewritten_rewrite (k : Pkg) {es new_ : List (BitVec 64)} (h : ∀ e ∈ new_, ∃ f ∈ es, SameUnit f e) :
    Rewritten k (k.rewrite es) new_ := by
  have hnew {c : WinterCopy} (hroom : (nextCopy k c es).entries.length < 1024) :
      ∀ e ∈ new_, ∃ f ∈ (nextCopy k c es).entries, SameUnit f e := fun e he => by
    obtain ⟨f, hf, hfe⟩ := h e he
    obtain ⟨f', hf', hff⟩ := exists_mem_nextCopy k hroom hf
    exact ⟨f', hf', hff.trans hfe⟩
  unfold Rewritten newestCopy
  by_cases hA : UsesA k
  · rw [rewrite_of_copyA (by rw [winterIs_eq, if_pos hA]), if_pos hA]
    refine ⟨nofun, fun c hc => ?_⟩
    cases hc
    have ⟨⟨hlen, _⟩, _⟩ := hA
    exact ⟨nextCopy k k.copyA es, rfl, prefix_nextCopy k es hlen, bothHold_nextCopy k es, hnew,
      fun _ => ⟨rfl, rfl⟩, fun h => absurd hA h⟩
  · by_cases hB : ValidCopy k k.copyB
    · rw [rewrite_of_copyB (by rw [winterIs_eq, if_neg hA, if_pos hB]), if_neg hA, if_pos hB]
      refine ⟨nofun, fun c hc => ?_⟩
      cases hc
      have ⟨hlen, _⟩ := hB
      exact ⟨nextCopy k k.copyB es, rfl, prefix_nextCopy k es hlen, bothHold_nextCopy k es, hnew,
        fun h => absurd h hA, fun _ => ⟨rfl, rfl⟩⟩
    · rw [rewrite_of_none (by rw [winterIs_eq, if_neg hA, if_neg hB]), if_neg hA, if_neg hB]
      exact ⟨fun _ => ⟨rfl, rfl⟩, nofun⟩

/-- The entry of a unit that failed names that unit (R455). -/
theorem sameUnit_failedEntry (when_ : Nat) (e : BitVec 64) : SameUnit (failedEntry when_ e) e := by
  have hkind : fld e 60 4 < 2 ^ 4 := Nat.mod_lt _ (by decide)
  have hunit : fld e 40 16 < 2 ^ 16 := Nat.mod_lt _ (by decide)
  obtain ⟨cause, hcause, hle⟩ : ∃ c, (if fld e 56 4 = 4 then 4 else 1) = c ∧ c ≤ 4 := ⟨_, rfl, by split <;> decide⟩
  unfold SameUnit failedEntry
  rw [hcause]
  generalize fld e 60 4 = kind at *
  generalize fld e 40 16 = unit at *
  simp only [fld, wd, BitVec.toNat_ofNat]
  omega

end Sys2Proof.Claims
end

section
/-! Bring-up phase by phase (R455): what each step leaves from the phase before it, and that it has no effect from another. -/
namespace Sys2Proof.Claims
open Sys2Proof.Machine

/-! ### Retirements count in the records alone (R453, R454) -/

/-- One package is another but for its lifetime records and their signed block. -/
def RecordsOnly (k j : Pkg) : Prop :=
  j = { k with life := j.life, lifeBlock := j.lifeBlock, lifeSig1 := j.lifeSig1, lifeSig2 := j.lifeSig2 }

theorem RecordsOnly.trans {k j l : Pkg} (h1 : RecordsOnly k j) (h2 : RecordsOnly j l) : RecordsOnly k l := by
  unfold RecordsOnly at h2
  rw [h1] at h2
  exact h2

/-- What a rewrite leaves does not depend on the records. -/
theorem RecordsOnly.rewritten {k k' : Pkg} (h : RecordsOnly k k') {es new_ : List (BitVec 64)} (n : Nat)
    (hr : Rewritten k' (k'.rewrite es) new_) : Rewritten k { k'.rewrite es with phase := n } new_ := by
  rw [h] at hr ⊢
  exact hr

theorem modPkg_recordsOnly {f : Pkg → Pkg} (hf : ∀ k, RecordsOnly k (f k)) (s : State) (g : Nat) :
    RecordsOnly (s.pkg g) ((s.modPkg g f).pkg g) ∧ (s.modPkg g f).mem = s.mem := by
  rw [State.pkg_modPkg]
  exact ⟨hf _, rfl⟩

theorem retirement_recordsOnly (s : State) (g kind : Nat) :
    RecordsOnly (s.pkg g) ((s.retirement g kind).pkg g) ∧ (s.retirement g kind).mem = s.mem := by
  obtain ⟨hadd, hmem⟩ : RecordsOnly (s.pkg g) ((s.lifeAdd g 5 kind 1).pkg g) ∧ (s.lifeAdd g 5 kind 1).mem = s.mem := by
    unfold State.lifeAdd
    refine modPkg_recordsOnly (fun k => ?_) s g
    rfl
  unfold State.retirement
  dsimp only
  split
  · obtain ⟨hwrite, hmem'⟩ := modPkg_recordsOnly (f := Pkg.writeBlock) (fun _ => rfl) (s.lifeAdd g 5 kind 1) g
    exact ⟨hadd.trans hwrite, hmem'.trans hmem⟩
  · exact ⟨hadd, hmem⟩

theorem foldl_retirement_recordsOnly (es : List (BitVec 64)) (s : State) (g : Nat) :
    let t := es.foldl (fun s e => s.retirement g (fld e 60 4)) s
    RecordsOnly (s.pkg g) (t.pkg g) ∧ t.mem = s.mem := by
  induction es generalizing s with
  | nil => exact ⟨rfl, rfl⟩
  | cons e es ih =>
    obtain ⟨hpkg, hmem⟩ := retirement_recordsOnly s g (fld e 60 4)
    obtain ⟨hpkg', hmem'⟩ := ih (s.retirement g (fld e 60 4))
    exact ⟨hpkg.trans hpkg', hmem'.trans hmem⟩

/-- The entries of the units that failed self-test or training, of those there are (R455). -/
def failedEntries (s : State) (failed : List (BitVec 64)) : List (BitVec 64) :=
  (failed.filter entryOk).map (failedEntry (s.gtime / 1000))

theorem exists_mem_failedEntries (s : State) {failed : List (BitVec 64)} {e : BitVec 64} (he : e ∈ failed.filter entryOk) :
    ∃ f ∈ failedEntries s failed, SameUnit f e :=
  ⟨_, List.mem_map_of_mem he, sameUnit_failedEntry _ e⟩

/-! ### The steps -/

section
variable {s : State} {g : Nat} (hg : (amGet? s.pkgs g).isSome = true)
include hg

theorem powerGood_other (h : (s.pkg g).phase ≠ 0) : s.powerGood g = s := by
  unfold State.powerGood
  exact State.onPkg_eq_self hg (if_neg h)

theorem powerGood_eq (h : (s.pkg g).phase = 0) :
    s.powerGood g = s.modPkg g fun k =>
      { k with phase := 1, oos := 0, life := if (s.pkg g).blockOk then (s.pkg g).lifeBlock else [], hour := s.clock / 14400000000000 } := by
  unfold State.powerGood
  rw [State.onPkg_eq hg]
  exact congrArg (s.setPkg g) (if_pos h)

theorem firmwareVerification_other (h : (s.pkg g).phase ≠ 1) : s.firmwareVerification g = s := by
  unfold State.firmwareVerification
  exact State.onPkg_eq_self hg (if_pos h)

theorem pkg_firmwareVerification (h : (s.pkg g).phase = 1) :
    (∃ i, (s.pkg g).image? = some i ∧
      (s.firmwareVerification g).pkg g = { s.pkg g with phase := 2, fwver := i.version % 65536, fwRun := some i }) ∨
    (s.pkg g).image? = none ∧ (s.firmwareVerification g).pkg g = outOfService (s.pkg g) 1 := by
  unfold State.firmwareVerification
  rw [State.onPkg_eq hg, State.pkg_modPkg, if_neg fun hne => hne h]
  cases (s.pkg g).image? with
  | some i => exact .inl ⟨i, rfl, rfl⟩
  | none => exact .inr ⟨rfl, rfl⟩

omit hg in
theorem selfCalibration_other (failed : List (BitVec 64)) (h : (s.pkg g).phase ≠ 2) : s.selfCalibration g failed = s :=
  if_pos (.inl h)

theorem selfCalibration_spec (failed : List (BitVec 64)) (h : (s.pkg g).phase = 2) :
    (s.selfCalibration g failed).mem = s.mem ∧ ∃ k, RecordsOnly (s.pkg g) k ∧ (s.selfCalibration g failed).pkg g =
      { (if (failedEntries s failed).isEmpty then k else k.rewrite (failedEntries s failed)) with phase := 3 } := by
  obtain ⟨hpkg, hmem⟩ := foldl_retirement_recordsOnly (failedEntries s failed) s g
  unfold State.selfCalibration
  rw [if_neg (not_or.2 ⟨fun hne => hne h, Bool.eq_false_iff.1 (Option.isNone_eq_false_iff.2 hg)⟩)]
  exact ⟨hmem, _, hpkg, State.pkg_modPkg _ g _⟩

theorem numbering_other (h : (s.pkg g).phase ≠ 3) : s.numbering g = s := by
  unfold State.numbering
  exact State.onPkg_eq_self hg (if_pos h)

theorem numbering_mem : (s.numbering g).mem = s.mem := by
  unfold State.numbering
  rw [State.onPkg_eq hg, State.modPkg_mem]

/-- The package as its Winter table numbers it (R22, R449). -/
def numbered (k : Pkg) (c : WinterCopy) : Pkg :=
  { k with
    retired := c.entries, version := c.version
    lanesOff := Machine.dedup (k.lanesOff ++ (c.entries.filter fun e => fld e 60 4 == 4).map fun e => fld e 40 16) }

theorem pkg_numbering (h : (s.pkg g).phase = 3) :
    (newestCopy (s.pkg g) = none → (s.numbering g).pkg g = outOfService (s.pkg g) 2) ∧
    ∀ c, newestCopy (s.pkg g) = some c → (s.numbering g).pkg g =
      let j := numbered (s.pkg g) c
      if j.inService = true then { j with phase := 4 } else outOfService j 3 := by
  unfold State.numbering
  rw [State.onPkg_eq hg, State.pkg_modPkg, if_neg fun hne => hne h, winter_eq_newestCopy]
  constructor
  · intro hn
    rw [hn]
    rfl
  · intro c hc
    rw [hc]
    rfl

omit hg in
theorem memoryInitialisation_other (h : (s.pkg g).phase ≠ 4) : s.memoryInitialisation g = s :=
  if_pos (.inl h)

theorem memoryInitialisation_spec (h : (s.pkg g).phase = 4) :
    (s.memoryInitialisation g).pkg g = { s.pkg g with phase := 5, ready := true, oos := 0 } ∧
    (s.memoryInitialisation g).mem = s.mem.filter fun c => !ofPkg g c.1 := by
  unfold State.memoryInitialisation
  rw [if_neg (not_or.2 ⟨fun hne => hne h, Bool.eq_false_iff.1 (Option.isNone_eq_false_iff.2 hg)⟩)]
  exact ⟨State.pkg_modPkg _ g _, rfl⟩

theorem read_memoryInitialisation (h : (s.pkg g).phase = 4) (hwf : Memory.wf s.mem = true) (a : Nat) :
    Memory.read (s.memoryInitialisation g).mem a = if a / 2 ^ 46 = g then 0 else Memory.read s.mem a := by
  obtain ⟨-, hmem⟩ := memoryInitialisation_spec hg h
  rw [hmem, Memory.read_filter (fun a => !ofPkg g a) a hwf]
  simp [ofPkg]

end

/-! ### The clauses that say more than one step's equation -/

section
variable {s : State} {g : Nat} (hg : (amGet? s.pkgs g).isSome = true)
include hg

theorem powerGood_takesTheBlock (h : (s.pkg g).phase = 0) :
    let k := s.pkg g
    let powered (l : AMap Nat) := s.modPkg g fun k => { k with phase := 1, oos := 0, life := l, hour := s.clock / 14400000000000 }
    let ok := BothHold k (blockBytes k.lifeBlock) k.lifeSig1 k.lifeSig2
    (ok → s.powerGood g = powered k.lifeBlock) ∧ (¬ok → s.powerGood g = powered []) := by
  intro k powered ok
  rw [powerGood_eq hg h]
  exact ⟨fun hok => by rw [if_pos ((blockOk_iff k).2 hok)], fun hok => by rw [if_neg (mt (blockOk_iff k).1 hok)]⟩

/-- R457: the package runs on where one of its images is valid, and is out of service where none is. -/
theorem firmwareVerification_runsOrStops (h : (s.pkg g).phase = 1) :
    let k := s.pkg g
    let j := (s.firmwareVerification g).pkg g
    j = if (k.fw0.any (ValidImage k ·) || k.fw1.any (ValidImage k ·)) = true then { k with phase := 2, fwver := j.fwver, fwRun := j.fwRun }
      else outOfService k 1 := by
  intro k j
  rcases pkg_firmwareVerification hg h with ⟨i, hi, hj⟩ | ⟨hnone, hj⟩
  · obtain ⟨hcand, -⟩ := image?_eq_some hi
    rw [if_pos ((exists_candidate_iff k).2 ⟨i, hcand⟩), show j = _ from hj]
  · rw [if_neg fun hany => ?_]
    · exact hj
    · obtain ⟨i, hcand⟩ := (exists_candidate_iff k).1 hany
      exact image?_eq_none hnone i hcand

/-- R457: what runs is a valid image, and no valid one has a higher version. -/
theorem firmwareVerification_picksNewest (h : (s.pkg g).phase = 1) (hrun : ((s.firmwareVerification g).pkg g).phase = 2) :
    let k := s.pkg g
    let j := (s.firmwareVerification g).pkg g
    ∃ i, (k.fw0 = some i ∨ k.fw1 = some i) ∧ ValidImage k i ∧ j.fwver = i.version % 65536 ∧ j.fwRun = some i ∧
      ∀ i', k.fw0 = some i' ∨ k.fw1 = some i' → ValidImage k i' → i'.version ≤ i.version := by
  rcases pkg_firmwareVerification hg h with ⟨i, hi, hj⟩ | ⟨-, hj⟩
  · obtain ⟨⟨hplace, hvalid⟩, hnewest⟩ := image?_eq_some hi
    exact ⟨i, hplace, hvalid, by rw [hj], by rw [hj], fun i' hp hv => hnewest i' ⟨hp, hv⟩⟩
  · rw [hj] at hrun
    cases hrun

/-- R448, R455: the units that failed enter the table, and without any the table stands. -/
theorem selfCalibration_entersFailed (failed : List (BitVec 64)) (h : (s.pkg g).phase = 2) :
    let k := s.pkg g
    let j := (s.selfCalibration g failed).pkg g
    j.phase = 3 ∧ ((∀ e ∈ failed, entryOk e = false) → j.copyA = k.copyA ∧ j.copyB = k.copyB) ∧
      ((∃ e ∈ failed, entryOk e = true) → Rewritten k j (failed.filter entryOk)) := by
  intro k j
  obtain ⟨-, k', hrec, hj⟩ := selfCalibration_spec hg failed h
  rw [show j = _ from hj]
  refine ⟨rfl, fun hnone => ?_, fun ⟨e, he, hok⟩ => ?_⟩
  · have hempty : failedEntries s failed = [] := by simpa [failedEntries] using hnone
    rw [hempty, hrec]
    exact ⟨rfl, rfl⟩
  · have hne : (failedEntries s failed).isEmpty = false := by
      simpa [failedEntries, List.isEmpty_eq_false_iff] using ⟨e, he, hok⟩
    rw [if_neg (by simp [hne])]
    exact hrec.rewritten 3 (rewritten_rewrite k' fun _ he => exists_mem_failedEntries s he)

end

/-- Settles O53, phase by phase. -/
theorem packageIsBroughtUp : Obligations.PackageIsBroughtUp := by
  unfold Obligations.PackageIsBroughtUp
  intro s g failed hg k
  refine ⟨?power, fun h => congrArg _ (powerGood_other hg h), fun h => congrArg _ (firmwareVerification_other hg h),
    fun h => ⟨_, rfl, firmwareVerification_runsOrStops hg h⟩, ?newest,
    fun h => congrArg _ (selfCalibration_other failed h), ?calibration,
    fun h => congrArg _ (numbering_other hg h), ?numbering,
    fun h => congrArg _ (memoryInitialisation_other h), ?memory⟩
  case power =>
    intro powered ok h
    obtain ⟨hverified, hnot⟩ := powerGood_takesTheBlock hg h
    exact ⟨fun hok => congrArg _ (hverified hok), fun hok => congrArg _ (hnot hok)⟩
  case newest =>
    intro h t ht hrun
    cases ht
    exact firmwareVerification_picksNewest hg h hrun
  case calibration =>
    intro h
    obtain ⟨hphase, hnone, hsome⟩ := selfCalibration_entersFailed hg failed h
    obtain ⟨hmem, -⟩ := selfCalibration_spec hg failed h
    exact ⟨_, rfl, hphase, hmem, hnone, hsome⟩
  case numbering =>
    intro h
    obtain ⟨hnone, hsome⟩ := pkg_numbering hg h
    refine ⟨_, rfl, numbering_mem hg, ?_⟩
    cases hc : newestCopy k with
    | none => exact hnone hc
    | some c => exact hsome c hc
  case memory =>
    intro h hwf
    obtain ⟨hpkg, -⟩ := memoryInitialisation_spec hg h
    exact ⟨_, rfl, congrArg Pkg.ready hpkg, congrArg Pkg.phase hpkg,
      fun a ha => (read_memoryInitialisation hg h hwf a).trans (if_pos ha),
      fun a ha => (read_memoryInitialisation hg h hwf a).trans (if_neg ha)⟩

end Sys2Proof.Claims
end
